-- ==== Sys2Proof/Word.lean ====
section
/-! DEFINITION. The word types of the model. -/

namespace Sys2Proof

/-- One byte of a tray, of HBM, of host-die memory or of the flash. -/
abbrev Byte := BitVec 8

/-- One 512-bit command of a command stream. -/
abbrev Word := BitVec 512

end Sys2Proof
end

