-- ==== Sys2Proof/Syntax.lean ====
section
/-! DEFINITION. The commands of the block: one constructor of `Instr` per row of spec/opcode_table.json. Times,
measurements and what arrives from outside are operands of the event that brings them (notes/assumptions/1). -/

namespace Sys2Proof

/-- The path of a dictionary write: the window of an endpoint (R448), or CAN FD at a gauge with a TXN (R460). -/
inductive Via where
  | window (ep : Nat)
  | can (gauge txn : Nat)
  deriving DecidableEq, Repr, Inhabited

/-- What a boundary brings from outside the block (R41, R59, R63, R469, R508). -/
structure BoundaryObs where
  /-- ns since reset at T0 -/
  ns : Nat
  /-- which half issues it while the device runs as two halves: 0 or 1; ignored otherwise -/
  half : Nat
  /-- measured input power since the previous T0, in 0.1 W -/
  inputPower : Nat
  /-- input voltage, mV, and current, 10 mA -/
  inputMv : Nat
  inputCurrent : Nat
  /-- stall cycles since the previous boundary: core, subindex, cycles (R469) -/
  stalls : List (Nat × Nat × Nat)
  /-- bits of tray words that have flipped since the previous boundary: core, 8-byte word, bits (R356) -/
  trayFlips : List (Nat × Nat × Nat)
  /-- lines of drawer caches whose parity the flush of step 6 finds bad: core, line (R363) -/
  parity : List (Nat × Nat)
  /-- intake doorbells that reach the device after T0 and before T0 + 2.6 µs: endpoint, ring, tail (R440) -/
  tails : List (Nat × Nat × Nat)
  /-- compute dies that stayed 5 °C below the threshold since the previous boundary (R500) -/
  cooledDies : List Nat
  /-- how many publications step 5 finished before the extension limit ended the window; none when it was not reached (R46) -/
  published : Option Nat
  /-- the phases of two halves that rejoin lie within one gauge cycle (R483) -/
  aligned : Bool
  deriving DecidableEq, Repr, Inhabited

/-- The engines of a core, as pre-emption saves them (R315). -/
inductive Engine where
  | array | chisel | marquetry | scribe | batten
  deriving DecidableEq, Repr, Inhabited

/-- The end of a command of the Scribe unit (R235): its core; where the parity of a line of the drawer cache is found bad on the way
(R363), the line and how many steps into an `APPLY`. -/
structure TraversalEnd where
  core : Nat
  parity : Option (Nat × Nat)
  deriving DecidableEq, Repr, Inhabited

/-- A codeword that arrives uncorrectable (R402): its link; `again` when the frame resent is the one that was resent last, still not
acknowledged (R412). -/
structure BadCodeword where
  link : Nat
  again : Bool
  deriving DecidableEq, Repr, Inhabited

/-- The first two bytes of a request (R460). -/
structure ReqHead where
  op : Nat
  txn : Nat
  deriving DecidableEq, Repr, Inhabited

/-- What boot finds of HBM (R369, R377, R514 step 3): stacks that failed training as a whole, the lanes that training remapped in a
stack, and the first temperature reading of stacks 0 to 15 in 1/16 °C. -/
structure BistFound where
  badStacks : List Nat
  lanes : List (Nat × Nat)
  temps : List Int
  deriving DecidableEq, Repr, Inhabited

/-- A gauge whose CAN FD pins are disconnected, or connected again (R553). -/
structure BusState where
  gauge : Nat
  off : Bool
  deriving DecidableEq, Repr, Inhabited

/-- Who sends a signal to a clamp (R333, R334). -/
inductive Sender where
  | context (core ctx : Nat)
  | engine (core : Nat) (e : Engine)
  | stream (core slot : Nat)
  | device
  | peer (origin : Nat)
  deriving DecidableEq, Repr, Inhabited

/-- The writer of an HBM write or glue write (R380, R381). -/
inductive Writer where
  | context (core ctx : Nat)
  | host (ep : Nat)
  | peer (origin : Nat)
  deriving DecidableEq, Repr, Inhabited

/-- The space of a host access (R422, R426, R445, R447). -/
inductive HostSpace where
  | mem (window : Nat)
  | bar0
  | bar2
  | config
  deriving DecidableEq, Repr, Inhabited

/-- The result of one training attempt of a link (R393 to R395). -/
structure Training where
  ok : Bool
  /-- majors and minors the peer offers -/
  offers : List (Nat × Nat)
  peerId : Nat
  peerLink : Nat
  latencyNs : Nat
  deriving DecidableEq, Repr, Inhabited

/-- A routed or one-hop frame as it arrives (R400). -/
structure FrameHead where
  origin : Nat
  dest : Nat
  hops : Nat
  deriving DecidableEq, Repr, Inhabited

/-- A WRITE frame's content (R400, R405, R407). -/
structure WriteBody where
  seq : Nat
  offset : Nat
  data : List Byte
  /-- the writing context of the origin, carried for the NACK's return -/
  core : Nat
  ctx : Nat
  /-- the data channel it travels on, 0 or 1 (R410) -/
  channel : Nat
  /-- the attribute that the frame carries; the destination applies its own leaf's (R405) -/
  detect : Bool
  deriving DecidableEq, Repr, Inhabited

/-- A SIGNAL frame's content (R400, R407). -/
structure SignalBody where
  core : Nat
  index : Nat
  value : Nat
  lastWrite : Nat
  deriving DecidableEq, Repr, Inhabited

/-- A HEARTBEAT frame's content (R400, R417). -/
structure Beat where
  collId : Nat
  progress : Nat
  deferred : Bool
  slow : Bool
  slowPath : Bool
  done : Bool
  deriving DecidableEq, Repr, Inhabited

/-- How the 42 V input was lost (R487, R489). -/
inductive InputCause where
  | under | over | trip
  deriving DecidableEq, Repr, Inhabited

/-- Why a gauge no longer responds (R476, R482): both paths are lost, it has stopped, or its always-on domain is unpowered. -/
inductive LossCause where
  | paths | stopped | unpowered
  deriving DecidableEq, Repr, Inhabited

/-- The commands of the block. `core` and `ctx` name the issuing core and context of a command-stream command, and
`w` its dispatched 64 bytes before patches. -/
inductive Instr where
  /-- R42 -/
  | boundary (obs : BoundaryObs)
  /-- R42 step 10; `extended` when the window was extended without reaching the limit (R46) -/
  | windowEnd (half : Nat) (extended : Bool)
  /-- R46 -/
  | windowExtended (half : Nat)
  /-- R39 -/
  | pendingPeriodWrite (via : Via) (us : Nat)
  /-- R40 -/
  | windowLengthWrite (via : Via) (us : Nat)
  /-- R550 -/
  | strokeInEdge (ns width : Nat)
  /-- R63 -/
  | alignmentLock
  /-- R66 -/
  | sourceLoss
  /-- R81 -/
  | pass (core ctx : Nat) (w : Word)
  /-- R83 -/
  | preload (core ctx : Nat) (w : Word)
  /-- R93 -/
  | swap (core ctx : Nat) (w : Word)
  /-- R94 -/
  | drain (core ctx : Nat) (w : Word)
  /-- R88 -/
  | passFill (core : Nat)
  /-- R87 -/
  | passStreamingEnd (core : Nat)
  /-- R89 -/
  | preloadLoadEnd (core : Nat)
  /-- R91 -/
  | tileDrainEnd (core : Nat)
  /-- R148 -/
  | elem (core ctx : Nat) (w : Word)
  /-- R150 -/
  | reduce (core ctx : Nat) (w : Word)
  /-- R152 -/
  | norm (core ctx : Nat) (w : Word)
  /-- R154 -/
  | smaxBlock (core ctx : Nat) (w : Word)
  /-- R155 -/
  | smaxMerge (core ctx : Nat) (w : Word)
  /-- R155 -/
  | smaxFinal (core ctx : Nat) (w : Word)
  /-- R156 -/
  | wideAdd (core ctx : Nat) (w : Word)
  /-- R157 -/
  | convert (core ctx : Nat) (w : Word)
  /-- R147 -/
  | vectorCommandEnd (core : Nat)
  /-- R175 -/
  | gather (core ctx : Nat) (w : Word)
  /-- R170 -/
  | pool (core ctx : Nat) (w : Word)
  /-- R181 -/
  | sample (core ctx : Nat) (w : Word)
  /-- R186 -/
  | merge (core ctx : Nat) (w : Word)
  /-- R188 -/
  | mergeFlush (core ctx : Nat) (w : Word)
  /-- R163 -/
  | gatherCommandEnd (core : Nat)
  /-- R366: the granule at `pa`, read with attribute DETECT or PROTECT; `symbols` of it are corrupted -/
  | hbmReadReturn (pa : Nat) (detect : Bool) (symbols : Nat)
  /-- R367 -/
  | hbmWrite (pa : Nat) (detect : Bool) (data : List Byte)
  /-- R380 window 1 -/
  | addFp32 (src : Writer) (offset : Nat) (detect : Bool) (data : List Byte)
  /-- R380 window 2 -/
  | addBf16 (src : Writer) (offset : Nat) (detect : Bool) (data : List Byte)
  /-- R380 window 3 -/
  | addInt32 (src : Writer) (offset : Nat) (detect : Bool) (data : List Byte)
  /-- R380 window 4 -/
  | addInt64 (src : Writer) (offset : Nat) (detect : Bool) (data : List Byte)
  /-- R380 window 5 -/
  | maxInt64 (src : Writer) (offset : Nat) (detect : Bool) (data : List Byte)
  /-- R206: `early` when it reached the device at least 2 µs before the next T0 -/
  | publicationTailWrite (via : Via) (tail : Nat) (early : Bool)
  /-- R221 -/
  | updateTailWrite (via : Via) (tail : Nat)
  /-- R221: the overlay writer of `die` takes its next entry -/
  | put (die : Nat)
  /-- R225 stage 2 -/
  | compactionBaseWrites (die slot : Nat)
  /-- R225 stage 3 -/
  | compactionFilterBuild (die slot : Nat)
  /-- R244 -/
  | search (core ctx : Nat) (w : Word)
  /-- R252 -/
  | expand (core ctx : Nat) (w : Word)
  /-- R254 -/
  | apply (core ctx : Nat) (w : Word)
  /-- R235 -/
  | traversalCommandEnd (x : TraversalEnd)
  /-- R258 -/
  | progressTotalWrite (via : Via) (job total : Nat)
  /-- R269 -/
  | stream (core ctx : Nat) (w : Word)
  /-- R276 -/
  | rearm (core ctx : Nat) (w : Word)
  /-- R275 -/
  | cancel (core ctx : Nat) (w : Word)
  /-- R276 -/
  | retire (core ctx : Nat) (w : Word)
  /-- R281: the command `next` at the position, those `between`, and the `STREAM` `w` follow one another -/
  | streamEarlyDispatch (core ctx : Nat) (next : Word) (between : List Word) (w : Word)
  /-- R273 -/
  | streamPassEnd (core slot : Nat)
  /-- R295; `inFlight` bytes go to the discard sink -/
  | streamCancellation (core slot inFlight : Nat)
  /-- R285: the engine of target `hop` of the chain relays the filled buffer -/
  | chainRelay (core slot hop : Nat)
  /-- R288 -/
  | railTake (core ctx : Nat) (w : Word)
  /-- R290 -/
  | railPush (core ctx : Nat) (w : Word)
  /-- R290; `lead` cycles passed since the push of the handle popped (R301) -/
  | railPop (core ctx : Nat) (w : Word) (lead : Nat)
  /-- R290 -/
  | railRelease (core ctx : Nat) (w : Word)
  /-- R293 -/
  | railSet (core ctx : Nat) (w : Word)
  /-- R291 -/
  | poolSet (core ctx : Nat) (w : Word)
  /-- R298: the rails (core, rail) whose counts reach the window in one cycle -/
  | railDeadlock (rails : List (Nat × Nat))
  /-- R326 -/
  | nop (core ctx : Nat) (w : Word)
  /-- R326 -/
  | loop (core ctx : Nat) (w : Word)
  /-- R326 -/
  | waitIdle (core ctx : Nat) (w : Word)
  /-- R326 -/
  | yield (core ctx : Nat) (w : Word)
  /-- R326 -/
  | stop (core ctx : Nat) (w : Word)
  /-- R330 -/
  | clampInit (core ctx : Nat) (w : Word)
  /-- R333 -/
  | clampSignal (core ctx : Nat) (w : Word)
  /-- R335 -/
  | clampWait (core ctx : Nat) (w : Word)
  /-- R330 -/
  | clampSet (core ctx : Nat) (w : Word)
  /-- R331 -/
  | clampRead (core ctx : Nat) (w : Word)
  /-- R338 -/
  | clampRelease (core ctx : Nat) (w : Word)
  /-- R335: the oldest signal of `sender` to the clamp arrives -/
  | clampSignalArrival (sender : Sender) (core index : Nat)
  /-- R305 -/
  | contextDescriptor (ep core ctx value : Nat)
  /-- R315: the engine finishes saving; `progress` slices per group for the array -/
  | engineSaveEnd (core : Nat) (e : Engine) (progress : Nat)
  /-- R324 -/
  | contextRestore (core ctx : Nat)
  /-- R433 action 1 -/
  | preempt (ep core ctx : Nat)
  /-- R433 action 2 -/
  | release (ep core ctx : Nat)
  /-- R433 action 3 -/
  | contextCancel (ep core ctx : Nat)
  /-- R433 action 4 -/
  | kill (ep core ctx : Nat)
  /-- R433 action 5 -/
  | reset (ep core ctx : Nat)
  /-- R433 action 6 -/
  | resume (ep core ctx : Nat)
  /-- R388: the fetch of the command at POSITION; `parity` names a drawer-cache line that fails its parity -/
  | sequencerFetch (core ctx : Nat) (parity : Option Nat)
  /-- R360 -/
  | commandPrefetch (core ctx : Nat)
  /-- R346: a walk for an engine's access; `source` and `slot` as R387 has them -/
  | pageWalk (core ctx va : Nat) (write : Bool) (source slot : Nat)
  /-- R369 -/
  | channelRetrain (stack channel : Nat)
  /-- R371: `failing` lanes beyond the good ones, `spares` redundant lanes of the channel, `when` 1 boot 2 wake 3 run time -/
  | channelRetrainEnd (stack channel failing spares cause : Nat)
  /-- R371; `lost` granules failed their check in the copy -/
  | pairEvacuationEnd (pair : Nat) (lost : List Nat)
  /-- R377, in 1/16 °C -/
  | stackTempRead (stack : Nat) (temp : Int)
  /-- R535 -/
  | regionDomainFault (region : Nat)
  /-- R393 -/
  | peerSignalDetect (link : Nat)
  /-- R393 -/
  | linkTrained (link : Nat) (t : Training)
  /-- R413 -/
  | peerSignalLoss (link : Nat)
  /-- R397 -/
  | retrainRequest (via : Via) (link : Nat)
  /-- R412 -/
  | linkFence (link : Nat)
  /-- R402 -/
  | uncorrectableCodeword (x : BadCodeword)
  /-- R405 -/
  | writeFrame (link : Nat) (h : FrameHead) (b : WriteBody)
  /-- R407 -/
  | signal (link : Nat) (h : FrameHead) (b : SignalBody)
  /-- R60 -/
  | marker (link number hops ns : Nat)
  /-- R418 -/
  | heartbeat (link : Nat) (h : FrameHead) (b : Beat)
  /-- R398 -/
  | slow (link level : Nat)
  /-- R420 -/
  | abort (link : Nat) (h : FrameHead) (collId abortOrigin reason : Nat)
  /-- R406 -/
  | nack (link : Nat) (h : FrameHead) (offset reason core ctx : Nat)
  /-- R409 -/
  | unreachable (link : Nat) (h : FrameHead) (dest : Nat)
  /-- R417 -/
  | heartbeatPeriod
  /-- R414 -/
  | pathLoss (die origin : Nat)
  /-- R418 -/
  | peerDead (slot peer : Nat)
  /-- R427: `half16` when it trained at 16 GT/s -/
  | ucieTrained (ep : Nat) (half16 : Bool)
  /-- R428 -/
  | versionSel (ep value : Nat)
  /-- R432 -/
  | subTail (ep core ctx tail : Nat)
  /-- R432 -/
  | submissionTake (core ctx : Nat)
  /-- R435 -/
  | planTail (ep core tail : Nat)
  /-- R430 -/
  | intakeTail (ep ring tail : Nat)
  /-- R439, R563: the 8-byte word at `word × 8` of DESC -/
  | intakeDesc (ep ring word value : Nat)
  /-- R440 -/
  | intakeBatchCopyEnd (ring : Nat)
  /-- R441 -/
  | strokeWorkComplete (core ctx : Nat)
  /-- R443 -/
  | completionHead (ep ring head : Nat)
  /-- R444 -/
  | msixModerationEnd (ep ring : Nat)
  /-- R446, R563, R447 -/
  | hostMemRead (ep : Nat) (space : HostSpace) (addr len : Nat)
  /-- R446; window 5 is host-die memory itself (log 60) -/
  | hostMemWrite (ep window addr : Nat) (data : List Byte)
  /-- R563: `bar` 0 or 2 -/
  | registerWrite (ep bar offset width value : Nat)
  /-- R460 -/
  | read (gauge txn index sub : Nat)
  /-- R460 -/
  | write (gauge : Nat) (head : ReqHead) (index sub : Nat) (value : List Byte)
  /-- R465 -/
  | domReadStart (gauge txn index sub : Nat)
  /-- R465 -/
  | domWriteStart (gauge txn index sub len : Nat)
  /-- R465 -/
  | domSegment (gauge txn index sub seg : Nat) (data : List Byte)
  /-- R465 -/
  | domAbort (gauge txn index sub : Nat)
  /-- R465 -/
  | domTimeout (gauge : Nat)
  /-- R466 -/
  | domCopyRead (ep : Nat)
  /-- R466 -/
  | domCopyWrite (ep : Nat)
  /-- R466 -/
  | domCopyEnd (gauge : Nat)
  /-- R463 -/
  | statusFrame (gauge : Nat)
  /-- R452 -/
  | flashStoreEnd
  /-- R472; `confirmed` when the wedge answered -/
  | wedgeRenew (gauge : Nat) (confirmed : Bool)
  /-- R472 -/
  | wedgeLeaseExpiry
  /-- R473 -/
  | leadLapse (gauge : Nat)
  /-- R474 -/
  | wedgePoll (gauge : Nat)
  /-- R474 -/
  | wedgeAskDelay
  /-- R476: `gauge` does not respond within 100 µs -/
  | contactLoss (gauge : Nat) (cause : LossCause)
  /-- R483; `link` when the gauge link works too -/
  | contactRegained (link : Bool)
  /-- R479 -/
  | leadHandover (via : Via) (gauge : Nat)
  /-- R480 -/
  | gaugeWatchdog (gauge : Nat)
  /-- R488 -/
  | presentMate
  /-- R488 -/
  | presentBreak
  /-- R488 -/
  | startPermitted
  /-- R488 -/
  | alwaysOnPower
  /-- R489 -/
  | inputLoss (cause : InputCause)
  /-- R489 -/
  | holdupExhausted
  /-- R556 -/
  | thermalTrip
  /-- R500 -/
  | overcurrent
  /-- R500, in 1/16 °C -/
  | dieHot (die : Nat) (temp : Int)
  /-- R501: capacitance in µF and bank voltage in mV -/
  | holdupMeasure (microfarad millivolt : Nat)
  /-- R503 -/
  | park (via : Via)
  /-- R506 -/
  | wake (via : Via)
  /-- R503 -/
  | remove (via : Via)
  /-- R549 -/
  | removeReq
  /-- R514 step 1 -/
  | boot
  /-- R512 -/
  | imageVerified (gauge : Nat)
  /-- R514 step 3: pairs fenced at boot for want of spare lanes, and the rest of what boot finds -/
  | hbmBistEnd (badPairs : List Nat) (found : BistFound)
  /-- R514 step 5: compute dies that failed to come up; ms since the reference -/
  | coresUp (failedDies : List Nat) (ms : Nat)
  /-- R515: frames (stack, frame) in which VERIFY counted a mismatch -/
  | memtestEnd (frames : List (Nat × Nat))
  /-- R519 -/
  | imageBegin (via : Via)
  /-- R519 -/
  | verify (via : Via)
  /-- R519 -/
  | imageVerifyEnd
  /-- R519 -/
  | reboot (via : Via)
  /-- R521 -/
  | ownerKeyWrite (via : Via) (key : List Byte)
  /-- R521 -/
  | svnAdvance (via : Via) (value : Nat)
  /-- R523 -/
  | attestationRequest (via : Via) (value : Nat)
  /-- R524: ns since reset at signing -/
  | attestationEnd (gauge ns : Nat)
  /-- R528 -/
  | faultRecordDelivery (gauge : Nat)
  /-- R528 -/
  | faultRingHead (via : Via) (ring head : Nat)
  /-- R533 -/
  | faultClear (via : Via) (ring seq : Nat)
  /-- R536 -/
  | coreFence (core cause : Nat)
  /-- R540 -/
  | coreFenceRequest (via : Via) (core : Nat)
  /-- R540 -/
  | coreUnfenceRequest (via : Via) (core : Nat)
  /-- R540 -/
  | regionFenceRequest (via : Via) (region : Nat)
  /-- R540 -/
  | regionUnfenceRequest (via : Via) (region : Nat)
  /-- R540 -/
  | dieFenceRequest (via : Via) (die : Nat)
  /-- R540 -/
  | dieUnfenceRequest (via : Via) (die : Nat)
  /-- R540 -/
  | coreSelfTestEnd (core : Nat) (passed : Bool)
  /-- R540 -/
  | regionUnfenceEnd (region : Nat) (passed : Bool)
  /-- R482 -/
  | gaugeLinkDown
  /-- R482 -/
  | dieToDiePathDown
  /-- R553 -/
  | busOffRecovery (x : BusState)
  deriving DecidableEq, Repr

end Sys2Proof
end

