-- ==== Sys2Proof/Config.lean ====
section
/-! DEFINITION. What the manual leaves open: free values and functions of outside standards, as constants without a body. -/

namespace Sys2Proof.Config

/-- Free values. Applied to `Mach.free`, a counter that the step reads and advances
(notes/assumptions/2). -/
opaque freeNat : Nat → Nat

/-- The content of the engine records whose layout the manual does not give (R108, R159, R195, R260, R303):
record kind, then byte number, to byte (notes/assumptions/3). -/
opaque freeByte : Nat → Nat → Byte

/-- By how many ULP, modulo 5, a transcendental result of `ELEM` lies from the rounded one: operation, then operand bits (R149,
notes/assumptions/4). -/
opaque ulpOffset : Nat → Nat → Nat

/-- A byte of an endpoint's configuration space as the PCIe and CXL standards have it: endpoint, the bytes written to it, oldest
first, offset (R422, notes/assumptions/69). -/
opaque configSpace : Nat → List (Nat × Byte) → Nat → Byte

/-- The SM3 hash of GB/T 32905: byte string to 32 bytes (R511, notes/assumptions/6). -/
opaque sm3 : List Byte → List Byte

/-- SM2 verification of GB/T 32918.2 with the identifier of GM/T 0009: key, message, signature (R512). -/
opaque sm2Verify : List Byte → List Byte → List Byte → Bool

/-- SM2 signing by the identity key of a module: message to the 64-byte r then s (R524). -/
opaque identitySign : List Byte → List Byte

/-- The fused hash of the vendor public key (R509). -/
opaque vendorHash : List Byte

/-- The identity public key, x then y (R522). -/
opaque identityPublic : List Byte

/-- The firmware image in the NOR flash as the module is shipped: byte address to byte (R510, notes/assumptions/6). -/
opaque shippedFlash : Nat → Byte

/-- The certificate chain of 0x0F00.30 (R522). -/
opaque certificateChain : List Byte

/-- The serial number of 0x0F00.32 (R522). -/
opaque serialNumber : List Byte

end Sys2Proof.Config
end

