-- ==== Sys2Proof/Machine/Bits.lean ====
section
/-! DEFINITION. Bit-field, sign-extension, byte-order and serial-number helpers. -/

namespace Sys2Proof.Machine

/-- Bits `[hi:lo]` of a number. -/
def natBits (x hi lo : Nat) : Nat := (x >>> lo) % 2 ^ (hi + 1 - lo)

/-- Bit `i` of a number. -/
def natBit (x i : Nat) : Bool := x.testBit i

/-- Bits `[hi:lo]` of a command. -/
def fld (w : Word) (hi lo : Nat) : Nat := natBits w.toNat hi lo

/-- Bit `i` of a command. -/
def flag (w : Word) (i : Nat) : Bool := natBit w.toNat i

/-- `x` with its bits `[lo + wd - 1 : lo]` replaced by `v`. -/
def setBits (x lo wd v : Nat) : Nat :=
  (x % 2 ^ lo) + (v % 2 ^ wd) * 2 ^ lo + (x >>> (lo + wd)) * 2 ^ (lo + wd)

/-- The two's-complement reading of the low `n` bits of `x`. -/
def signed (n x : Nat) : Int :=
  if x % 2 ^ n < 2 ^ (n - 1) then ((x % 2 ^ n : Nat) : Int) else ((x % 2 ^ n : Nat) : Int) - 2 ^ n

/-- The low `n` bits of the two's-complement image of `i`. -/
def image (n : Nat) (i : Int) : Nat := (i % ((2 ^ n : Nat) : Int)).toNat

/-- `⌈a / b⌉`. -/
def ceilDiv (a b : Nat) : Nat := (a + b - 1) / b

/-- `n` bytes of a number, least significant first (R14). -/
def leBytes : Nat → Nat → List Byte
  | 0, _ => []
  | n + 1, x => BitVec.ofNat 8 x :: leBytes n (x / 256)

/-- The number that bytes spell, least significant first (R14). -/
def leNat : List Byte → Nat
  | [] => 0
  | b :: bs => b.toNat + 256 * leNat bs

/-- `a` precedes `b` by the serial arithmetic of RFC 1982 with SERIAL_BITS 32 (R199). -/
def precedes32 (a b : Nat) : Bool :=
  decide (a % 2 ^ 32 ≠ b % 2 ^ 32) && decide ((b % 2 ^ 32 + 2 ^ 32 - a % 2 ^ 32) % 2 ^ 32 < 2 ^ 31)

/-- The 32-bit distance from `a` forward to `b`. -/
def diff32 (a b : Nat) : Nat := (b % 2 ^ 32 + 2 ^ 32 - a % 2 ^ 32) % 2 ^ 32

/-- A Bool as a bit. -/
def bit (b : Bool) : Nat := if b then 1 else 0

/-- Ranges `[a, a+n)` and `[b, b+m)` overlap. -/
def overlaps (a n b m : Nat) : Bool :=
  decide (0 < n) && decide (0 < m) && decide (a < b + m) && decide (b < a + n)

/-- Split a byte list into the elements of `n` bytes it holds, oldest first, `k` of them. -/
def chunks : Nat → Nat → List Byte → List (List Byte)
  | 0, _, _ => []
  | k + 1, n, l => l.take n :: chunks k n (l.drop n)

/-- Pad with zero bytes to `n`. -/
def padTo (n : Nat) (l : List Byte) : List Byte := (l ++ List.replicate (n - l.length) 0).take n

/-- The integer square root of `x`, by bits from bit `n` down. -/
def isqrtGo : Nat → Nat → Nat → Nat
  | 0, _, r => r
  | n + 1, x, r => if (r + 2 ^ n) * (r + 2 ^ n) ≤ x then isqrtGo n x (r + 2 ^ n) else isqrtGo n x r

def isqrt (x : Nat) : Nat := isqrtGo (Nat.log2 x / 2 + 1) x 0

end Sys2Proof.Machine
end

