-- ==== Sys2Proof/Machine/Float.lean ====
section
/-! DEFINITION. Number formats and exact binary floating point: decoding, rounding to nearest even, the operations of R148
and the transcendental ones by fixed-point series (R149, notes/assumptions/4). -/

namespace Sys2Proof.Machine

/-- A decoded number: `(-1)^neg × m × 2^e`, an infinity, or a NaN. -/
inductive FVal where
  | nan
  | inf (neg : Bool)
  | fin (neg : Bool) (m : Nat) (e : Int)
  deriving DecidableEq, Repr, Inhabited

/-- The special encodings of a format. -/
inductive Specials where
  /-- infinities and NaNs as in IEEE 754 -/
  | ieee
  /-- one NaN per sign at all ones and no infinity: E4M3 -/
  | nanOnly
  /-- none: FP6 and FP4 -/
  | none
  deriving DecidableEq, Repr, Inhabited

/-- A binary floating-point format: exponent bits, mantissa bits, its special encodings, its NaN image (R130). -/
structure FFmt where
  eb : Nat
  mb : Nat
  sp : Specials
  nanImage : Nat
  deriving DecidableEq, Repr, Inhabited

def fFP32 : FFmt := { eb := 8, mb := 23, sp := .ieee, nanImage := 0x7FC00000 }
def fBF16 : FFmt := { eb := 8, mb := 7, sp := .ieee, nanImage := 0x7FC0 }
def fFP16 : FFmt := { eb := 5, mb := 10, sp := .ieee, nanImage := 0x7E00 }
def fE4M3 : FFmt := { eb := 4, mb := 3, sp := .nanOnly, nanImage := 0x7F }
def fE5M2 : FFmt := { eb := 5, mb := 2, sp := .ieee, nanImage := 0x7F }
def fE3M2 : FFmt := { eb := 3, mb := 2, sp := .none, nanImage := 0 }
def fE2M3 : FFmt := { eb := 2, mb := 3, sp := .none, nanImage := 0 }
def fE2M1 : FFmt := { eb := 2, mb := 1, sp := .none, nanImage := 0 }

def FFmt.width (f : FFmt) : Nat := 1 + f.eb + f.mb

def FFmt.bias (f : FFmt) : Int := 2 ^ (f.eb - 1) - 1

/-- The bits of the largest finite magnitude. -/
def FFmt.maxBits (f : FFmt) : Nat :=
  match f.sp with
  | .ieee => (2 ^ f.eb - 1) * 2 ^ f.mb - 1
  | .nanOnly => 2 ^ (f.eb + f.mb) - 2
  | .none => 2 ^ (f.eb + f.mb) - 1

/-- The bits of infinity, where the format has one. -/
def FFmt.infBits (f : FFmt) : Nat := (2 ^ f.eb - 1) * 2 ^ f.mb

def fdecode (f : FFmt) (x : Nat) : FVal :=
  let neg := natBit x (f.eb + f.mb)
  let mag := x % 2 ^ (f.eb + f.mb)
  let ex := mag / 2 ^ f.mb
  let man := mag % 2 ^ f.mb
  if f.sp = .ieee && ex == 2 ^ f.eb - 1 then (if man = 0 then .inf neg else .nan)
  else if f.sp = .nanOnly && mag == 2 ^ (f.eb + f.mb) - 1 then .nan
  else if ex = 0 then .fin neg man (1 - f.bias - f.mb)
  else .fin neg (2 ^ f.mb + man) ((ex : Int) - f.bias - f.mb)

/-- `m × 2^s` rounded to the nearest integer, ties to even. -/
def rne (m : Nat) (s : Int) : Nat :=
  if 0 ≤ s then m <<< s.toNat
  else
    let k := (-s).toNat
    let base := m >>> k
    let rem := m % 2 ^ k
    let half := 2 ^ (k - 1)
    if rem > half || (rem == half && base % 2 == 1) then base + 1 else base

/-- The magnitude bits of `m × 2^e` rounded to nearest even, exponent unbounded above. -/
def fround (f : FFmt) (m : Nat) (e : Int) : Nat :=
  if m = 0 then 0
  else
    let emin : Int := 1 - f.bias
    let top := max ((Nat.log2 m : Int) + e) emin
    (top - emin).toNat * 2 ^ f.mb + rne m (e - (top - f.mb))

def signBit (f : FFmt) (neg : Bool) : Nat := if neg then 2 ^ (f.eb + f.mb) else 0

/-- IEEE rounding: overflow gives infinity, a NaN the format's NaN image, zero keeps its sign. -/
def fencode (f : FFmt) : FVal → Nat
  | .nan => f.nanImage
  | .inf n => signBit f n + f.infBits
  | .fin n m e =>
    let b := fround f m e
    signBit f n + (if b > f.maxBits then f.infBits else b)

/-- The result of a clamping conversion: its bits, SAT, NONFINITE. -/
structure Conv where
  bits : Nat
  sat : Bool
  nonfinite : Bool
  deriving DecidableEq, Repr, Inhabited

/-- R130, R131: the column foot's conversion of a finite value. -/
def clampFin (f : FFmt) (n : Bool) (m : Nat) (e : Int) : Conv :=
  let b := fround f m e
  if m = 0 then { bits := 0, sat := false, nonfinite := false }
  else if b > f.maxBits then { bits := signBit f n + f.maxBits, sat := true, nonfinite := false }
  else { bits := signBit f n + b, sat := false, nonfinite := false }

/-- R157: conversion to a float format. -/
def convFloat (f : FFmt) : FVal → Conv
  | .nan => { bits := f.nanImage, sat := false, nonfinite := true }
  | .inf n =>
    if f.sp = .ieee then { bits := signBit f n + f.infBits, sat := false, nonfinite := true }
    else { bits := signBit f n + f.maxBits, sat := true, nonfinite := false }
  | .fin n m e => clampFin f n m e

/-- R157: conversion to an integer of `w` bits: nearest even, clamped symmetrically. -/
def convInt (w : Nat) : FVal → Conv
  | .nan => { bits := 2 ^ (w - 1), sat := false, nonfinite := true }
  | .inf n => { bits := if n then 2 ^ (w - 1) + 1 else 2 ^ (w - 1) - 1, sat := true, nonfinite := false }
  | .fin n m e =>
    let r := rne m e
    let big := decide (r > 2 ^ (w - 1) - 1)
    let c := if big then 2 ^ (w - 1) - 1 else r
    { bits := if n then (2 ^ w - c) % 2 ^ w else c, sat := big, nonfinite := false }

/-! ### FP32 arithmetic on bit images -/

/-- Bit image of a NaN result (R148). -/
def nan32 : Nat := 0x7FC00000

def dec32 (x : Nat) : FVal := fdecode fFP32 x

def enc32 (v : FVal) : Nat := fencode fFP32 v

/-- The signed mantissa of a finite number at exponent `e`, which is at most its own. -/
def alignTo (n : Bool) (m : Nat) (e0 e : Int) : Int :=
  let a : Nat := m <<< (e0 - e).toNat
  if n then -(a : Int) else (a : Int)

/-- Exact sum; an exact zero of unlike signs is +0. -/
def vadd : FVal → FVal → FVal
  | .nan, _ => .nan
  | _, .nan => .nan
  | .inf a, .inf b => if a = b then .inf a else .nan
  | .inf a, .fin _ _ _ => .inf a
  | .fin _ _ _, .inf b => .inf b
  | .fin n1 m1 e1, .fin n2 m2 e2 =>
    let e := min e1 e2
    let s := alignTo n1 m1 e1 e + alignTo n2 m2 e2 e
    if s = 0 then .fin (n1 && n2) 0 0 else .fin (decide (s < 0)) s.natAbs e

def vneg : FVal → FVal
  | .nan => .nan
  | .inf n => .inf (!n)
  | .fin n m e => .fin (!n) m e

/-- Exact product. -/
def vmul : FVal → FVal → FVal
  | .nan, _ => .nan
  | _, .nan => .nan
  | .inf a, .inf b => .inf (a != b)
  | .inf a, .fin n m _ => if m = 0 then .nan else .inf (a != n)
  | .fin n m _, .inf b => if m = 0 then .nan else .inf (n != b)
  | .fin n1 m1 e1, .fin n2 m2 e2 => .fin (n1 != n2) (m1 * m2) (e1 + e2)

/-- Quotient with at least 160 bits and a sticky bit, so that rounding it to FP32 rounds the exact quotient. -/
def vdiv : FVal → FVal → FVal
  | .nan, _ => .nan
  | _, .nan => .nan
  | .inf _, .inf _ => .nan
  | .inf a, .fin n _ _ => .inf (a != n)
  | .fin n _ _, .inf b => .fin (n != b) 0 0
  | .fin n1 m1 e1, .fin n2 m2 e2 =>
    if m2 = 0 then (if m1 = 0 then .nan else .inf (n1 != n2))
    else
      let k := 160 + Nat.log2 m2
      let q := (m1 <<< k) / m2
      let st := if (m1 <<< k) % m2 = 0 then 0 else 1
      .fin (n1 != n2) (2 * q + st) (e1 - e2 - k - 1)

/-- Square root of a non-negative number, with a sticky bit. -/
def vsqrt : FVal → FVal
  | .nan => .nan
  | .inf n => if n then .nan else .inf false
  | .fin n m e =>
    if m = 0 then .fin n 0 0
    else if n then .nan
    else
      let m2 := if e % 2 = 0 then m <<< 160 else m <<< 161
      let e2 := if e % 2 = 0 then e - 160 else e - 161
      let r := isqrt m2
      .fin false (2 * r + (if r * r = m2 then 0 else 1)) (e2 / 2 - 1)

def vlt : FVal → FVal → Bool
  | .nan, _ => false
  | _, .nan => false
  | .inf a, .inf b => a && !b
  | .inf a, .fin _ _ _ => a
  | .fin _ _ _, .inf b => !b
  | .fin n1 m1 e1, .fin n2 m2 e2 =>
    let e := min e1 e2
    decide (alignTo n1 m1 e1 e < alignTo n2 m2 e2 e)

def f32add (a b : Nat) : Nat := enc32 (vadd (dec32 a) (dec32 b))
def f32sub (a b : Nat) : Nat := enc32 (vadd (dec32 a) (vneg (dec32 b)))
def f32mul (a b : Nat) : Nat := enc32 (vmul (dec32 a) (dec32 b))
def f32fma (a b c : Nat) : Nat := enc32 (vadd (vmul (dec32 a) (dec32 b)) (dec32 c))
def f32div (a b : Nat) : Nat := enc32 (vdiv (dec32 a) (dec32 b))

/-- A NaN image. -/
def isNan32 (a : Nat) : Bool := dec32 a == .nan

/-- An infinity or a NaN. -/
def nonfin32 (a : Nat) : Bool := a / 2 ^ 23 % 256 == 255

/-- R148 MAX: a NaN operand gives NaN, and +0 is larger than -0. -/
def f32max (a b : Nat) : Nat :=
  if isNan32 a || isNan32 b then nan32
  else if vlt (dec32 a) (dec32 b) then b
  else if vlt (dec32 b) (dec32 a) then a
  else if natBit a 31 then b else a

/-- R148 MIN: the same NaN and zero rules. -/
def f32min (a b : Nat) : Nat :=
  if isNan32 a || isNan32 b then nan32
  else if vlt (dec32 a) (dec32 b) then a
  else if vlt (dec32 b) (dec32 a) then b
  else if natBit a 31 then a else b

/-! ### Transcendental functions -/

/-- Fixed-point fraction bits of the series. -/
def fxBits : Nat := 160

/-- ln 2 in fixed point: the sum over k of 1 / (k 2^k). -/
def ln2Go : Nat → Nat
  | 0 => 0
  | k + 1 => (2 ^ fxBits / ((k + 1) * 2 ^ (k + 1))) + ln2Go k

def ln2Fx : Nat := ln2Go 170

/-- The exponential series of `r < 1` in fixed point: `term` is r^i / i!. -/
def expGo : Nat → Nat → Nat → Nat → Nat
  | 0, _, _, _ => 0
  | n + 1, i, r, term => term + expGo n (i + 1) r (term * r / 2 ^ fxBits / i)

/-- e^(x) for the fixed-point number `x ≥ 0`, as mantissa and exponent. -/
def expPos (x : Nat) : Nat × Int :=
  let k := x / ln2Fx
  (expGo 48 1 (x % ln2Fx) (2 ^ fxBits), (k : Int) - fxBits)

/-- A finite value as a signed fixed-point number, truncated. -/
def toFx (n : Bool) (m : Nat) (e : Int) : Int :=
  let s := e + fxBits
  let a : Nat := if 0 ≤ s then m <<< s.toNat else m >>> (-s).toNat
  if n then -(a : Int) else (a : Int)

/-- e^v, to about 150 bits. -/
def vexp : FVal → FVal
  | .nan => .nan
  | .inf n => if n then .fin false 0 0 else .inf false
  | .fin n m e =>
    if (Nat.log2 m : Int) + e > 20 && m != 0 then (if n then .fin false 0 0 else .inf false)
    else
      let x := toFx n m e
      let p := expPos x.natAbs
      if 0 ≤ x then .fin false p.1 p.2 else vdiv (.fin false 1 0) (.fin false p.1 p.2)

/-- 2 atanh z for the fixed-point `z`: twice the sum of z^(2i+1) / (2i+1). -/
def atanhGo : Nat → Nat → Nat → Nat → Nat
  | 0, _, _, _ => 0
  | n + 1, i, z2, pw => pw / (2 * i + 1) + atanhGo n (i + 1) z2 (pw * z2 / 2 ^ fxBits)

/-- ln v. -/
def vlog : FVal → FVal
  | .nan => .nan
  | .inf n => if n then .nan else .inf false
  | .fin n m e =>
    if m = 0 then .inf true
    else if n then .nan
    else
      let k : Int := (Nat.log2 m : Int) + e
      let f := if 0 ≤ (fxBits : Int) - Nat.log2 m then m <<< (fxBits - Nat.log2 m) else m >>> (Nat.log2 m - fxBits)
      let one := 2 ^ fxBits
      let z := (f - one) * one / (f + one)
      let l : Int := 2 * (atanhGo 60 0 (z * z / one) z : Int) + k * ln2Fx
      if l = 0 then .fin false 0 0 else .fin (decide (l < 0)) l.natAbs (-fxBits)

/-- Truncate a mantissa to 200 bits, so that products stay small. -/
def vtrim : FVal → FVal
  | .fin n m e => if Nat.log2 m > 200 then .fin n (m >>> (Nat.log2 m - 200)) (e + (Nat.log2 m - 200 : Nat)) else .fin n m e
  | v => v

def vone : FVal := .fin false 1 0

/-- 1 / (1 + e^-v). -/
def vsigmoid (v : FVal) : FVal := vdiv vone (vtrim (vadd vone (vexp (vneg v))))

/-- tanh v; below 2^-30 its first two series terms. -/
def vtanh : FVal → FVal
  | .nan => .nan
  | .inf n => .fin n 1 0
  | .fin n m e =>
    if m = 0 then .fin n 0 0
    else if (Nat.log2 m : Int) + e < -30 then
      let v := FVal.fin n m e
      vadd v (vneg (vdiv (vmul v (vmul v v)) (.fin false 3 0)))
    else
      let t := vtrim (vexp (.fin n m (e + 1)))
      match t with
      | .inf _ => .fin n 1 0
      | _ => vdiv (vtrim (vadd t (.fin true 1 0))) (vtrim (vadd t vone))

/-- A decimal constant `a / b`. -/
def vratio (a b : Nat) : FVal := vdiv (.fin false a 0) (.fin false b 0)

/-- The tanh form of GELU (R148), as v / (1 + e^(-2u)). -/
def vgelu (v : FVal) : FVal :=
  let v3 := vmul v (vmul v v)
  let u := vmul (vratio 79788456 100000000) (vadd v (vmul (vratio 44715 1000000) v3))
  vmul v (vsigmoid (vmul (.fin false 2 0) u))

/-- A magnitude image moved by the open offset of R149, -2 to 2 ULP, never past zero or infinity. -/
def ulpShift (op x bits : Nat) : Nat :=
  bits / 2 ^ 31 * 2 ^ 31 + min (bits % 2 ^ 31 + Config.ulpOffset op x % 5 - 2) 0x7F800000

/-- The exact result is zero: ln 1, and the operations through the origin at a zero. -/
def exactZero (op x : Nat) : Bool :=
  (op == 0x0C && x == 0x3F800000) || (x % 2 ^ 31 == 0 && (op == 0x0F || op == 0x11 || op == 0x12))

/-- A transcendental result: special results and exact zeros as IEEE 754 gives them, every other within the offset of
R149. -/
def trans (op : Nat) (f : FVal → FVal) (x : Nat) : Nat :=
  match f (dec32 x) with
  | .fin n m e =>
    let b := enc32 (.fin n m e)
    if nonfin32 b || nonfin32 x || exactZero op x then b else ulpShift op x b
  | v => enc32 v

/-- R148: the one-operand operations 0x0B to 0x12. GELU and SILU of minus infinity are NaN: in IEEE arithmetic their formulas
multiply it by 0 or divide it by infinity. -/
def f32trans (op x : Nat) : Nat :=
  if op = 0x0B then trans op vexp x
  else if op = 0x0C then trans op vlog x
  else if op = 0x0D then trans op (vdiv vone) x
  else if op = 0x0E then trans op (fun v => vdiv vone (vsqrt v)) x
  else if op = 0x0F then trans op vtanh x
  else if op = 0x10 then trans op vsigmoid x
  else if op = 0x11 then trans op vgelu x
  else trans op (fun v => vmul v (vsigmoid v)) x

end Sys2Proof.Machine
end

