-- ==== Sys2Proof/Machine/State.lean ====
section
/-! DEFINITION. The state of the block as plain data, its fault and refusal reasons, and its state right after reset.
INVENTORY.md lists every piece with its rule and reset value. -/

namespace Sys2Proof.Machine

/-- Why the model stops. No command of this block stops it: every rejection the manual describes is a fault record
(R527) in the next state. Raised by no meaning (safe). -/
inductive Fault where
  /-- Raised by no meaning: kept so that the type is not empty (safe). -/
  | none
  deriving DecidableEq, Repr

/-- Why a command has no meaning in the model. -/
inductive Refusal where
  /-- A command whose arm has no meaning yet; raised by such an arm only (safe). -/
  | notModelled (mnemonic : String)
  deriving DecidableEq, Repr

/-- A table of things by number, sorted, unlisted numbers at a default. -/
abbrev Sparse (α : Type) := List (Nat × α)

/-- A byte memory in canonical form: sorted addresses, no byte equal to what an unlisted address reads as. -/
abbrev Memory := List Host.Cell

/-! ### The module as manufactured -/

/-- R1, R3, R5: the identity of the module as manufactured: for each region the place of the core that is fused off, if one
is; whether 48 links are fitted instead of 96; the feature set. Written by no command (R10). -/
structure Variant where
  fused : Vector (Option (Fin 8)) 8
  fewLinks : Bool
  train : Bool
  deriving DecidableEq, Repr

/-- R3: the cores fused off; no region lacks more than one. -/
def Variant.missing (v : Variant) : Nat := (v.fused.toList.filter Option.isSome).length

/-- R1: field aa of the part number. -/
def Variant.cores (v : Variant) : Nat := 64 - v.missing

/-- R1: field ll. -/
def Variant.links (v : Variant) : Nat := if v.fewLinks then 48 else 96

/-- R1, R3: aa is 64, 60 or 56; with the one place a region has for a missing core, 56 means that every region lacks one. -/
def Variant.wf (v : Variant) : Bool := v.missing == 0 || v.missing == 4 || v.missing == 8

/-- R2, R8: core `c` is present on this part. -/
def Variant.hasCore (v : Variant) (c : Nat) : Bool :=
  decide (c < 64) && !(v.fused.toList.getD (c / 8) none == some (Fin.ofNat 8 c))

/-- R5, R8: link `n` is fitted; links keep their global numbers. -/
def Variant.hasLink (v : Variant) (n : Nat) : Bool :=
  decide (n < 96) && (!v.fewLinks || decide (n < 24) || decide (48 ≤ n ∧ n < 72))

/-- A map word of R8: bit i says whether unit `first + i` is there. -/
def unitMap (has : Nat → Bool) (first : Nat) : Nat → Nat
  | 0 => 0
  | n + 1 => unitMap has first n + if has (first + n) then 2 ^ n else 0

/-- R8: 0x0100.02 to .04. -/
def Variant.coreMap (v : Variant) : BitVec 64 := BitVec.ofNat 64 (unitMap v.hasCore 0 64)
def Variant.linkMap0 (v : Variant) : BitVec 64 := BitVec.ofNat 64 (unitMap v.hasLink 0 64)
def Variant.linkMap1 (v : Variant) : BitVec 64 := BitVec.ofNat 64 (unitMap v.hasLink 64 32)

/-! ### The stroke clock -/

/-- R58: the alignment control word. -/
structure AlignCtl where
  mode : Nat
  driveOut : Bool
  markersOut : Bool
  adoptNumber : Bool
  lossCount : Nat
  deriving DecidableEq, Repr, Inhabited

/-- The latest boundary of the stroke source that this device knows: its time with the path's latency taken off, ns; for a marker
its link, stroke number and hops; and the time from the source boundary before it (R60, R61). -/
structure Source where
  ns : Nat
  marker : Option (Nat × Nat × Nat)
  period : Option Nat
  deriving DecidableEq, Repr, Inhabited

/-- R36 to R67: the stroke clock and its objects (0x0A00). -/
structure Strokes where
  /-- 0x0A00.05; die 0's half while the device is split (R37) -/
  counter : Nat
  /-- die 1's half's counter while split (R476, R483) -/
  counter1 : Nat
  /-- the device runs as two halves with their own boundaries -/
  split : Bool
  /-- die 1's half follows gauge 0's phase and number over the gauge link (R482) -/
  locked : Bool
  /-- 0x0A00.01 -/
  period : Nat
  /-- 0x0A00.02 as last written -/
  pendingPeriod : Nat
  /-- the armed change: its period and its stroke (R39) -/
  armed : Option (Nat × Nat)
  /-- 0x0A00.03 -/
  target : Nat
  /-- the window length in effect and a written one not yet in effect (R40) -/
  window : Nat
  windowNext : Option Nat
  /-- 0x0A00.06, and die 1's half's while split -/
  timestamp : Nat
  timestamp1 : Nat
  /-- boundaries run: the cores are up or the counter advances in park (R37, R38) -/
  running : Bool
  /-- inside the boundary window of die 0's half, and of die 1's (R42) -/
  inWindow : Bool
  inWindow1 : Bool
  /-- 0x0A00.07 in effect and as written -/
  align : AlignCtl
  alignNext : Option AlignCtl
  /-- 0x0A00.08 -/
  alignState : Nat
  numberAhead : Bool
  numberBehind : Bool
  periodMismatch : Bool
  secondClock : Bool
  hops : Nat
  /-- 0x0A00.09 -/
  phaseErr : Int
  /-- 0x0A00.0A -/
  inDelay : Nat
  /-- 0x0A00.0B -/
  numberOffset : BitVec 64
  /-- 0x0A00.0C to .0F -/
  overruns : BitVec 64
  deferred : BitVec 64
  extended : BitVec 64
  carried : BitVec 64
  /-- follower: boundaries within 100 ns in a row, missing source boundaries in a row (R63, R66) -/
  good : Nat
  missing : Nat
  source : Option Source
  /-- a lock adopts the source's number at the next boundary (R67) -/
  adopt : Bool
  /-- the last accepted edge of STROKE_IN, ns (R550) -/
  lastEdge : Option Nat
  /-- an output: the ns by which the stroke just begun is longer (positive) or shorter (R63) -/
  stretch : Int
  deriving DecidableEq, Repr, Inhabited

/-! ### Faults -/

/-- R527: a fault record. `core` and `ctx` are 255 for none. -/
structure FaultRec where
  family : Nat
  code : Nat
  core : Nat
  ctx : Nat
  detail : Nat
  stroke : Nat
  addr : Nat
  seq : Nat
  device : Nat
  level : Nat
  flags : Nat
  deriving DecidableEq, Repr, Inhabited

/-- R528, R533: what one gauge keeps of its fault ring. -/
structure FaultRing where
  base : Nat
  head : BitVec 32
  tail : BitVec 32
  /-- detected and not yet delivered -/
  raised : List FaultRec
  /-- waiting for room in the ring, at most 256 -/
  store : List FaultRec
  held : List FaultRec
  heldCount : Nat
  clear : BitVec 32
  /-- FAULT frames sent in the running second, and the tenths of it that have passed (R463, R464) -/
  framesThisSecond : Nat
  tenths : Nat
  deriving DecidableEq, Repr, Inhabited

/-- 0x0700 but for the watchdog window and fences. -/
structure Faults where
  ring0 : FaultRing
  ring1 : FaultRing
  sizeLog2 : Nat
  notWritten : BitVec 64
  notLogged : BitVec 64
  canLimited : BitVec 64
  deriving DecidableEq, Repr, Inhabited

/-! ### Clamps, rails, streams -/

/-- R329: the state of a clamp. -/
inductive ClampState where
  | free | owned | broken
  deriving DecidableEq, Repr, Inhabited

/-- A waiter of a clamp (R335). -/
structure Waiter where
  ctx : Nat
  value : Nat
  consume : Bool
  deriving DecidableEq, Repr, Inhabited

/-- R329: a clamp. Waiters stand in the order in which their waits began. -/
structure Clamp where
  state : ClampState
  counter : Nat
  owner : Nat
  waiters : List Waiter
  deriving DecidableEq, Repr, Inhabited

/-- A signal on its way (R333, R334). -/
structure Sig where
  sender : Sender
  core : Nat
  index : Nat
  value : Nat
  deriving DecidableEq, Repr, Inhabited

/-- R287: a handle. BUFFER 255 is the end marker. -/
structure Handle where
  buffer : Nat
  length : Nat
  last : Bool
  cancelled : Bool
  poisoned : Bool
  tag : BitVec 32
  deriving DecidableEq, Repr, Inhabited

/-- A handle on a rail and, when a stream pushed it, that stream: its core, slot and generation; whether its bytes have been
counted as wasted at another target, so that they never become useful, and whether they were generated and not read (R301). One that
a `RAIL_PUSH` pushed: its context and the stroke of that context's work (R52). -/
structure Entry where
  h : Handle
  origin : Option (Nat × Nat × Nat)
  spent : Bool
  generated : Bool
  maker : Option (Nat × Nat)
  deriving DecidableEq, Repr, Inhabited

/-- A filled buffer that a chain has still to relay (R285): the target (its place in ascending core order), the buffer
there, its handle, and whether its consumer has released it. -/
structure Relay where
  hop : Nat
  core : Nat
  buffer : Nat
  h : Handle
  released : Bool
  deriving DecidableEq, Repr, Inhabited

/-- R286 to R293: a rail. -/
structure Rail where
  consumer : Option Nat
  pool : Nat
  floor : Nat
  prodIsContext : Bool
  prodContext : Option Nat
  prodStream : Option (Nat × Nat)
  entries : List Entry
  produced : BitVec 32
  consumed : BitVec 32
  latProduced : BitVec 32
  latConsumed : BitVec 32
  latOccupancy : Nat
  deriving DecidableEq, Repr, Inhabited

/-- R286, R291: a buffer pool; `used` pairs a buffer with the rail that holds it. -/
structure Pool where
  base : Nat
  sizeLog2 : Nat
  count : Nat
  used : List (Nat × Nat)
  deriving DecidableEq, Repr, Inhabited

/-- A handle slot of a context (R291, R292): taken or popped, and for which rail. -/
structure HSlot where
  h : Handle
  taken : Bool
  rail : Nat
  deriving DecidableEq, Repr, Inhabited

/-- A table a command has bound: slot, its copies of the descriptor and of the 64-byte shard-map header (R68, R202). -/
structure Bound where
  slot : Nat
  desc : Nat
  map : Nat
  deriving DecidableEq, Repr, Inhabited

/-- Why a stream is being cancelled (R295). -/
structure StreamCancel where
  drop : Bool
  /-- contexts (core, context) cancelled or killed by the same action: they get no end marker -/
  quiet : List (Nat × Nat)
  /-- fenced target cores, and unbound target rails (core, rail) -/
  fenced : List Nat
  unbound : List (Nat × Nat)
  deriving DecidableEq, Repr, Inhabited

/-- A buffer a stream is filling on one target: the target core, the buffer, the bytes in it, whether bytes came in as all
ones (R280). -/
structure Filling where
  core : Nat
  buffer : Nat
  fill : Nat
  poisoned : Bool
  deriving DecidableEq, Repr, Inhabited

/-- A place in a block list: block, occurrence, byte offset (R265). -/
structure Place where
  blk : Nat
  occ : Nat
  off : Nat
  deriving DecidableEq, Repr, Inhabited

/-- The counts of a stream record (R274). -/
structure StreamCounts where
  delivered : Nat
  useful : Nat
  wasted : Nat
  latePops : Nat
  evicted : Nat
  histogram : List Nat
  handles : Nat
  mismatches : Nat
  deriving DecidableEq, Repr, Inhabited

/-- A stream slot in use (R269 to R276, R299 to R303). -/
structure Stream where
  ctx : Nat
  w : Word
  srcBases : List Nat
  dstBases : List Nat
  /-- LINEAR: the first destination byte in effect -/
  dstBase : Nat
  /-- a pass runs -/
  active : Bool
  bound : Option Bound
  /-- the stroke in which its `STREAM` issued -/
  stroke : Nat
  src : Place
  dst : Place
  /-- tells two streams that used one slot apart -/
  gen : Nat
  relays : List Relay
  filling : List Filling
  rearmHeld : Option Word
  retirePending : Bool
  cancel : Option StreamCancel
  /-- handles of the stream so far, over all passes (R272) -/
  tags : Nat
  counts : StreamCounts
  poisoned : Bool
  /-- VERIFY: one more than the number of the last 8-byte word that mismatched -/
  badWord : Nat
  resumed : Bool
  late : Bool
  /-- the bytes of its burst that have been read and not delivered, and whether the read was poisoned (R267, R280, R284) -/
  flight : List Byte
  flightPoison : Bool
  /-- guided: its staging region, its first byte and its bytes (R299) -/
  stageAt : Nat
  staged : Nat
  /-- a fault stopped it (R304) -/
  faulted : Bool
  deriving DecidableEq, Repr, Inhabited

/-! ### The engines -/

/-- One query during a `SEARCH` (R244, R245, R247): heap and results hold (distance, id), ascending; STOP once it has
stopped. -/
structure Query where
  heap : List (Nat × Nat)
  results : List (Nat × Nat)
  expansions : Nat
  evaluated : Nat
  poisoned : Bool
  dropped : Bool
  nonfinite : Bool
  sat : Bool
  inexact : Bool
  stop : Option Nat
  deriving DecidableEq, Repr, Inhabited

/-- A `SEARCH` under way (R244, R246): its queries, its round, the vertices popped and not yet enumerated, the ids read and
not yet tested, the pairs marked and not yet in a batch, what is left of the batch that is consumed, and its columns. Pairs
are (query, id). -/
structure SearchRun where
  /-- it holds the array: it has had its first pass (R246) -/
  holds : Bool
  /-- rows of the running batch: the id, its row (none when poisoned) and, for L2, its norm -/
  rows : List (Nat × Option (List Byte) × Nat)
  qs : List Query
  round : Nat
  todo : List (Nat × Nat)
  ids : List (Nat × Nat)
  pend : List (Nat × Nat)
  batch : List (Nat × Nat)
  cols : Nat
  deriving DecidableEq, Repr, Inhabited

/-- A command in the queue of the Chisel, the Marquetry engine or the Scribe unit, oldest first; the head runs. -/
structure EngCmd where
  ctx : Nat
  w : Word
  stroke : Nat
  started : Bool
  sat : Bool
  inexact : Bool
  nonfinite : Bool
  resumed : Bool
  /-- bound table versions -/
  bound : List Bound
  /-- resume point: item, and position within it; for a vector command its row and chunk -/
  item : Nat
  pos : Nat
  /-- partial accumulator of the current bag (R195), or the lane partials of the current row (R159) -/
  acc : List (BitVec 32)
  /-- STOP and NEXT of a Scribe frontier command, the counts of a merge, or the phase of a row and its scalars (R159) -/
  stop : Nat
  next : Nat
  /-- `EXPAND`: the rest of the current entry's list has been read, and no read of it was poisoned (R261) -/
  clear : Bool
  search : Option SearchRun
  deriving DecidableEq, Repr, Inhabited

/-- A cell's accumulator: its 128-bit image as a signed integer, and its poison bit (R113, R126). -/
structure Cell where
  acc : Int
  poison : Bool
  deriving DecidableEq, Repr, Inhabited

/-- A preload in the inactive set (R83, R122): the source values as read, by row and column of its rectangle, and whether a drain
of this array was in progress before it (R92). -/
structure Preload where
  ctx : Nat
  w : Word
  loaded : Bool
  values : List Nat
  after : Bool
  deriving DecidableEq, Repr, Inhabited

/-- A tile (R87 to R94, R127): the cells of group g, row i, column j at position (g × M + i) × N + j. -/
structure Tile where
  ctx : Nat
  m : Nat
  n : Nat
  f : Nat
  anchored : Bool
  anchor : Int
  cells : List Cell
  sat : Bool
  inexact : Bool
  resumed : Bool
  /-- the last PASS that streamed into it -/
  w : Word
  /-- the preload it started from, which also stands in the cells that it does not enable (R84, R96) -/
  pre : Preload
  /-- its work has ended while it drains: whether that work was late (R127) -/
  ended : Option Bool
  deriving DecidableEq, Repr, Inhabited

/-- An array command in the queue. -/
structure ArrCmd where
  ctx : Nat
  w : Word
  stroke : Nat
  deriving DecidableEq, Repr, Inhabited

/-- A pass that streams: its command and the slices per group already streamed (R107, R109). -/
structure Streaming where
  cmd : ArrCmd
  streamed : Nat
  deriving DecidableEq, Repr, Inhabited

/-- R72, R75, R105: the Mortise array of a core. -/
structure ArrayUnit where
  queue : List ArrCmd
  streaming : Option Streaming
  active : Option Tile
  /-- after SWAP, the active set holds a preload that no pass has made a tile (R93) -/
  activeRaw : Option Preload
  preload : Option Preload
  draining : Option Tile
  /-- a `DRAIN` started the drain in progress (R94) -/
  drainCmd : Bool
  /-- contexts that issued a PRELOAD since their last swap (R100) -/
  preloaded : List Nat
  deriving DecidableEq, Repr, Inhabited

/-- R185: the merge session of a Marquetry engine. -/
structure MergeSession where
  ctx : Nat
  table : Nat
  area : Nat
  entries : Nat
  tags : List Nat
  deriving DecidableEq, Repr, Inhabited

/-! ### Contexts -/

/-- R307. -/
inductive CState where
  | free | idle | ready | running | waiting | saved | faultWait | faulted
  deriving DecidableEq, Repr, Inhabited

/-- R308. -/
inductive Cause where
  | none | clamp | rail | buffer | unit | boundary | plan | idleFence | fault
  deriving DecidableEq, Repr, Inhabited

/-- A live loop (R322, R326). -/
structure LoopLevel where
  start : Nat
  stop : Nat
  remaining : Nat
  deriving DecidableEq, Repr, Inhabited

/-- A pending rail patch (R292): commands still to go, bit, value. -/
structure Patch where
  ahead : Nat
  bit : Nat
  value : Nat
  deriving DecidableEq, Repr, Inhabited

/-- An intake patch of a plan block with its value (R437). -/
structure IntakePatch where
  offset : Nat
  bit : Nat
  width : Nat
  value : Nat
  deriving DecidableEq, Repr, Inhabited

/-- A taken request (R440, R442). -/
structure Request where
  token : Nat
  poisoned : Bool
  deriving DecidableEq, Repr, Inhabited

/-- A patch of a plan block as the entry holds it (R435, R437). -/
structure PlanPatch where
  offset : Nat
  bit : Nat
  width : Nat
  form : Nat
  arg : Nat
  deriving DecidableEq, Repr, Inhabited

/-- A context block of a stroke plan (R435). -/
structure PlanBlock where
  ctx : Nat
  cx6 : Bool
  skip : Bool
  length : Nat
  base : Nat
  patches : List PlanPatch
  deriving DecidableEq, Repr, Inhabited

/-- What admission decides at step 7 (R494): the granted cores with their blocks, the deferred cores, and the classes of cores. -/
structure Admitted where
  granted : List (Nat × List PlanBlock)
  deferred : List Nat
  classes : Sparse Nat
  deriving DecidableEq, Repr, Inhabited

/-- A plan in force (R436): its entry's number, the granted strokes left, the strokes deferred, its class and blocks. -/
structure Plan where
  entry : Nat
  left : Nat
  deferred : Nat
  cls : Nat
  blocks : List PlanBlock
  deriving DecidableEq, Repr, Inhabited

/-- A stroke's work of a serving context that has not started (R436, R440): its stroke, its intake ring, the requests taken, the
block to run, whether its batch record is written, and whether it is late (R51). -/
structure Work where
  stroke : Nat
  ring : Nat
  requests : List Request
  block : PlanBlock
  ready : Bool
  late : Bool
  deriving DecidableEq, Repr, Inhabited

/-- A host action (R433). -/
inductive Action where
  | preempt | release | cancel | kill | reset | resume
  deriving DecidableEq, Repr, Inhabited

/-- R327, R542: what ends a context's work; `recover` is the device's own cancel of a FAULTED serving context. -/
inductive EndKind where
  | cancel | drop | kill | reset | fault | recover
  deriving DecidableEq, Repr, Inhabited

/-- The work of a pre-empted context (R314, R320). -/
structure Saved where
  tile : Option Tile
  raw : Option Preload
  streaming : Option Streaming
  /-- the `PRELOAD` to execute again (R107) -/
  rePreload : Option ArrCmd
  withdrawnArray : List ArrCmd
  withdrawnChisel : List EngCmd
  withdrawnMarquetry : List EngCmd
  withdrawnScribe : List EngCmd
  chisel : Option EngCmd
  marquetry : Option EngCmd
  scribe : Option EngCmd
  merge : Option MergeSession
  streams : List (Nat × Stream)
  deriving DecidableEq, Repr, Inhabited

/-- R305 to R327, R431: a context and its block of registers. -/
structure Ctx where
  descriptor : BitVec 64
  state : CState
  cause : Cause
  causeDetail : Nat
  stamp : Nat
  /-- the stroke in which its wait began, and whether the cause of that wait has been met while a pre-emption was in progress
  (R314, R325) -/
  since : Nat
  met : Bool
  held : Bool
  /-- the pending action and the completion ring it was written for (R434) -/
  pendAction : Option (Action × Nat)
  subBase : Nat
  subSize : Nat
  subTail : BitVec 32
  subHead : BitVec 32
  comp : Nat
  /-- the running command stream: base, length, CX6, token, notify -/
  running : Bool
  base : Nat
  length : Nat
  cx6 : Bool
  token : Nat
  notify : Bool
  pos : Nat
  /-- R429: of a CX6 pass with bias at the position, the `PRELOAD` has been taken -/
  half : Bool
  loops : List LoopLevel
  hslots : Sparse HSlot
  patches : List Patch
  intake : List IntakePatch
  /-- STREAM commands dispatched early and not yet reached (R281) -/
  early : List Word
  /-- the command that could not proceed (R314) -/
  waitCmd : Option Word
  /-- the pending translation fault record and the engines that retry from their resume points (R389, R390) -/
  fault : Option FaultRec
  faultAtFetch : Bool
  saving : List Engine
  saved : Option Saved
  /-- the context's work has ended and its records wait for its last cancelled stream (R295, R327, R541) -/
  ending : Option EndKind
  /-- the stroke's work that runs: it is open, its stroke, its ring and requests, late; the context has yielded or stopped -/
  workOpen : Bool
  workStroke : Nat
  workRing : Nat
  requests : List Request
  late : Bool
  yielded : Bool
  /-- work granted and not yet started, oldest first (R52, R440) -/
  coming : List Work
  deriving DecidableEq, Repr, Inhabited

/-! ### A core -/

/-- A drawer-cache or side-buffer line (R359, R360, R362): most recently used first. -/
structure CacheLine where
  line : Nat
  data : List Byte
  dirty : Bool
  owner : Nat
  detect : Bool
  deriving DecidableEq, Repr, Inhabited

/-- A translation-buffer entry (R350): page number, frame base, WRITE, DETECT. -/
structure TlbEntry where
  page : Nat
  frame : Nat
  write : Bool
  detect : Bool
  deriving DecidableEq, Repr, Inhabited

/-- A prefetch counter (R302, R468): its count with its 16-bit wrap above, running and latched, and its byte remainder. -/
structure Counter48 where
  run : Nat
  rest : Nat
  latched : Nat
  deriving DecidableEq, Repr, Inhabited

/-- Load counts of a table in the running stroke and since reset (R193). -/
structure LoadCount where
  lookups : Nat
  invalid : Nat
  hits : Nat
  lookupsTotal : Nat
  invalidTotal : Nat
  deriving DecidableEq, Repr, Inhabited

/-- One core. -/
structure Core where
  /-- the core is up: powered, booted, its self test passed -/
  up : Bool
  tray : Memory
  /-- 8-byte words whose code shows 1 or 2 wrong bits (R356) -/
  trayErr : Sparse Nat
  ctxs : Sparse Ctx
  lastChosen : Nat
  clamps : Sparse Clamp
  rails : Sparse Rail
  pools : Sparse Pool
  streams : Sparse Stream
  /-- streams started in the core's slots; tells two streams of one slot apart -/
  streamGen : Nat
  /-- the slot that the Batten engine served last (R278) -/
  lastStream : Nat
  /-- when the newest TRAY_UNCORRECTABLE records on the core arose, at most three, newest first, in ns of the stroke clock (R536) -/
  trayFaults : List Nat
  arr : ArrayUnit
  vec : List EngCmd
  gat : List EngCmd
  scr : List EngCmd
  merge : Option MergeSession
  tlb2 : List TlbEntry
  tlb1 : List TlbEntry
  drawer : List CacheLine
  side : List CacheLine
  /-- the class admitted for the stroke (0x0202, R494) -/
  admitted : Nat
  /-- the class decided at step 7 and in force from step 10 (R47) -/
  decided : Nat
  /-- 0x0201 in effect and as written -/
  batchClass : Nat
  batchNext : Option Nat
  /-- strokes for which its serving plan has been deferred in a row (R494) -/
  deferAge : Nat
  /-- plan ring (R435) and the plan in force -/
  planBase : Nat
  planSize : Nat
  planTail : BitVec 32
  planHead : BitVec 32
  planComp : Nat
  plan : Option Plan
  planFaultReported : Bool
  loads : Sparse LoadCount
  /-- running progress items per job (R257) -/
  items : Sparse Nat
  prefetch : Sparse Counter48
  /-- stall counters by subindex, running and latched (R469) -/
  stalls : Sparse (BitVec 32 × BitVec 32)
  deriving DecidableEq, Repr, Inhabited

/-! ### HBM, translation, heat -/

/-- The side band of a granule (R365): attribute of its last write, and poison. -/
inductive Side where
  | zero | protect | detect | poison
  deriving DecidableEq, Repr, Inhabited

/-- A stack (R368, R376 to R379). -/
structure Stack where
  pairA : Nat
  pairB : Nat
  remapped : Nat
  corrected : BitVec 64
  uncorrected : BitVec 64
  /-- 1/16 °C; none before the first reading -/
  temp : Option Int
  level : Nat
  evacuating : Bool
  training : List Nat
  /-- channels of pairs fenced after the second one (R28, R371) -/
  more : List Nat
  /-- corrected errors of each channel within one second, and when the first of them came, in ns of the stroke clock (R369) -/
  chan : Sparse (Nat × Nat)
  /-- the hottest reading since the previous boundary (R379) -/
  peak : Option Int
  deriving DecidableEq, Repr, Inhabited

/-- HBM and its counters. -/
structure Hbm where
  on : Bool
  selfRefresh : Bool
  cells : Memory
  side : Sparse Side
  stackTab : Sparse Stack
  withdrawn : List (Nat × Nat)
  retrainLimit : Nat
  trayCorrected : BitVec 64
  drawerParity : BitVec 64
  glueLost : BitVec 64
  root0 : Nat
  root1 : Nat
  rootNext0 : Option Nat
  rootNext1 : Option Nat
  /-- 0x0300.01 to .04 (R377) -/
  thresholds : List Nat
  deriving DecidableEq, Repr, Inhabited

/-! ### Live tables -/

/-- A version that is no longer published but not yet released (R211). -/
structure Retained where
  version : Nat
  /-- number of the publication entry that superseded it, and the boundary -/
  entry : Nat
  stroke : Nat
  /-- it frees host storage: the entry's RELEASED_STROKE is written at its release (R211, R212) -/
  host : Bool
  deriving DecidableEq, Repr, Inhabited

/-- A running compaction (R225): its entry, whether that was taken after its AT_STROKE, its cut, and the stage it has finished. -/
structure Compaction where
  entry : Nat
  late : Bool
  cut : Nat
  stage : Nat
  deriving DecidableEq, Repr, Inhabited

/-- A `FLIP` or `COMPACT` entry whose records wait to be reclaimed (R212): its tag, and whether it is a compaction's cut. -/
structure Freed where
  entry : Nat
  tag : Nat
  compact : Bool
  deriving DecidableEq, Repr, Inhabited

/-- A descriptor slot of one die's published table (R199, R203, R222). What concerns the overlay is kept in the copy of the die
whose writer serves it. -/
structure Slot where
  /-- a publication has reached the slot since reset -/
  set : Bool
  desc : Nat
  retained : List Retained
  /-- the numbers of the overlay's records in use, rising -/
  used : List Nat
  compaction : Option Compaction
  reclaim : List Freed
  deriving DecidableEq, Repr, Inhabited

/-- A shard-map header slot. -/
structure ShardMap where
  set : Bool
  header : Nat
  retained : List Retained
  deriving DecidableEq, Repr, Inhabited

/-- The published tables of one die (R203). -/
structure DieTables where
  region : Nat
  slots : Sparse Slot
  maps : Sparse ShardMap
  pubHead : Nat
  updHead : Nat
  /-- frozen ranges: shard map, first block, blocks (R233) -/
  frozen : List (Nat × Nat × Nat)
  deriving DecidableEq, Repr, Inhabited

/-- 0x0900. -/
structure Tables where
  pubBase : Nat
  pubSize : Nat
  pubTail : Nat
  /-- the tail as covered by tail writes at least 2 µs before the next T0 (R206) -/
  pubTailEarly : Nat
  updBase : Nat
  updSize : Nat
  updEntry : Nat
  updTail : Nat
  /-- LRW writes not yet in effect: subindex, value -/
  next : List (Nat × Nat)
  accepted : BitVec 64
  superseded : BitVec 64
  notOwner : BitVec 64
  overlayFull : BitVec 64
  migrating : BitVec 64
  discarded : BitVec 64
  die0 : DieTables
  die1 : DieTables
  counterBlock : Nat
  counterOn : Nat
  counterNext : List (Nat × Nat)
  deriving DecidableEq, Repr, Inhabited

/-! ### Links -/

/-- What a frame carries (R400). -/
inductive Payload where
  | write (b : WriteBody)
  | signal (b : SignalBody)
  | marker (number hops : Nat)
  | heartbeat (b : Beat)
  | slow (level : Nat)
  | abort (collId origin reason : Nat)
  | nack (offset reason core ctx : Nat)
  | unreachable (dest : Nat)
  deriving DecidableEq, Repr

/-- A frame that left on a link. -/
structure OutFrame where
  link : Nat
  head : FrameHead
  channel : Nat
  payload : Payload
  deriving DecidableEq, Repr

/-- A link (R398, R399, R402, R412). -/
structure Link where
  state : Nat
  versionFail : Bool
  major : Nat
  minor : Nat
  /-- heartbeat periods for which PEER_SLOW still reads 1 -/
  slowLeft : Nat
  peer : Nat
  latency : Nat
  peerLink : Nat
  resends : BitVec 64
  codewords : BitVec 64
  attempts : Nat
  /-- uncorrectable codewords within one second, and when the first of them came; resends of one frame without acknowledgement;
  when a fence rule last had the link retrain; times in ns of the stroke clock (R412) -/
  burst : Nat
  burstFrom : Nat
  tries : Nat
  retrained : Option Nat
  retry : List OutFrame
  deriving DecidableEq, Repr, Inhabited

/-- What this device keeps of one origin (R407, R413, R414). -/
structure Origin where
  expected : Nat
  writes : List WriteBody
  signals : List SignalBody
  lost : Bool
  /-- REMOTE_WRITE_FAULTs of the running stroke (R406) -/
  refused : Nat
  deriving DecidableEq, Repr, Inhabited

/-- A watched peer of a collective slot (R417 to R419): its last PROGRESS, whether it has reported DONE, and for how many of
this device's heartbeat periods its last SLOW or SLOW_PATH still counts. -/
structure Peer where
  id : Nat
  progress : Nat
  done : Bool
  slowLeft : Nat
  deriving DecidableEq, Repr, Inhabited

/-- A collective slot that the device has read as valid (R415 to R420); `state` is as in the descriptor. -/
structure Coll where
  state : Nat
  collId : Nat
  kind : Nat
  startCore : Nat
  startClamp : Nat
  progCore : Nat
  progClamp : Nat
  target : Nat
  timeout : Nat
  peers : List Peer
  deferred : Bool
  startPending : Bool
  deriving DecidableEq, Repr, Inhabited

/-- A routing entry (R408). -/
structure Route where
  primary : Nat
  alternate : Nat
  vcOut : Nat
  deriving DecidableEq, Repr, Inhabited

/-- The links and the fabric (0x0400 to 0x045F). -/
structure Fabric where
  deviceId : Nat
  exportBase : Nat
  exportNext : Option Nat
  beatPeriod : Nat
  beatNext : Option Nat
  collBase : Nat
  noRoute : BitVec 64
  majorDrops : BitVec 64
  lostSignals : BitVec 64
  links : Sparse Link
  routes : Sparse Route
  /-- die 1's half's entries while the device is split (R411) -/
  routes1 : Sparse Route
  routesNext : List (Nat × Route)
  origins : Sparse Origin
  /-- next end-to-end sequence per destination -/
  sent : Sparse Nat
  /-- destinations known unreachable, with the half that knows it (R409) -/
  unreachable : List (Nat × Nat)
  colls : Sparse Coll
  deriving DecidableEq, Repr, Inhabited

/-! ### Host attach -/

/-- One endpoint (R426, R427, R448). -/
structure Endpoint where
  trained : Bool
  rate16 : Bool
  attach : Nat
  refusalOffset : Nat
  refusalCode : Nat
  resultCount : BitVec 16
  resultCode : Nat
  resultObject : Nat
  /-- once-per-stroke records already written: HALF_UNREACHABLE, HOST_RANGE, UNIT_ABSENT -/
  saidHalf : Bool
  saidRange : Bool
  saidAbsent : Bool
  /-- R422: what the host has written to the configuration space, oldest first: offset, byte -/
  config : List (Nat × Byte)
  deriving DecidableEq, Repr, Inhabited

/-- An intake ring's descriptor fields (R438). -/
structure IntakeDesc where
  enable : Bool
  fill : Bool
  drop : Bool
  ageLimit : Nat
  sizeLog2 : Nat
  entryLog2 : Nat
  comp : Nat
  cap : Nat
  base : Nat
  reqBase : Nat
  deriving DecidableEq, Repr, Inhabited

/-- A running copy of taken requests (R440): the context, the stroke, the ring position of the first request, the requests'
ages, whether younger ones were left, and the KIND of end that has met the context meanwhile: 0 none, 1 its work ended,
2 a DROP cancellation. -/
structure Copy where
  core : Nat
  ctx : Nat
  stroke : Nat
  first : Nat
  ages : List Nat
  leftOver : Bool
  ended : Nat
  late : Bool
  deriving DecidableEq, Repr, Inhabited

/-- An intake ring (R438 to R440): `ages` holds the age of each request present and not taken, oldest first. -/
structure Intake where
  desc : IntakeDesc
  word1 : Nat
  word2 : Nat
  disabling : Bool
  tail : BitVec 32
  head : BitVec 32
  taken : BitVec 64
  late : BitVec 64
  dropped : BitVec 64
  leftOver : BitVec 64
  ages : List Nat
  /-- copies that have not ended, oldest first -/
  copies : List Copy
  deriving DecidableEq, Repr, Inhabited

/-- A completion record (R442). -/
structure Completion where
  kind : Nat
  status : Nat
  ctx : Nat
  core : Nat
  token : Nat
  stroke : Nat
  detail : Nat
  deriving DecidableEq, Repr, Inhabited

/-- A completion ring (R442 to R444). -/
structure CompRing where
  base : Nat
  sizeLog2 : Nat
  vector : Nat
  moderation : Nat
  head : BitVec 32
  tail : BitVec 32
  lost : BitVec 64
  store : List Completion
  saidLost : Bool
  /-- per endpoint: the moderation interval runs, and a vector is held for its end -/
  running0 : Bool
  held0 : Bool
  running1 : Bool
  held1 : Bool
  deriving DecidableEq, Repr, Inhabited

/-- The host attach. -/
structure HostIf where
  ep0 : Endpoint
  ep1 : Endpoint
  /-- VERSION_SEL: written, native minor, compatibility minor, COMPAT -/
  selected : Bool
  nativeMinor : Nat
  compatMinor : Nat
  compat : Bool
  intakes : Sparse Intake
  comps : Sparse CompRing
  /-- host-die memory, which the device reads and writes over CXL.io -/
  mem : Memory
  deriving DecidableEq, Repr, Inhabited

/-! ### Gauges, dictionary, flash -/

/-- A DOM transfer at a gauge (R465, R466). -/
structure Dom where
  index : Nat
  sub : Nat
  isWrite : Bool
  window : Bool
  length : Nat
  nextSeg : Nat
  data : List Byte
  deriving DecidableEq, Repr, Inhabited

/-- A gauge (R472 to R485). -/
structure Gauge where
  alive : Bool
  lead : Bool
  /-- it may not renew its own old lease: it has restarted or lapsed (R473, R481) -/
  restarted : Bool
  epochSeen : Nat
  lastRequest : Option (Nat × Nat × Nat × Nat)
  lastResponse : List Byte
  dom : Option Dom
  domTarget : Nat
  domBuffer : Nat
  domLength : Nat
  domStatus : Nat
  domResult : Nat
  domMoved : Nat
  /-- the transfer over CAN FD that was abandoned for idling and whose client has not been told: index, subindex -/
  domLapsed : Option (Nat × Nat)
  nonce : List Byte
  report : List Byte
  attState : Nat
  attResult : Nat
  attNonce : List Byte
  busOff : Bool
  /-- R513: the check that this gauge found failed while it had no contact with the other, which puts it alone into
  recovery-listen; else 0 -/
  recovery : Nat
  /-- this gauge's copy of RW objects written while the halves had no contact: object number, value -/
  rwCopy : List (Nat × Nat)
  deriving DecidableEq, Repr, Inhabited

/-- A pending flash store (R452, R502). -/
inductive Store where
  | object (index sub : Nat) (value : List Byte)
  | block (n : Nat) (data : List Byte)
  | eraseBlock0
  | log (r : FaultRec)
  deriving DecidableEq, Repr

/-- Leadership, flash and image push. -/
structure Mgmt where
  g0 : Gauge
  g1 : Gauge
  holder : Option Nat
  epoch : Nat
  leaseRunning : Bool
  takeStroke : Nat
  takes : BitVec 64
  preferred : Nat
  /-- a handover has been asked for, and whether the boundary whose step 10 makes it has begun (R479, R562) -/
  handover : Bool
  handoverDue : Bool
  /-- the highest EPOCH that the cores of each die have seen (R475) -/
  seen0 : Nat
  seen1 : Nat
  /-- REJOIN_BLOCKED has been written for the difference found last (R483) -/
  blockedSaid : Bool
  rejoins : BitVec 64
  strokesAdded : BitVec 64
  rwDiffering : Nat
  linkUp : Bool
  pathUp : Bool
  /-- R476: the gauges are not separated: they have contact, or the one that works serves the device alone -/
  contact : Bool
  rejoining : Bool
  die0Power : Bool
  die1Power : Bool
  leaderless : Bool
  stores : List Store
  /-- stored values of RWS objects -/
  budgetStored : Nat
  deviceIdStored : Nat
  nodeStored : Nat
  memtestStored : Nat
  /-- the 256 KiB blocks of the image range that have been written since manufacture (R510) -/
  flash : Sparse (List Byte)
  faultLog : List FaultRec
  node : Nat
  /-- image push (R518) -/
  blockSel : Nat
  session : Nat
  verifyResult : Nat
  verifying : Bool
  /-- fuses (R509): both banks hold the same values -/
  ownerHash : List Byte
  fusedSvn : Nat
  /-- the fuses as the gauges read them when they booted (R514 step 1, R521) -/
  ownerRead : List Byte
  svnRead : Nat
  /-- boot (R514) -/
  bootState : Nat
  bootResult : Nat
  verified0 : Bool
  verified1 : Bool
  hbmDone : Bool
  coresDone : Bool
  memtesting : Bool
  ready : Bool
  build : List Byte
  svn : Nat
  header : List Byte
  msToStroke1 : Nat
  withdrawnByTest : Nat
  /-- progress jobs (R258): TOTAL, DONE as latched, a zeroing of DONE that waits for the next boundary -/
  totals : Sparse (BitVec 64)
  done : Sparse (BitVec 64)
  zeroing : List Nat
  /-- 0x0700.20 in effect and as written -/
  watchdog : Nat
  watchdogNext : Option Nat
  deriving DecidableEq, Repr, Inhabited

/-! ### Power and fences -/

/-- R488, R503 to R508. -/
structure Power where
  present : Bool
  debounced : Bool
  /-- the always-on domains are powered -/
  alwaysOn : Bool
  /-- the main path is closed -/
  main : Bool
  onHoldup : Bool
  stopped : Bool
  /-- 0x0200.0A; 0 while no gauge runs -/
  state : Nat
  /-- a PARK (false) or REMOVE (true) request waits for its boundary -/
  parkReq : Option Bool
  budget : Nat
  budgetNext : Option Nat
  charged : Nat
  /-- the figure of die 1's half while the halves have no contact (R495) -/
  charged1 : Nat
  measured : Nat
  hostLimit : Nat
  hostLimitNext : Option Nat
  inputMv : Nat
  inputCurrent : Nat
  /-- usable hold-up energy, mJ -/
  energy : Nat
  regionLimits : List Nat
  regionLimitsNext : List (Nat × Nat)
  batchReduced : BitVec 64
  idleCycles : BitVec 64
  holdupLow : BitVec 64
  dieTemp0 : Option Int
  dieTemp1 : Option Int
  dieLimit : Nat
  /-- the overcurrent guard, for the arrays of each die (R500) -/
  guard0 : Bool
  guard1 : Bool
  guardEnds0 : Bool
  guardEnds1 : Bool
  /-- what gauge 0 has decided for the half that has still to run this stroke's step 7: the half, the stroke (R482, R495) -/
  joint : Option (Nat × Nat × Admitted)
  hot0 : Bool
  hot1 : Bool
  hotEnds0 : Bool
  hotEnds1 : Bool
  deriving DecidableEq, Repr, Inhabited

/-- R536 to R540. -/
structure Fences where
  cores : BitVec 64
  regions : BitVec 8
  dies : BitVec 8
  dieCause0 : Nat
  dieCause1 : Nat
  /-- the cause in the record of a core's or region's own fence -/
  coreCauses : Sparse Nat
  regionCauses : Sparse Nat
  /-- control writes that wait for step 7: level 2, 3 or 4, unit, fence -/
  pending : List (Nat × Nat × Bool)
  testingCores : List Nat
  testingRegions : List Nat
  /-- die halves whose unfence waits for the rejoin (R540) -/
  returning : List Nat
  /-- regions whose own fence was cleared while their die half was fenced: they train when it returns (R540) -/
  owed : List Nat
  deriving DecidableEq, Repr, Inhabited

/-! ### Outputs -/

/-- A CAN FD frame sent (R459). -/
structure CanFrame where
  ident : Nat
  data : List Byte
  deriving DecidableEq, Repr

/-- What the block has put out, newest last. -/
structure Out where
  can : List CanFrame
  frames : List OutFrame
  /-- MSI-X vectors sent: endpoint, vector -/
  msix : List (Nat × Nat)
  /-- data and CXL poison of host reads -/
  reads : List (List Byte × Bool)
  /-- STROKE_OUT pulses: the stroke of each (R550) -/
  pulses : List Nat
  deriving DecidableEq, Repr, Inhabited

/-! ### The machine -/

/-- A fault that ends a context's work and is acted on before the command that met it ends: its record, and whether the
record is still to be written (R328, R531). The model's own field; empty between steps. -/
structure Due where
  core : Nat
  ctx : Nat
  record : FaultRec
  write : Bool
  deriving DecidableEq, Repr, Inhabited

/-- Everything but the identity, the stroke clock and the queue. -/
structure Mach where
  cores : Sparse Core
  hbm : Hbm
  faults : Faults
  signals : List Sig
  signalsLost : BitVec 64
  tables : Tables
  fabric : Fabric
  host : HostIf
  mgmt : Mgmt
  power : Power
  fences : Fences
  out : Out
  /-- The model's own list of faults being acted on; empty between steps. -/
  due : List Due
  /-- The model's own counter of free values taken, not the manual's (notes/assumptions/2). -/
  free : Nat
  deriving DecidableEq, Repr, Inhabited

/-- The read-only view an ordinary command has of what it never writes. -/
structure Env where
  v : Variant
  k : Strokes
  deriving DecidableEq, Repr

/-- The state of the block and the queue of waiting commands, first in first out. -/
structure State where
  variant : Variant
  strokes : Strokes
  mach : Mach
  pending : List Instr
  deriving DecidableEq, Repr

/-! ### Reset -/

/-- The full part OQX8-64-96-T (R1, R7; DESIGN CHOICE of the part, notes/assumptions/7). -/
def Variant.full : Variant :=
  { fused := #v[none, none, none, none, none, none, none, none], fewLinks := false, train := true }

def AlignCtl.reset : AlignCtl :=
  { mode := 0, driveOut := false, markersOut := false, adoptNumber := true, lossCount := 3 }

/-- R36, R37, R41, R58, R59. -/
def Strokes.reset : Strokes :=
  { counter := 0, counter1 := 0, split := false, locked := false, period := 250, pendingPeriod := 0, armed := none,
    target := 0, window := 4, windowNext := none, timestamp := 0, timestamp1 := 0, running := false, inWindow := false,
    inWindow1 := false, align := AlignCtl.reset, alignNext := none, alignState := 0, numberAhead := false,
    numberBehind := false, periodMismatch := false, secondClock := false, hops := 0, phaseErr := 0, inDelay := 0,
    numberOffset := 0, overruns := 0, deferred := 0, extended := 0, carried := 0, good := 0,
    missing := 0, source := none, adopt := false, lastEdge := none, stretch := 0 }

def FaultRing.reset : FaultRing :=
  { base := 0, head := 0, tail := 0, raised := [], store := [], held := [], heldCount := 0, clear := 0,
    framesThisSecond := 0, tenths := 0 }

def Faults.reset : Faults :=
  { ring0 := FaultRing.reset, ring1 := FaultRing.reset, sizeLog2 := 10, notWritten := 0, notLogged := 0,
    canLimited := 0 }

/-- R329: a clamp at reset is FREE. -/
def Clamp.reset : Clamp := { state := .free, counter := 0, owner := 255, waiters := [] }

def Rail.reset : Rail :=
  { consumer := none, pool := 0, floor := 0, prodIsContext := false, prodContext := none, prodStream := none,
    entries := [], produced := 0, consumed := 0, latProduced := 0, latConsumed := 0, latOccupancy := 0 }

def Pool.reset : Pool := { base := 0, sizeLog2 := 12, count := 0, used := [] }

def ArrayUnit.reset : ArrayUnit :=
  { queue := [], streaming := none, active := none, activeRaw := none, preload := none, draining := none,
    drainCmd := false, preloaded := [] }

/-- R305, R307, R431: a FREE context. Its DESCRIPTOR holds the fields of R305 at their resets, ARRAY 1 among them
(notes/assumptions/8). -/
def Ctx.reset : Ctx :=
  { descriptor := 8, state := .free, cause := .none, causeDetail := 0, stamp := 0, since := 0,
    met := false, held := false, pendAction := none,
    subBase := 0, subSize := 4, subTail := 0, subHead := 0, comp := 0, running := false, base := 0, length := 0,
    cx6 := false, token := 0, notify := false, pos := 0, half := false, loops := [], hslots := [], patches := [], intake := [],
    early := [], waitCmd := none, fault := none, faultAtFetch := false, saving := [], saved := none,
    ending := none,
    workOpen := false, workStroke := 0, workRing := 0, requests := [], late := false, yielded := false,
    coming := [] }

def Counter48.reset : Counter48 := { run := 0, rest := 0, latched := 0 }

def LoadCount.reset : LoadCount := { lookups := 0, invalid := 0, hits := 0, lookupsTotal := 0, invalidTotal := 0 }

def Core.reset : Core :=
  { up := false, tray := [], trayErr := [], ctxs := [], lastChosen := 15, clamps := [], rails := [],
    pools := [], streams := [], streamGen := 0, lastStream := 15, trayFaults := [], arr := ArrayUnit.reset, vec := [], gat := [], scr := [],
    merge := none, tlb2 := [], tlb1 := [], drawer := [], side := [], admitted := 0, decided := 0,
    batchClass := 0, batchNext := none, deferAge := 0, planBase := 0, planSize := 4, planTail := 0,
    planHead := 0, planComp := 0, plan := none, planFaultReported := false, loads := [], items := [],
    prefetch := [], stalls := [] }

/-- R368, R376, R377. -/
def Stack.reset : Stack :=
  { pairA := 255, pairB := 255, remapped := 0, corrected := 0, uncorrected := 0, temp := none, level := 0,
    evacuating := false, training := [], more := [], chan := [], peak := none }

def Hbm.reset : Hbm :=
  { on := false, selfRefresh := false, cells := [], side := [], stackTab := [], withdrawn := [], retrainLimit := 1000,
    trayCorrected := 0, drawerParity := 0, glueLost := 0, root0 := 0, root1 := 0, rootNext0 := none,
    rootNext1 := none, thresholds := [85, 90, 95, 100] }

def Slot.reset : Slot := { set := false, desc := 0, retained := [], used := [], compaction := none, reclaim := [] }

def ShardMap.reset : ShardMap := { set := false, header := 0, retained := [] }

def DieTables.reset : DieTables := { region := 0, slots := [], maps := [], pubHead := 0, updHead := 0, frozen := [] }

/-- R192, R204. -/
def Tables.reset : Tables :=
  { pubBase := 0, pubSize := 4, pubTail := 0, pubTailEarly := 0, updBase := 0, updSize := 6, updEntry := 9,
    updTail := 0, next := [], accepted := 0, superseded := 0, notOwner := 0, overlayFull := 0, migrating := 0,
    discarded := 0, die0 := DieTables.reset, die1 := DieTables.reset, counterBlock := 0,
    counterOn := 0, counterNext := [] }

/-- R398, R399: a fitted link reads DOWN from reset. -/
def Link.reset : Link :=
  { state := 0, versionFail := false, major := 0, minor := 0, slowLeft := 0, peer := 0xFFFF, latency := 0,
    peerLink := 127, resends := 0, codewords := 0, attempts := 0,
    burst := 0, burstFrom := 0, tries := 0, retrained := none, retry := [] }

def Origin.reset : Origin := { expected := 0, writes := [], signals := [], lost := false, refused := 0 }

def Route.reset : Route := { primary := 127, alternate := 127, vcOut := 0 }

/-- R397. -/
def Fabric.reset : Fabric :=
  { deviceId := 0xFFFF, exportBase := 0, exportNext := none, beatPeriod := 50, beatNext := none, collBase := 0,
    noRoute := 0, majorDrops := 0, lostSignals := 0, links := [], routes := [], routes1 := [], routesNext := [],
    origins := [], sent := [], unreachable := [], colls := [] }

def Endpoint.reset : Endpoint :=
  { trained := false, rate16 := false, attach := 0, refusalOffset := 0, refusalCode := 0, resultCount := 0,
    resultCode := 0, resultObject := 0, saidHalf := false, saidRange := false, saidAbsent := false, config := [] }

/-- R438. -/
def IntakeDesc.reset : IntakeDesc :=
  { enable := false, fill := false, drop := false, ageLimit := 2, sizeLog2 := 6, entryLog2 := 6, comp := 0, cap := 128,
    base := 0, reqBase := 0 }

def Intake.reset : Intake :=
  { desc := IntakeDesc.reset, word1 := 0, word2 := 0, disabling := false, tail := 0, head := 0, taken := 0, late := 0,
    dropped := 0, leftOver := 0, ages := [], copies := [] }

/-- R442. -/
def CompRing.reset : CompRing :=
  { base := 0, sizeLog2 := 6, vector := 0, moderation := 0, head := 0, tail := 0, lost := 0, store := [],
    saidLost := false, running0 := false, held0 := false, running1 := false, held1 := false }

def HostIf.reset : HostIf :=
  { ep0 := Endpoint.reset, ep1 := Endpoint.reset, selected := false, nativeMinor := 0, compatMinor := 0,
    compat := false, intakes := [], comps := [], mem := [] }

def Gauge.reset : Gauge :=
  { alive := false, lead := false, restarted := false, epochSeen := 0, lastRequest := none, lastResponse := [],
    dom := none, domTarget := 0, domBuffer := 0, domLength := 0, domStatus := 0, domResult := 0, domMoved := 0, domLapsed := none,
    nonce := List.replicate 32 0, report := [], attState := 0, attResult := 0, attNonce := [], busOff := false, recovery := 0,
    rwCopy := [] }

/-- R509, R511, R560: the fused SVN of a shipped module is that of its factory image; the thermometer holds 0 to 64. -/
def shippedSvn : Nat := min 64 (BitVec.toNat (Config.shippedFlash 15 ++ Config.shippedFlash 14 ++ Config.shippedFlash 13 ++ Config.shippedFlash 12))

/-- R472, R458, R508, R518, R560: power-on, as shipped. -/
def Mgmt.reset : Mgmt :=
  { g0 := Gauge.reset, g1 := Gauge.reset, holder := none, epoch := 0, leaseRunning := false, takeStroke := 0,
    takes := 0, preferred := 0, handover := false, handoverDue := false, seen0 := 0, seen1 := 0,
    blockedSaid := false, rejoins := 0, strokesAdded := 0, rwDiffering := 0, linkUp := true,
    pathUp := true, contact := true, rejoining := false, die0Power := true, die1Power := true, leaderless := false, stores := [],
    budgetStored := 1900, deviceIdStored := 0xFFFF, nodeStored := 2, memtestStored := 0, flash := [], faultLog := [],
    node := 2, blockSel := 0, session := 0, verifyResult := 0, verifying := false,
    ownerHash := List.replicate 32 0, fusedSvn := shippedSvn, ownerRead := List.replicate 32 0, svnRead := shippedSvn, bootState := 0, bootResult := 0, verified0 := false,
    verified1 := false, hbmDone := false, coresDone := false, memtesting := false, ready := false, build := [],
    svn := 0, header := [], msToStroke1 := 0, withdrawnByTest := 0, totals := [], done := [], zeroing := [],
    watchdog := 65536, watchdogNext := none }

/-- R500, R508. -/
def Power.reset : Power :=
  { present := false, debounced := false, alwaysOn := false, main := false, onHoldup := false, stopped := false,
    state := 0, parkReq := none, budget := 1900, budgetNext := none, charged := 0, charged1 := 0, measured := 0, hostLimit := 180,
    hostLimitNext := none, inputMv := 0, inputCurrent := 0, energy := 0, regionLimits := List.replicate 8 125,
    regionLimitsNext := [], batchReduced := 0, idleCycles := 0, holdupLow := 0, dieTemp0 := none, dieTemp1 := none,
    dieLimit := 105, guard0 := false, guard1 := false, guardEnds0 := false,
    guardEnds1 := false, joint := none, hot0 := false, hot1 := false,
    hotEnds0 := false, hotEnds1 := false }

def Fences.reset : Fences :=
  { cores := 0, regions := 0, dies := 0, dieCause0 := 0, dieCause1 := 0, coreCauses := [], regionCauses := [], pending := [], testingCores := [],
    testingRegions := [], returning := [], owed := [] }

def Out.reset : Out := { can := [], frames := [], msix := [], reads := [], pulses := [] }

/-- Power off, nothing inserted. -/
def Mach.reset : Mach :=
  { cores := [], hbm := Hbm.reset, faults := Faults.reset, signals := [], signalsLost := 0, tables := Tables.reset,
    fabric := Fabric.reset, host := HostIf.reset, mgmt := Mgmt.reset, power := Power.reset, fences := Fences.reset,
    out := Out.reset, due := [], free := 0 }

/-- The module as shipped (R560), before it is inserted (R488); notes/assumptions/9 says how its commands bring it up. -/
def State.reset : State :=
  { variant := Variant.full, strokes := Strokes.reset, mach := Mach.reset, pending := [] }

/-- The read-only view of a state. -/
def State.env (s : State) : Env := { v := s.variant, k := s.strokes }

end Sys2Proof.Machine
end

