-- ==== Sys2Proof/Machine/Ops.lean ====
section
/-! DEFINITION. The named operations over the state: tables by number, byte memories, cores and contexts, which units are
in service, and raising a fault record. -/

namespace Sys2Proof.Machine

/-! ### Tables by number and byte memories -/

/-- The entry of number `x`, `d` when unlisted. -/
def spGet {α : Type} (d : α) : Sparse α → Nat → α
  | [], _ => d
  | (k, v) :: t, x => if k = x then v else spGet d t x

/-- Write the entry of number `x`, keeping numbers rising. -/
def spSet {α : Type} : Sparse α → Nat → α → Sparse α
  | [], x, v => [(x, v)]
  | (k, w) :: t, x, v =>
    if x < k then (x, v) :: (k, w) :: t else if x = k then (x, v) :: t else (k, w) :: spSet t x v

/-- Unlist the entry of number `x`. -/
def spErase {α : Type} : Sparse α → Nat → Sparse α
  | [], _ => []
  | (k, w) :: t, x => if k = x then t else (k, w) :: spErase t x

/-- Whether number `x` is listed. -/
def spHas {α : Type} (m : Sparse α) (x : Nat) : Bool := m.any (fun p => p.1 == x)

def spMod {α : Type} (d : α) (m : Sparse α) (x : Nat) (f : α → α) : Sparse α := spSet m x (f (spGet d m x))

/-- The byte at an address; an unlisted address reads 0 (notes/assumptions/11). -/
def memGet (m : Memory) (a : Nat) : Byte := spGet 0 m a

/-- Write one byte, keeping the canonical form. -/
def memPut (m : Memory) (a : Nat) (b : Byte) : Memory := if b = 0 then spErase m a else spSet m a b

/-- `n` bytes from address `a` up. -/
def memRead (m : Memory) : Nat → Nat → List Byte
  | _, 0 => []
  | a, n + 1 => memGet m a :: memRead m (a + 1) n

/-- Write bytes from address `a` up. -/
def memWrite (m : Memory) : Nat → List Byte → Memory
  | _, [] => m
  | a, b :: bs => memWrite (memPut m a b) (a + 1) bs

/-- The canonical form: addresses strictly rising, no byte equal to what an unlisted address reads as. -/
def Memory.wf : Memory → Bool
  | [] => true
  | [(_, b)] => b != 0
  | (a, b) :: (c, d) :: t => b != 0 && decide (a < c) && Memory.wf ((c, d) :: t)

/-- A number of `n` bytes at `a`, little-endian (R14). -/
def memNat (m : Memory) (a n : Nat) : Nat := leNat (memRead m a n)

/-! ### Cores and contexts -/

def Mach.core (m : Mach) (c : Nat) : Core := spGet Core.reset m.cores c

def Mach.setCore (m : Mach) (c : Nat) (x : Core) : Mach := { m with cores := spSet m.cores c x }

def Mach.modCore (m : Mach) (c : Nat) (f : Core → Core) : Mach := m.setCore c (f (m.core c))

def Core.ctx (x : Core) (k : Nat) : Ctx := spGet Ctx.reset x.ctxs k

def Mach.ctx (m : Mach) (c k : Nat) : Ctx := (m.core c).ctx k

def Mach.modCtx (m : Mach) (c k : Nat) (f : Ctx → Ctx) : Mach :=
  m.modCore c (fun x => { x with ctxs := spSet x.ctxs k (f (x.ctx k)) })

/-- R329: clamp `i` of core `c`. -/
def Mach.clamp (m : Mach) (c i : Nat) : Clamp := spGet Clamp.reset (m.core c).clamps i

def Mach.modClamp (m : Mach) (c i : Nat) (f : Clamp → Clamp) : Mach :=
  m.modCore c (fun x => { x with clamps := spMod Clamp.reset x.clamps i f })

/-- R286: rail `r` of core `c`. -/
def Mach.rail (m : Mach) (c r : Nat) : Rail := spGet Rail.reset (m.core c).rails r

def Mach.modRail (m : Mach) (c r : Nat) (f : Rail → Rail) : Mach :=
  m.modCore c (fun x => { x with rails := spMod Rail.reset x.rails r f })

/-- R291: pool `p` of core `c`. -/
def Mach.pool (m : Mach) (c p : Nat) : Pool := spGet Pool.reset (m.core c).pools p

def Mach.modPool (m : Mach) (c p : Nat) (f : Pool → Pool) : Mach :=
  m.modCore c (fun x => { x with pools := spMod Pool.reset x.pools p f })

/-- The stream in slot `s`; none when the slot is free (R270). -/
def Mach.stream? (m : Mach) (c s : Nat) : Option Stream :=
  ((m.core c).streams.find? (fun p => p.1 == s)).map (fun p => p.2)

def Mach.setStream (m : Mach) (c s : Nat) (x : Stream) : Mach :=
  m.modCore c (fun y => { y with streams := spSet y.streams s x })

def Mach.dropStream (m : Mach) (c s : Nat) : Mach :=
  m.modCore c (fun y => { y with streams := spErase y.streams s })

/-- R305: CLASS and PRIORITY. -/
def Ctx.serving (k : Ctx) : Bool := k.descriptor.getLsbD 0

def Ctx.priority (k : Ctx) : Nat := natBits k.descriptor.toNat 2 1

def Ctx.arrayBit (k : Ctx) : Bool := k.descriptor.getLsbD 3

def Ctx.ring (k : Ctx) : Nat := natBits k.descriptor.toNat 31 16

def Ctx.saveBase (k : Ctx) : Nat := natBits k.descriptor.toNat 50 32 * 64

/-- R310: the rank, CLASS first. -/
def Ctx.rank (k : Ctx) : Nat := 4 * bit k.serving + k.priority

/-! ### Numbering and which units are in service -/

/-- R26: the die and the global region of a core. -/
def dieOf (c : Nat) : Nat := c / 32

def regionOf (c : Nat) : Nat := c / 8

/-- R536, R540: core `c` is fenced, by itself or by a unit that contains it. -/
def coreFenced (m : Mach) (c : Nat) : Bool :=
  m.fences.cores.getLsbD c || m.fences.regions.getLsbD (regionOf c) || m.fences.dies.getLsbD (dieOf c)

def regionFenced (m : Mach) (g : Nat) : Bool := m.fences.regions.getLsbD g || m.fences.dies.getLsbD (g / 4)

def dieFenced (m : Mach) (d : Nat) : Bool := m.fences.dies.getLsbD d

/-- Core `c` is present, up and not fenced. -/
def coreIn (e : Env) (m : Mach) (c : Nat) : Bool :=
  decide (c < 64) && e.v.hasCore c && (m.core c).up && !coreFenced m c

/-- The half that die `d` runs in: 1 for die 1 while the device is split, else 0 (R37, R476). -/
def halfOf (k : Strokes) (d : Nat) : Nat := if k.split && d == 1 then 1 else 0

/-- The stroke counter that holds for die `d`. -/
def strokeAt (k : Strokes) (d : Nat) : Nat :=
  if halfOf k d = 1 then k.counter1 else k.counter

/-- The latest T0 of die `d`'s half, ns: the time the device has at hand between boundaries. -/
def nsAt (k : Strokes) (d : Nat) : Nat := if halfOf k d = 1 then k.timestamp1 else k.timestamp

/-- R536: a TRAY_UNCORRECTABLE record on core `c`. -/
def noteTray (e : Env) (c : Nat) (m : Mach) : Mach :=
  m.modCore c (fun x => { x with trayFaults := (nsAt e.k (dieOf c) :: x.trayFaults).take 3 })

/-- R536 case 2: the newest three came within one second. -/
def trayRepeat (x : Core) : Bool :=
  match x.trayFaults with
  | [a, _, b] => decide (a < b + 1000000000)
  | _ => false

/-- R369, R412: one more event in a window of one second that began with its first event (notes/assumptions/64). -/
def inSecond (now count since : Nat) : Nat × Nat :=
  if 0 < count ∧ now < since + 1000000000 then (count + 1, since) else (1, now)

/-- Die `d`'s half is inside its boundary window. -/
def windowAt (k : Strokes) (d : Nat) : Bool := if halfOf k d = 1 then k.inWindow1 else k.inWindow

/-- The gauge that leads: the lowest-numbered one that holds the lead. -/
def leadGauge (m : Mach) : Nat := if m.mgmt.g0.lead then 0 else if m.mgmt.g1.lead then 1 else 0

def gaugeOf (m : Mach) (g : Nat) : Gauge := if g = 0 then m.mgmt.g0 else m.mgmt.g1

def setGauge (m : Mach) (g : Nat) (x : Gauge) : Mach :=
  if g = 0 then { m with mgmt := { m.mgmt with g0 := x } } else { m with mgmt := { m.mgmt with g1 := x } }

def modGauge (m : Mach) (g : Nat) (f : Gauge → Gauge) : Mach := setGauge m g (f (gaugeOf m g))

/-! ### Raising a fault record -/

/-- R529: the code of a fault: its family and the fault within it. -/
def famArray : Nat := 0x01
def famVector : Nat := 0x02
def famGather : Nat := 0x03
def famTraversal : Nat := 0x04
def famStream : Nat := 0x05
def famClamp : Nat := 0x06
def famMemory : Nat := 0x07
def famLink : Nat := 0x08
def famHost : Nat := 0x09
def famPower : Nat := 0x0A
def famManagement : Nat := 0x0B
def famBoot : Nat := 0x0C

/-- R529: the codes that every family shares. -/
def cBounds : Nat := 0x01
def cReservedCount : Nat := 0x02
def cUnitAbsent : Nat := 0x03
def cIllegalOpcode : Nat := 0x04
def cUnitFenced : Nat := 0x05

def faultRing (m : Mach) (d : Nat) : FaultRing := if d = 0 then m.faults.ring0 else m.faults.ring1

def setFaultRing (m : Mach) (d : Nat) (r : FaultRing) : Mach :=
  if d = 0 then { m with faults := { m.faults with ring0 := r } }
  else { m with faults := { m.faults with ring1 := r } }

/-- A record of R527 as it is detected on die `d`, before it takes a position in a ring. -/
def mkFault (e : Env) (m : Mach) (d fam code level : Nat) : FaultRec :=
  { family := fam, code := code, core := 255, ctx := 255, detail := 0, stroke := strokeAt e.k d, addr := 0,
    seq := 0xFFFFFFFF, device := m.fabric.deviceId, level := level, flags := 0 }

/-- A record that names a context, with the SERVING flag (R527). -/
def ctxFault (e : Env) (m : Mach) (c k fam code : Nat) : FaultRec :=
  { mkFault e m (dieOf c) fam code 1 with
    core := c, ctx := k, flags := if (m.ctx c k).serving then 4 else 0 }

/-- R528: the record waits for delivery by gauge `d`. -/
def raiseFault (m : Mach) (d : Nat) (r : FaultRec) : Mach :=
  setFaultRing m d { faultRing m d with raised := (faultRing m d).raised ++ [r] }

/-- The gauge that speaks for the device: the lead, and with none a gauge that works. -/
def spokesGauge (m : Mach) : Nat :=
  if m.mgmt.g0.lead || m.mgmt.g1.lead then leadGauge m else if m.mgmt.g1.alive && !m.mgmt.g0.alive then 1 else 0

/-- R528: package, leadership and power records are delivered by the lead gauge. -/
def raiseLead (m : Mach) (r : FaultRec) : Mach := raiseFault m (spokesGauge m) r

/-! ### Registers that each half keeps without contact (R451) -/

def rwKey (idx sub : Nat) : Nat := idx * 256 + sub

/-- The halves keep separate copies: from a loss of contact until the rejoin. -/
def apartRegs (m : Mach) : Bool := !m.mgmt.g1.rwCopy.isEmpty

/-- The value of an RW register for die `d`. -/
def rwRead (m : Mach) (d key shared : Nat) : Nat :=
  if apartRegs m && d == 1 then spGet shared m.mgmt.g1.rwCopy key else shared

/-- R451, R533: what gauge `g` holds of the registers of its ring. -/
def ringBase (m : Mach) (g : Nat) : Nat := rwRead m g (rwKey 0x0700 (1 + g)) (faultRing m g).base
def ringHead (m : Mach) (g : Nat) : Nat := rwRead m g (rwKey 0x0700 (4 + g)) (faultRing m g).head.toNat
def ringLog2 (m : Mach) (g : Nat) : Nat := rwRead m g (rwKey 0x0700 3) m.faults.sizeLog2

/-! ### Outputs and free values -/

def pushRead (m : Mach) (bytes : List Byte) (poison : Bool) : Mach :=
  { m with out := { m.out with reads := m.out.reads ++ [(bytes, poison)] } }

def pushMsix (m : Mach) (ep vector : Nat) : Mach :=
  { m with out := { m.out with msix := m.out.msix ++ [(ep, vector)] } }

def pushCan (m : Mach) (f : CanFrame) : Mach := { m with out := { m.out with can := m.out.can ++ [f] } }

def pushFrame (m : Mach) (f : OutFrame) : Mach := { m with out := { m.out with frames := m.out.frames ++ [f] } }

/-- The next free value (notes/assumptions/2). -/
def freeNow (m : Mach) : Nat := Config.freeNat m.free

def freeStep (m : Mach) : Mach := { m with free := m.free + 1 }

/-- Bytes of a unit's own that the manual gives no layout (notes/assumptions/3). -/
def freeBytes (kind n : Nat) : List Byte := (List.range n).map (fun i => Config.freeByte kind i)

/-! ### The shapes of a meaning -/

/-- A command that reads the identity and the stroke clock and writes the rest. -/
def liftM (f : Env → Mach → Mach) (s : State) : Host.Outcome State Fault Refusal :=
  .next { s with mach := f s.env s.mach }

/-- A command that also writes the stroke clock. -/
def liftK (f : Variant → Strokes → Mach → Strokes × Mach) (s : State) : Host.Outcome State Fault Refusal :=
  .next { s with strokes := (f s.variant s.strokes s.mach).1, mach := (f s.variant s.strokes s.mach).2 }

end Sys2Proof.Machine
end

