-- ==== Sys2Proof/Machine/Memory.lean ====
section
/-! DEFINITION. Trays with their code (R356), HBM with its side band (R364 to R367), the glue adders (R380 to R385), host-die
memory. -/

namespace Sys2Proof.Machine

/-! ### Trays -/

/-- R354: bytes of a tray. -/
def trayBytes : Nat := 0x2000000

def trayRead (m : Mach) (c a n : Nat) : List Byte := memRead (m.core c).tray a n

def trayNat (m : Mach) (c a n : Nat) : Nat := leNat (trayRead m c a n)

/-- The 8-byte words wholly inside `[a, a + n)`. -/
def fullWord (a n w : Nat) : Bool := decide (a ≤ 8 * w) && decide (8 * w + 8 ≤ a + n)

/-- R356: a write; a full write of an 8-byte word clears its error. -/
def trayWrite (m : Mach) (c a : Nat) (data : List Byte) : Mach :=
  m.modCore c (fun x =>
    { x with tray := memWrite x.tray a data, trayErr := x.trayErr.filter (fun p => !fullWord a data.length p.1) })

/-- Word `w` meets one of the ranges. -/
def meets (rs : List (Nat × Nat)) (w : Nat) : Bool := rs.any (fun r => overlaps r.1 r.2 (8 * w) 8)

/-- R356: the first tray address of an uncorrectable word that the ranges read. -/
def trayBad (m : Mach) (c : Nat) (rs : List (Nat × Nat)) : Option Nat :=
  ((m.core c).trayErr.find? (fun p => decide (2 ≤ p.2) && meets rs p.1)).map (fun p => 8 * p.1)

/-- R356: single-bit errors met are counted in 0x0500.61. -/
def trayCount (m : Mach) (c : Nat) (rs : List (Nat × Nat)) : Mach :=
  let n := ((m.core c).trayErr.filter (fun p => p.2 == 1 && meets rs p.1)).length
  { m with hbm := { m.hbm with trayCorrected := m.hbm.trayCorrected + BitVec.ofNat 64 n } }

/-- A range `[a, a + n)` that reaches beyond the tray; an empty range reaches nowhere. -/
def beyondTray (a n : Nat) : Bool := decide (0 < n) && decide (trayBytes < a + n)

/-! ### HBM geometry (R341 to R343) -/

/-- The window of a physical address. -/
def winOf (pa : Nat) : Nat := pa / 2 ^ 40

def stackOf (pa : Nat) : Nat := pa / 2 ^ 36 % 16

def offOf (pa : Nat) : Nat := pa % 2 ^ 36

/-- The window-0 address beneath any window. -/
def plainOf (pa : Nat) : Nat := pa % 2 ^ 40

def framesPerStack : Nat := 22888

def firstRelief : Nat := 22172

/-- R342: the offset is populated. -/
def populated (o : Nat) : Bool := decide (o < framesPerStack * 2 ^ 21)

/-- R343: the local pseudo-channel of a stack offset. -/
def pseudoOf (o : Nat) : Nat := natBits o 12 7 ^^^ natBits o 18 13

def channelOf (o : Nat) : Nat := pseudoOf o / 2

def Mach.stack (m : Mach) (s : Nat) : Stack := spGet Stack.reset m.hbm.stackTab s

def Mach.modStack (m : Mach) (s : Nat) (f : Stack → Stack) : Mach :=
  { m with hbm := { m.hbm with stackTab := spMod Stack.reset m.hbm.stackTab s f } }

/-- R28, R373: the block lies on the second fenced pair of an EXHAUSTED stack, or on one fenced after it. -/
def lostBlock (m : Mach) (pa : Nat) : Bool :=
  let x := m.stack (stackOf pa)
  x.pairB != 255 && (channelOf (offOf pa) == x.pairB || x.more.contains (channelOf (offOf pa)))

/-- R372, R374, R515: the frame of a stack is withdrawn. -/
def frameWithdrawn (m : Mach) (s f : Nat) : Bool :=
  regionFenced m (s / 2) || ((m.stack s).pairA != 255 && decide (firstRelief ≤ f)) || m.hbm.withdrawn.contains (s, f)

/-! ### Checked HBM reads and writes -/

/-- R365, R366: what the side band of a granule says of a read with an attribute. -/
inductive Check where
  | pass | bad | poison
  deriving DecidableEq, Repr

def granule (pa : Nat) : Nat := plainOf pa / 64

def Mach.side (m : Mach) (g : Nat) : Side := spGet Side.zero m.hbm.side g

/-- R352, R365, R366, R373. -/
def checkGranule (m : Mach) (g : Nat) (detect : Bool) : Check :=
  if lostBlock m (64 * g) then .poison
  else
    match m.side g with
    | .zero => .pass
    | .protect => if detect then .bad else .pass
    | .detect => if detect then .pass else .bad
    | .poison => .poison

def setSide (m : Mach) (g : Nat) (x : Side) : Mach :=
  { m with hbm := { m.hbm with side := if x = .zero then spErase m.hbm.side g else spSet m.hbm.side g x } }

/-- R366, R368: a failed check writes the poison code and counts in the stack. -/
def poisonGranule (m : Mach) (g : Nat) : Mach :=
  (setSide m g .poison).modStack (stackOf (64 * g)) (fun s => { s with uncorrected := s.uncorrected + 1 })

/-- R366: the record of a failed check: UNCORRECTABLE for PROTECT, CRC_FAIL for DETECT, with the physical address. -/
def checkFault (e : Env) (m : Mach) (g : Nat) (detect : Bool) : FaultRec :=
  { mkFault e m (stackOf (64 * g) / 8) famMemory (if detect then 0x12 else 0x11) 0 with addr := 64 * g }

/-- One granule read by an access: the new state and whether it is delivered as poisoned. -/
def readGranule (e : Env) (m : Mach) (g : Nat) (detect : Bool) : Mach × Bool :=
  match checkGranule m g detect with
  | .pass => (m, false)
  | .poison => (m, true)
  | .bad => (raiseFault (poisonGranule m g) (stackOf (64 * g) / 8) (checkFault e m g detect), true)

/-- Granules `g` to `g + n - 1`. -/
def readGranules (e : Env) (detect : Bool) : Nat → Nat → Mach → Mach × Bool
  | _, 0, m => (m, false)
  | g, n + 1, m =>
    let a := readGranule e m g detect
    let b := readGranules e detect (g + 1) n a.1
    (b.1, a.2 || b.2)

/-- Granules that `n` bytes from `pa` touch. -/
def granulesIn (pa n : Nat) : Nat := if n = 0 then 0 else (plainOf pa + n - 1) / 64 - plainOf pa / 64 + 1

/-- R366: a read of `n` bytes at a physical address: state, bytes, poisoned. -/
def hbmRead (e : Env) (m : Mach) (pa n : Nat) (detect : Bool) : Mach × List Byte × Bool :=
  let r := readGranules e detect (granule pa) (granulesIn pa n) m
  (r.1, memRead m.hbm.cells (plainOf pa) n, r.2)

/-- The attribute a write leaves. -/
def sideOf (detect : Bool) : Side := if detect then .detect else .protect

/-- R367: the side band of granule `g` after a write, whole or partial. -/
def writeGranule (e : Env) (m : Mach) (g : Nat) (detect whole : Bool) : Mach :=
  if whole then setSide m g (sideOf detect)
  else
    match checkGranule m g detect with
    | .pass => setSide m g (sideOf detect)
    | .poison => m
    | .bad => raiseFault (poisonGranule m g) (stackOf (64 * g) / 8) (checkFault e m g detect)

def writeGranules (e : Env) (detect : Bool) (a n : Nat) : Nat → Nat → Mach → Mach
  | _, 0, m => m
  | g, k + 1, m =>
    let whole := decide (a ≤ 64 * g) && decide (64 * g + 64 ≤ a + n)
    writeGranules e detect a n (g + 1) k (writeGranule e m g detect whole)

/-- R367: a plain write of bytes none of which lies on a lost block. -/
def hbmStore (e : Env) (m : Mach) (pa : Nat) (data : List Byte) (detect : Bool) : Mach :=
  let m1 := writeGranules e detect (plainOf pa) data.length (granule pa) (granulesIn pa data.length) m
  { m1 with hbm := { m1.hbm with cells := memWrite m1.hbm.cells (plainOf pa) data } }

/-- R373: a write granule by granule; bytes on a lost block are discarded. -/
def hbmSplit (e : Env) (detect : Bool) : Nat → Nat → List Byte → Mach → Mach
  | 0, _, _, m => m
  | fuel + 1, pa, data, m =>
    if data.isEmpty then m
    else
      let n := 64 - pa % 64
      hbmSplit e detect fuel (pa + n) (data.drop n) (if lostBlock m pa then m else hbmStore e m pa (data.take n) detect)

/-- R367, R373: a plain write. -/
def hbmWrite (e : Env) (m : Mach) (pa : Nat) (data : List Byte) (detect : Bool) : Mach :=
  if (m.stack (stackOf pa)).pairB = 255 then hbmStore e m pa data detect
  else hbmSplit e detect (data.length / 64 + 2) pa data m

/-! ### Glue adders -/

/-- R380: the element size of a window. -/
def glueSize (w : Nat) : Nat := if w = 2 then 2 else if w = 4 ∨ w = 5 then 8 else 4

/-- R380: a BF16 sum rounded once. -/
def bf16add (a b : Nat) : Nat := fencode fBF16 (vadd (fdecode fBF16 a) (fdecode fBF16 b))

/-- R380: the operation of window `w` on an element of memory and one of the payload. -/
def glueOp (w a b : Nat) : Nat :=
  if w = 1 then f32add a b
  else if w = 2 then bf16add a b
  else if w = 3 then (a + b) % 2 ^ 32
  else if w = 4 then (a + b) % 2 ^ 64
  else if signed 64 a < signed 64 b then b else a

/-- R380: the operation of window `w` on each element of old and new bytes. -/
def glueBytes (w : Nat) (old data : List Byte) : List Byte :=
  let n := glueSize w
  let k := data.length / n
  (List.zipWith (fun a b => leBytes n (glueOp w (leNat a) (leNat b))) (chunks k n old) (chunks k n data)).flatten

/-- R382, R384: the elements of a write inside one granule; the effect on a granule whose check fails or that holds the poison
code is lost, and counted once. -/
def glueGranule (e : Env) (m : Mach) (w pa : Nat) (data : List Byte) (detect : Bool) : Mach :=
  let lose (x : Mach) : Mach := { x with hbm := { x.hbm with glueLost := x.hbm.glueLost + 1 } }
  if lostBlock m pa then m
  else
    match checkGranule m (granule pa) detect with
    | .poison => lose m
    | .bad =>
      lose (raiseFault (poisonGranule m (granule pa)) (stackOf pa / 8) (checkFault e m (granule pa) detect))
    | .pass =>
      let m1 := setSide m (granule pa) (sideOf detect)
      { m1 with hbm := { m1.hbm with
        cells := memWrite m1.hbm.cells (plainOf pa) (glueBytes w (memRead m.hbm.cells (plainOf pa) data.length) data) } }

/-- Granule by granule. -/
def glueSpan (e : Env) (w : Nat) (detect : Bool) : Nat → Nat → List Byte → Mach → Mach
  | 0, _, _, m => m
  | fuel + 1, pa, data, m =>
    if data.isEmpty then m
    else
      let n := 64 - pa % 64
      glueSpan e w detect fuel (pa + n) (data.drop n) (glueGranule e m w pa (data.take n) detect)

/-- R381: the write starts on an element boundary and carries a whole number of elements. -/
def glueAligned (w pa n : Nat) : Bool := pa % glueSize w == 0 && n % glueSize w == 0

/-- R380: an aligned write through glue window `w`. -/
def hbmGlue (e : Env) (m : Mach) (w pa : Nat) (data : List Byte) (detect : Bool) : Mach :=
  glueSpan e w detect (data.length / 64 + 2) pa data m

/-- A write through any window: plain in window 0, a glue operation in windows 1 to 5. -/
def physWrite (e : Env) (m : Mach) (pa : Nat) (data : List Byte) (detect : Bool) : Mach :=
  if winOf pa = 0 then hbmWrite e m pa data detect else hbmGlue e m (winOf pa) pa data detect

/-! ### Host-die memory -/

def hostRead (m : Mach) (a n : Nat) : List Byte := memRead m.host.mem a n

def hostWrite (m : Mach) (a : Nat) (data : List Byte) : Mach :=
  { m with host := { m.host with mem := memWrite m.host.mem a data } }

end Sys2Proof.Machine
end

