-- ==== Sys2Proof/Machine/Flags.lean ====
section
/-! DEFINITION. The words the device writes: status words, state objects, images and records, bit by bit. -/

namespace Sys2Proof.Machine

/-- R127: the parts of a tile status word. -/
structure StatusBits where
  done : Bool := false
  sat : Bool := false
  inexact : Bool := false
  nonfinite : Bool := false
  abandoned : Bool := false
  resumed : Bool := false
  late : Bool := false
  foldLog2 : Nat := 0
  stamp : Nat := 0
  deriving DecidableEq, Repr, Inhabited

/-- R127: the status word; FOLDED is 1 when FOLD_LOG2 is not 0. -/
def statusWord (b : StatusBits) : Nat :=
  bit b.done + 2 * bit b.sat + 4 * bit b.inexact + 8 * bit b.nonfinite + 16 * bit b.abandoned + 32 * bit b.resumed +
    64 * bit b.late + 128 * bit (b.foldLog2 != 0) + 256 * (b.foldLog2 % 16) + 65536 * (b.stamp % 65536)

/-- R307: the state's number. -/
def CState.code : CState → Nat
  | .free => 0
  | .idle => 1
  | .ready => 2
  | .running => 3
  | .waiting => 4
  | .saved => 5
  | .faultWait => 6
  | .faulted => 7

/-- R308: the cause's number. -/
def Cause.code : Cause → Nat
  | .none => 0
  | .clamp => 1
  | .rail => 2
  | .buffer => 3
  | .unit => 4
  | .boundary => 5
  | .plan => 6
  | .idleFence => 7
  | .fault => 8

/-- R308: the state object. -/
def stateObject (x : Ctx) : Nat :=
  x.state.code + 16 * x.cause.code + 256 * bit x.serving + 512 * x.priority + 65536 * (x.stamp % 65536)

/-- R331: the image of a clamp. -/
def clampImage (x : Clamp) : List Byte :=
  let st := match x.state with | .free => 0 | .owned => 1 | .broken => 2
  let ow := if x.state = .free then 255 else x.owner
  let ws := x.waiters.foldl (fun a w => a ||| 2 ^ w.ctx) 0
  leBytes 8 x.counter ++ leBytes 1 st ++ leBytes 1 ow ++ leBytes 2 ws ++ leBytes 4 0

/-- R287: a handle in its 64 bits. -/
def handleWord (h : Handle) : Nat :=
  h.buffer % 256 + 256 * (h.length % 2 ^ 21) + 2 ^ 29 * bit h.last + 2 ^ 30 * bit h.cancelled + 2 ^ 31 * bit h.poisoned +
    2 ^ 32 * h.tag.toNat

/-- R287: the handle of a word. -/
def handleOf (x : Nat) : Handle :=
  { buffer := natBits x 7 0, length := natBits x 28 8, last := natBit x 29, cancelled := natBit x 30, poisoned := natBit x 31,
    tag := BitVec.ofNat 32 (natBits x 63 32) }

/-- R529: a code in 16 bits. -/
def FaultRec.codeWord (r : FaultRec) : Nat := 256 * r.family + r.code

/-- R527: the 32 bytes of a fault record. -/
def faultBytes (r : FaultRec) : List Byte :=
  leBytes 2 r.codeWord ++ leBytes 1 r.core ++ leBytes 1 r.ctx ++ leBytes 4 r.detail ++ leBytes 8 r.stroke ++
    leBytes 8 r.addr ++ leBytes 4 r.seq ++ leBytes 2 r.device ++ leBytes 1 r.level ++ leBytes 1 r.flags

/-- R442: the 32 bytes of a completion record with its PHASE. -/
def completionBytes (r : Completion) (phase : Nat) : List Byte :=
  leBytes 1 r.kind ++ leBytes 1 r.status ++ leBytes 1 phase ++ leBytes 1 r.ctx ++ leBytes 2 r.core ++ leBytes 2 0 ++
    leBytes 8 r.token ++ leBytes 8 r.stroke ++ leBytes 4 r.detail ++ leBytes 4 0

/-- R387: the detail word of a translation fault. -/
def transDetail (kind : Nat) (wr : Bool) (source level slot : Nat) : Nat :=
  kind % 16 + 16 * bit wr + 32 * (source % 8) + 256 * (level % 4) + 65536 * (slot % 16)

/-- R376: the stack state object. -/
def stackObject (x : Stack) (fenced : Bool) : Nat :=
  let st := if fenced then 3 else if x.pairB ≠ 255 then 2 else if x.pairA ≠ 255 then 1 else 0
  st + 256 * (x.pairA % 256) + 65536 * (x.pairB % 256) + 2 ^ 24 * (x.remapped % 256)

/-- R58: the alignment control word. -/
def alignCtlWord (a : AlignCtl) : Nat :=
  a.mode % 4 + 4 * bit a.driveOut + 8 * bit a.markersOut + 16 * bit a.adoptNumber + 4096 * (a.lossCount % 16)

/-- R58: the control word read from its 32 bits. -/
def alignCtlOf (x : Nat) : AlignCtl :=
  { mode := natBits x 1 0, driveOut := natBit x 2, markersOut := natBit x 3, adoptNumber := natBit x 4,
    lossCount := natBits x 15 12 }

/-- R59: the alignment status word. -/
def alignStatusWord (k : Strokes) : Nat :=
  k.alignState % 4 + 4 * bit k.numberAhead + 8 * bit k.periodMismatch + 16 * bit k.secondClock + 32 * bit k.numberBehind +
    256 * (k.hops % 32)

end Sys2Proof.Machine
end

