-- ==== Sys2Proof/Machine/Completion.lean ====
section
/-! DEFINITION. Completion records, their rings and their interrupts (R442 to R444). -/

namespace Sys2Proof.Machine

def Mach.compRing (m : Mach) (r : Nat) : CompRing := spGet CompRing.reset m.host.comps r

def Mach.setComp (m : Mach) (r : Nat) (x : CompRing) : Mach :=
  { m with host := { m.host with comps := spSet m.host.comps r x } }

/-- R443: the ring may be written. -/
def CompRing.writable (x : CompRing) : Bool :=
  decide (x.base ≠ 0) && decide (diff32 x.head.toNat x.tail.toNat < 2 ^ x.sizeLog2)

/-- R444: the ring's vector is due on endpoint `ep`. -/
def ringVector (m : Mach) (r ep : Nat) : Mach :=
  let x := m.compRing r
  if x.vector = 0 then m
  else if ep = 0 then
    if x.running0 then m.setComp r { x with held0 := true }
    else pushMsix (m.setComp r { x with running0 := decide (x.moderation ≠ 0) }) 0 x.vector
  else
    if x.running1 then m.setComp r { x with held1 := true }
    else pushMsix (m.setComp r { x with running1 := decide (x.moderation ≠ 0) }) 1 x.vector

/-- R442: write one record at TAIL; PHASE is 1 on the first pass and flips on every pass. -/
def writeCompletion (m : Mach) (r : Nat) (c : Completion) : Mach :=
  let x := m.compRing r
  let t := x.tail.toNat
  let phase := 1 - t / 2 ^ x.sizeLog2 % 2
  let m1 := hostWrite m (x.base + 32 * (t % 2 ^ x.sizeLog2)) (completionBytes c phase)
  ringVector (m1.setComp r { x with tail := x.tail + 1 }) r (dieOf c.core)

/-- R443: a record is written, waits in the ring's store of 1,024, or is lost. -/
def pushCompletion (e : Env) (m : Mach) (r : Nat) (c : Completion) : Mach :=
  let x := m.compRing r
  if x.store.isEmpty && x.writable then writeCompletion m r c
  else if x.store.length < 1024 then m.setComp r { x with store := x.store ++ [c] }
  else
    let m1 := m.setComp r { x with lost := x.lost + 1, saidLost := true }
    if x.saidLost then m1
    else raiseFault m1 (dieOf c.core) (mkFault e m (dieOf c.core) famHost 0x16 0)

/-- R443: waiting records are written in order as far as the ring has room. -/
def drainStore (r : Nat) : Nat → Mach → Mach
  | 0, m => m
  | n + 1, m =>
    let x := m.compRing r
    match x.store with
    | [] => m
    | c :: cs => if x.writable then drainStore r n (writeCompletion (m.setComp r { x with store := cs }) r c) else m

/-- The record of an ACTION that ends, in the ring that COMP named when it was written (R434). -/
def actionCode : Action → Nat
  | .preempt => 1
  | .release => 2
  | .cancel => 3
  | .kill => 4
  | .reset => 5
  | .resume => 6

def actionRecord (e : Env) (m : Mach) (c k ring status code : Nat) : Mach :=
  pushCompletion e m ring
    { kind := 4, status := status, ctx := k, core := c, token := 0, stroke := strokeAt e.k (dieOf c), detail := code }

/-- R434: the pending action of a context completes. -/
def finishAction (e : Env) (m : Mach) (c k status : Nat) : Mach :=
  match (m.ctx c k).pendAction with
  | none => m
  | some (a, ring) =>
    actionRecord e (m.modCtx c k (fun x => { x with pendAction := none })) c k ring status (actionCode a)

/-- R442: the STREAM record of a batch context's running stream. -/
def streamRecord (e : Env) (m : Mach) (c k status : Nat) : Mach :=
  let x := m.ctx c k
  pushCompletion e m x.comp
    { kind := 1, status := status, ctx := k, core := c, token := x.token, stroke := strokeAt e.k (dieOf c),
      detail := x.pos % 2 ^ 32 }

def Mach.intake (m : Mach) (i : Nat) : Intake := spGet Intake.reset m.host.intakes i

def Mach.modIntake (m : Mach) (i : Nat) (f : Intake → Intake) : Mach :=
  { m with host := { m.host with intakes := spMod Intake.reset m.host.intakes i f } }

/-- R442: the first status that applies, in the order FAULTED, LATE_DROPPED, POISONED, LATE, ON_TIME. -/
def requestStatus (faulted dropped poisoned late : Bool) : Nat :=
  if faulted then 3 else if dropped then 2 else if poisoned then 4 else if late then 1 else 0

def requestRecords (e : Env) (c k ring : Nat) (faulted dropped late : Bool) : List Request → Mach → Mach
  | [], m => m
  | q :: qs, m =>
    requestRecords e c k ring faulted dropped late qs
      (pushCompletion e m (m.intake ring).desc.comp
        { kind := 2, status := requestStatus faulted dropped q.poisoned late, ctx := k, core := c, token := q.token,
          stroke := strokeAt e.k (dieOf c), detail := ring })

/-- R438, R441, R541: one REQUEST record per request of the work of a serving context that ends. -/
def finishRequests (e : Env) (m : Mach) (c k : Nat) (faulted dropped : Bool) : Mach :=
  let x := m.ctx c k
  let m1 := requestRecords e c k x.workRing faulted dropped x.late x.requests m
  let m2 := if dropped then
      m1.modIntake x.workRing (fun i => { i with dropped := i.dropped + BitVec.ofNat 64 x.requests.length })
    else m1
  m2.modCtx c k (fun y => { y with requests := [] })

/-- R52, R541: work that has not started ends; the requests of one whose copy still runs follow at its end (R440). -/
def endComingOne (e : Env) (c k : Nat) (dropped : Bool) (m : Mach) (w : Work) : Mach :=
  if w.ready then
    let m1 := requestRecords e c k w.ring (!dropped) dropped w.late w.requests m
    if dropped then m1.modIntake w.ring (fun i => { i with dropped := i.dropped + BitVec.ofNat 64 w.requests.length }) else m1
  else
    m.modIntake w.ring (fun i => { i with copies := i.copies.map (fun y =>
      if y.core = c ∧ y.ctx = k ∧ y.stroke = w.stroke then { y with ended := if dropped then 2 else 1 } else y) })

/-- All of a context's work to come ends, or its late work to come is dropped. -/
def endComing (e : Env) (m : Mach) (c k : Nat) (dropped : Bool) : Mach :=
  let gone := (m.ctx c k).coming.filter (fun w => !dropped || w.late)
  let m1 := m.modCtx c k (fun y => { y with coming := y.coming.filter (fun w => !(!dropped || w.late)) })
  gone.foldl (endComingOne e c k dropped) m1

end Sys2Proof.Machine
end

