-- ==== Sys2Proof/Machine/Clamps.lean ====
section
/-! DEFINITION. Context states and clamps: signals on their way, their arrival, waking waiters (R307 to R309, R329 to
R337). -/

namespace Sys2Proof.Machine

/-! ### Context states -/

/-- R308, R309: a state with its cause; a change of state is stamped, and a wait notes the stroke in which it began. -/
def setState (e : Env) (m : Mach) (c k : Nat) (st : CState) (cause : Cause) (detail : Nat) : Mach :=
  let now := strokeAt e.k (dieOf c)
  m.modCtx c k (fun x =>
    { x with state := st, cause := cause, causeDetail := detail,
             stamp := if x.state = st then x.stamp else now % 65536,
             since := if st = .waiting ∧ x.state ≠ .waiting then now else x.since })

/-- R308: the cause a SAVED context shows once its pending wait is met. -/
def savedCause (x : Ctx) : Cause := if x.fault.isSome then .fault else .none

/-- R309, R314, R325: a context's cause is met. One whose pre-emption is in progress keeps its state and cause until it is SAVED. -/
def wakeCtx (e : Env) (m : Mach) (c k : Nat) : Mach :=
  let x := m.ctx c k
  if !x.saving.isEmpty then m.modCtx c k (fun y => { y with met := true })
  else
  match x.state with
  | .waiting => setState e m c k .ready .none 0
  | .saved => setState e m c k .saved (savedCause x) 0
  | _ => m

/-- The contexts of a core that wait with a cause, SAVED ones included. -/
def waitersOf (m : Mach) (c : Nat) (cause : Cause) : List Nat :=
  (List.range 16).filter (fun k =>
    ((m.ctx c k).state == .waiting || (m.ctx c k).state == .saved) && (m.ctx c k).cause == cause)

/-- Wake every context of a list. -/
def wakeAll (e : Env) (c : Nat) : List Nat → Mach → Mach
  | [], m => m
  | k :: ks, m => wakeAll e c ks (wakeCtx e m c k)

/-! ### Signals -/

/-- R333: a signal leaves its sender. -/
def sendSignal (m : Mach) (s : Sig) : Mach := { m with signals := m.signals ++ [s] }

/-- R332, R564: an engine's completion signal adds 1. -/
def engineSignal (m : Mach) (c : Nat) (en : Engine) (on : Bool) (core idx : Nat) : Mach :=
  if on then sendSignal m { sender := .engine c en, core := core, index := idx, value := 1 } else m

/-- R332: the largest counter. -/
def clampMax : Nat := 2 ^ 64 - 2

/-- R326: after the last command of a body the innermost loop goes back to its start or ends. -/
def loopBack : Nat → List LoopLevel → Nat → Nat × List LoopLevel
  | 0, ls, p => (p, ls)
  | fuel + 1, ls, p =>
    match ls.getLast? with
    | none => (p, ls)
    | some l =>
      if p < l.stop then (p, ls)
      else if 1 < l.remaining then (l.start, ls.dropLast ++ [{ l with remaining := l.remaining - 1 }])
      else loopBack fuel ls.dropLast p

/-- The command at POSITION has been executed; issue goes on at `p`. -/
def Ctx.advanceTo (x : Ctx) (p : Nat) : Ctx :=
  let r := loopBack 5 x.loops p
  { x with pos := r.1, half := false, loops := r.2, waitCmd := none }

/-- R335: the waiters in the order in which their waits began: who wakes, who stays, and the counter left. -/
def wakeList : Nat → List Waiter → List Waiter × List Waiter × Nat
  | cnt, [] => ([], [], cnt)
  | cnt, w :: ws =>
    if w.value ≤ cnt then
      let r := wakeList (if w.consume then cnt - w.value else cnt) ws
      (w :: r.1, r.2.1, r.2.2)
    else
      let r := wakeList cnt ws
      (r.1, w :: r.2.1, r.2.2)

/-- The wait of a woken context has completed. -/
def endClampWait (e : Env) (c : Nat) : List Waiter → Mach → Mach
  | [], m => m
  | w :: ws, m => endClampWait e c ws (wakeCtx e (m.modCtx c w.ctx (fun x => x.advanceTo (x.pos + 1))) c w.ctx)

/-- R335: check the waiters of an OWNED clamp against its counter. -/
def checkWaiters (e : Env) (m : Mach) (c i : Nat) : Mach :=
  let x := m.clamp c i
  let r := wakeList x.counter x.waiters
  endClampWait e c r.1 (m.modClamp c i (fun y => { y with waiters := r.2.1, counter := r.2.2 }))

/-- R332, R536: a signal is discarded and counted in 0x0600.42. -/
def loseSignal (m : Mach) : Mach := { m with signalsLost := m.signalsLost + 1 }

/-- R332, R335: a signal reaches clamp `i` of core `c`. -/
def landSignal (e : Env) (m : Mach) (c i v : Nat) : Mach :=
  if !coreIn e m c then loseSignal m
  else
    match (m.clamp c i).state with
    | .owned =>
      checkWaiters e (m.modClamp c i (fun y => { y with counter := min (y.counter + v) clampMax })) c i
    | _ => loseSignal m

/-- R334: the oldest signal on its way from a sender to a clamp, taken out. -/
def takeSignal (snd : Sender) (c i : Nat) : List Sig → Option Sig × List Sig
  | [] => (none, [])
  | s :: ss =>
    if s.sender = snd ∧ s.core = c ∧ s.index = i then (some s, ss)
    else
      let r := takeSignal snd c i ss
      (r.1, s :: r.2)

/-- R335: a context leaves the waiter sets of its core. -/
def leaveWaits (m : Mach) (c k : Nat) : Mach :=
  m.modCore c (fun x =>
    { x with clamps := x.clamps.map (fun p => (p.1, { p.2 with waiters := p.2.waiters.filter (fun w => w.ctx != k) })) })

/-- R336: the clamps a context owns become BROKEN: the new state and the contexts whose waits wake on them, which fault. -/
def breakClamps (m : Mach) (c k : Nat) : Mach × List Nat :=
  let mine := (m.core c).clamps.filter (fun p => p.2.state == .owned && p.2.owner == k)
  let ws := mine.flatMap (fun p => p.2.waiters.map (fun w => w.ctx))
  let m1 := m.modCore c (fun x =>
    { x with clamps := x.clamps.map (fun p =>
        if p.2.state == .owned && p.2.owner == k then (p.1, { p.2 with state := .broken, waiters := [] }) else p) })
  (m1, ws)

end Sys2Proof.Machine
end

