-- ==== Sys2Proof/Machine/Translate.lean ====
section
/-! DEFINITION. Translation: page-table walks, translation buffers, the kinds of translation fault (R345 to R353, R386). -/

namespace Sys2Proof.Machine

/-- What a translation answers: an address with its attribute, a translation fault by kind and level (R386, R387), or the
refusal of a glue leaf on an S part (R385), the aperture (R404), or an address of more than 52 bits (R34). -/
inductive Trans where
  | beyond
  | ok (pa : Nat) (detect : Bool)
  | fault (kind level : Nat)
  | absent
  | aperture
  deriving DecidableEq, Repr, Inhabited

/-- R403: an address in the fabric aperture, which the walker never walks. -/
def isAperture (va : Nat) : Bool := natBits va 51 48 == 15

/-- R345: the root table of a core's die. -/
def rootOf (m : Mach) (c : Nat) : Nat := if dieOf c = 0 then m.hbm.root0 else m.hbm.root1

/-- R372: the frame is a relief frame of a stack with a fenced pair: its data is lost. -/
def reliefLost (m : Mach) (a : Nat) : Bool :=
  (m.stack (stackOf a)).pairA != 255 && decide (firstRelief ≤ offOf a / 2 ^ 21)

/-- R349: a table entry read as PROTECT; none when its granule fails its check. An entry in a lost relief frame has a free value
(R372), and one on the stacks of a fenced region is read as if they were in service (R386 names the leaf's frame only; the model's
choice; notes/assumptions/63). -/
def walkRead (m : Mach) (a : Nat) : Mach × Option Nat :=
  if reliefLost m a then (freeStep m, some (freeNow m % 2 ^ 64))
  else
  match checkGranule m (granule a) false with
  | .pass => (m, some (memNat m.hbm.cells (plainOf a) 8))
  | .poison => (m, none)
  | .bad => (poisonGranule m (granule a), none)

/-- R347, R348: reserved bits of an entry. -/
def pteReserved (x : Nat) : Bool := natBits x 11 4 != 0 || natBits x 63 44 != 0

/-- R347: the address field. -/
def pteAddr (x : Nat) : Nat := natBits x 43 12 * 4096

/-- R347, R348: a pointer to a table of 4 KiB in window 0. -/
def badTable (x : Nat) : Bool := pteReserved x || natBit x 1 || decide (winOf (pteAddr x) ≠ 0)

/-- R348: a 1 GiB leaf that breaks a rule. -/
def badGiant (x : Nat) : Bool :=
  pteReserved x || natBits x 29 12 != 0 || decide (5 < winOf (pteAddr x)) ||
    decide (framesPerStack * 2 ^ 21 < offOf (pteAddr x) + 2 ^ 30)

/-- R347: a 2 MiB leaf that breaks a rule. -/
def badLeaf (x : Nat) : Bool := pteReserved x || !natBit x 1 || natBits x 20 12 != 0

/-- A 1 GiB leaf contains a withdrawn frame (R372). -/
def giantWithdrawn (m : Mach) (pa : Nat) : Bool :=
  let f := offOf pa / 2 ^ 21
  frameWithdrawn m (stackOf pa) f || m.hbm.withdrawn.any (fun q => q.1 == stackOf pa && decide (f ≤ q.2) && decide (q.2 < f + 512)) ||
    ((m.stack (stackOf pa)).pairA != 255 && decide (firstRelief < f + 512))

/-- R344: a 2 MiB frame that no translation may name. -/
def reservedFrame (pa : Nat) : Bool := decide (5 < winOf pa) || !populated (offOf pa)

/-- A leaf found by a walk or in the translation buffer: its checks at every use (R344, R353, R372, R374, R385). -/
def useLeaf (e : Env) (m : Mach) (giant wr : Bool) (frame va : Nat) (writable detect : Bool) : Trans :=
  let lv := if giant then 2 else 3
  let pa := frame + va % (if giant then 2 ^ 30 else 2 ^ 21)
  if !giant && reservedFrame frame then .fault 6 lv
  else if winOf frame ≠ 0 ∧ ¬ e.v.train then .absent
  else if (if giant then giantWithdrawn m frame else frameWithdrawn m (stackOf frame) (offOf frame / 2 ^ 21)) then .fault 5 lv
  else if wr && !writable then .fault 2 lv
  else .ok pa detect

/-- A leaf with its size, or the fault of the walk. -/
inductive Leaf where
  | leaf (giant : Bool) (frame : Nat) (writable detect : Bool)
  | fault (kind level : Nat)
  deriving DecidableEq, Repr, Inhabited

/-- R346 to R349: the walk of a 52-bit address from a root. -/
def walk (m : Mach) (root va : Nat) : Mach × Leaf :=
  if root = 0 then (m, .fault 1 1)
  else
    match walkRead m (root + 8 * natBits va 51 39) with
    | (m1, none) => (m1, .fault 4 1)
    | (m1, some x1) =>
      if !natBit x1 0 then (m1, .fault 1 1)
      else if badTable x1 then (m1, .fault 3 1)
      else
        match walkRead m1 (pteAddr x1 + 8 * natBits va 38 30) with
        | (m2, none) => (m2, .fault 4 2)
        | (m2, some x2) =>
          if !natBit x2 0 then (m2, .fault 1 2)
          else if natBit x2 1 then
            if badGiant x2 then (m2, .fault 3 2) else (m2, .leaf true (pteAddr x2) (natBit x2 2) (natBit x2 3))
          else if badTable x2 then (m2, .fault 3 2)
          else
            match walkRead m2 (pteAddr x2 + 8 * natBits va 29 21) with
            | (m3, none) => (m3, .fault 4 3)
            | (m3, some x3) =>
              if !natBit x3 0 then (m3, .fault 1 3)
              else if badLeaf x3 then (m3, .fault 3 3)
              else (m3, .leaf false (pteAddr x3) (natBit x3 2) (natBit x3 3))

/-- R350: an entry becomes the most recently used one, and the buffer keeps `n`. -/
def tlbTouch (n : Nat) (t : List TlbEntry) (x : TlbEntry) : List TlbEntry :=
  (x :: t.filter (fun y => y.page != x.page)).take n

/-- R350: translate an access of core `c` through its translation buffer, walking on a miss. -/
def translate (e : Env) (m : Mach) (c va : Nat) (wr : Bool) : Mach × Trans :=
  let x := m.core c
  let v := va % 2 ^ 52
  if 2 ^ 52 ≤ va then (m, .beyond)
  else if isAperture v then (m, .aperture)
  else
  match x.tlb1.find? (fun t => t.page == v / 2 ^ 30) with
  | some t =>
    (m.setCore c { x with tlb1 := tlbTouch 64 x.tlb1 t }, useLeaf e m true wr t.frame v t.write t.detect)
  | none =>
    match x.tlb2.find? (fun t => t.page == v / 2 ^ 21) with
    | some t =>
      (m.setCore c { x with tlb2 := tlbTouch 1024 x.tlb2 t }, useLeaf e m false wr t.frame v t.write t.detect)
    | none =>
      match walk m (rootOf m c) v with
      | (m1, .fault k l) => (m1, .fault k l)
      | (m1, .leaf true f w d) =>
        (m1.modCore c (fun y => { y with tlb1 := tlbTouch 64 y.tlb1 ⟨v / 2 ^ 30, f, w, d⟩ }),
          useLeaf e m1 true wr f v w d)
      | (m1, .leaf false f w d) =>
        (m1.modCore c (fun y => { y with tlb2 := tlbTouch 1024 y.tlb2 ⟨v / 2 ^ 21, f, w, d⟩ }),
          useLeaf e m1 false wr f v w d)

/-- What a read of device memory by an engine answers: bytes with their poison, or the fault that stopped it and its
address. -/
inductive Got where
  | ok (data : List Byte) (poison : Bool)
  | fault (kind level va : Nat)
  | absent
  | aperture (va : Nat)
  | beyond
  deriving DecidableEq, Repr, Inhabited

/-- The bytes from `va` up to its page's end, at 2 MiB granularity. -/
def pageRest (va : Nat) : Nat := 2 ^ 21 - va % 2 ^ 21

/-- Read `n` bytes at a device virtual address, page by page; `fuel` bounds the pages. -/
def vreadGo (e : Env) (c : Nat) : Nat → Nat → Nat → Mach → Mach × Got
  | 0, _, _, m => (m, .ok [] false)
  | fuel + 1, va, n, m =>
    if n = 0 then (m, .ok [] false)
    else
      match translate e m c va false with
      | (m1, .fault k l) => (m1, .fault k l va)
      | (m1, .absent) => (m1, .absent)
      | (m1, .aperture) => (m1, .aperture va)
      | (m1, .beyond) => (m1, .beyond)
      | (m1, .ok pa d) =>
        let k := min n (pageRest va)
        let r := hbmRead e m1 pa k d
        match vreadGo e c fuel (va + k) (n - k) r.1 with
        | (m2, .ok bs p) => (m2, .ok (r.2.1 ++ bs) (r.2.2 || p))
        | other => other

def vread (e : Env) (m : Mach) (c va n : Nat) : Mach × Got := vreadGo e c (n / 2 ^ 21 + 2) va n m

/-- What a write answers. -/
inductive Put where
  | done
  | fault (kind level va : Nat)
  | absent
  | align (va : Nat)
  | aperture (va : Nat)
  | beyond
  deriving DecidableEq, Repr, Inhabited

/-- Write bytes at a device virtual address, one page's burst at a time: each burst is translated whole before any of it
applies (R388), and a misaligned glue burst applies no element (R381). -/
def vwriteGo (e : Env) (c : Nat) : Nat → Nat → List Byte → Mach → Mach × Put
  | 0, _, _, m => (m, .done)
  | fuel + 1, va, data, m =>
    if data.isEmpty then (m, .done)
    else
      match translate e m c va true with
      | (m1, .fault k l) => (m1, .fault k l va)
      | (m1, .absent) => (m1, .absent)
      | (m1, .aperture) => (m1, .aperture va)
      | (m1, .beyond) => (m1, .beyond)
      | (m1, .ok pa d) =>
        let k := min data.length (pageRest va)
        if winOf pa ≠ 0 ∧ ¬ glueAligned (winOf pa) pa k then (m1, .align va)
        else vwriteGo e c fuel (va + k) (data.drop k) (physWrite e m1 pa (data.take k) d)

def vwrite (e : Env) (m : Mach) (c va : Nat) (data : List Byte) : Mach × Put :=
  vwriteGo e c (data.length / 2 ^ 21 + 2) va data m

/-- A translation by the device itself from the root of die `d`, without a translation buffer (R405). -/
def deviceTranslate (e : Env) (m : Mach) (d va : Nat) (wr : Bool) : Mach × Trans :=
  let v := va % 2 ^ 52
  if 2 ^ 52 ≤ va then (m, .beyond)
  else if isAperture v then (m, .aperture)
  else
    match walk m (if d = 0 then m.hbm.root0 else m.hbm.root1) v with
    | (m1, .fault k l) => (m1, .fault k l)
    | (m1, .leaf g f w dt) => (m1, useLeaf e m1 g wr f v w dt)

/-- R405: the device itself reads `n` bytes that lie in one page. -/
def deviceRead (e : Env) (m : Mach) (d va n : Nat) : Mach × Option (List Byte × Bool) :=
  match deviceTranslate e m d va false with
  | (m1, .ok pa dt) =>
    let r := hbmRead e m1 pa n dt
    (r.1, some (r.2.1, r.2.2))
  | (m1, _) => (m1, none)

/-- R405: the device itself writes bytes page by page; false when it cannot. -/
def deviceWriteGo (e : Env) (d : Nat) : Nat → Nat → List Byte → Mach → Mach × Bool
  | 0, _, _, m => (m, true)
  | fuel + 1, va, data, m =>
    if data.isEmpty then (m, true)
    else
      match deviceTranslate e m d va true with
      | (m1, .ok pa dt) =>
        let k := min data.length (pageRest va)
        if winOf pa ≠ 0 ∧ ¬ glueAligned (winOf pa) pa k then (m1, false)
        else deviceWriteGo e d fuel (va + k) (data.drop k) (physWrite e m1 pa (data.take k) dt)
      | (m1, _) => (m1, false)

def deviceWrite (e : Env) (m : Mach) (d va : Nat) (data : List Byte) : Mach × Bool :=
  deviceWriteGo e d (data.length / 2 ^ 21 + 2) va data m

end Sys2Proof.Machine
end

