-- ==== Sys2Proof/Machine/Drawer.lean ====
section
/-! DEFINITION. The drawer cache and its side buffer (R358 to R363). -/

namespace Sys2Proof.Machine

/-- R359: the set of a 128-byte line. -/
def drawerSet (line : Nat) : Nat := line % 256

/-- R362: a dirty line goes back to memory. -/
def writeBackLine (e : Env) (m : Mach) (l : CacheLine) : Mach :=
  if l.dirty then hbmWrite e m (128 * l.line) l.data l.detect else m

def writeBackAll (e : Env) : List CacheLine → Mach → Mach
  | [], m => m
  | l :: ls, m => writeBackAll e ls (writeBackLine e m l)

/-- R359: put a line in front; the least recently used way beyond eight of its set leaves, written back when dirty. -/
def insertLine (e : Env) (m : Mach) (c : Nat) (l : CacheLine) : Mach :=
  let old := (m.core c).drawer.filter (fun x => x.line != l.line)
  let same := old.filter (fun x => drawerSet x.line == drawerSet l.line)
  let out := same.drop 7
  let kept := old.filter (fun x => !(out.any (fun y => y.line == x.line)))
  writeBackAll e out (m.modCore c (fun x => { x with drawer := l :: kept }))

/-- R359, R360: the line of a physical address through the cache: a hit, a move from the side buffer, or a fill. -/
def drawerLine (e : Env) (m : Mach) (c pa : Nat) (detect : Bool) : Mach × CacheLine × Bool :=
  let n := plainOf pa / 128
  match (m.core c).drawer.find? (fun x => x.line == n) with
  | some l => (insertLine e m c l, l, false)
  | none =>
    match (m.core c).side.find? (fun x => x.line == n) with
    | some l =>
      (insertLine e (m.modCore c (fun x => { x with side := x.side.filter (fun y => y.line != n) })) c l, l, false)
    | none =>
      let r := hbmRead e m (128 * n) 128 detect
      let l : CacheLine := { line := n, data := r.2.1, dirty := false, owner := 255, detect := detect }
      if r.2.2 then (r.1, l, true) else (insertLine e r.1 c l, l, false)

/-- Read `n` bytes at a device virtual address through the cache. Bytes of a poisoned line are delivered as all ones
(notes/assumptions/14). -/
def drawerReadGo (e : Env) (c : Nat) : Nat → Nat → Nat → Mach → Mach × Got
  | 0, _, _, m => (m, .ok [] false)
  | fuel + 1, va, n, m =>
    if n = 0 then (m, .ok [] false)
    else
      match translate e m c va false with
      | (m1, .fault k l) => (m1, .fault k l va)
      | (m1, .absent) => (m1, .absent)
      | (m1, .aperture) => (m1, .aperture va)
      | (m1, .beyond) => (m1, .beyond)
      | (m1, .ok pa d) =>
        let k := min n (128 - pa % 128)
        let r := drawerLine e m1 c pa d
        let bytes := if r.2.2 then List.replicate k 0xFF#8 else (r.2.1.data.drop (pa % 128)).take k
        match drawerReadGo e c fuel (va + k) (n - k) r.1 with
        | (m2, .ok bs p) => (m2, .ok (bytes ++ bs) (r.2.2 || p))
        | other => other

def drawerRead (e : Env) (m : Mach) (c va n : Nat) : Mach × Got := drawerReadGo e c (n / 128 + 2) va n m

/-- R359, R362: an `APPLY` of context `k` writes bytes inside one line, which becomes dirty. -/
def drawerWrite (e : Env) (m : Mach) (c k pa : Nat) (detect : Bool) (data : List Byte) : Mach :=
  let r := drawerLine e m c pa detect
  let o := pa % 128
  insertLine e r.1 c
    { r.2.1 with data := r.2.1.data.take o ++ data ++ r.2.1.data.drop (o + data.length), dirty := true, owner := k }

/-- The lines of physical memory beneath `bytes` bytes at a device virtual address, as core `c` sees them: a range per page that is
mapped. -/
def lineSpans (e : Env) (m : Mach) (c base bytes : Nat) : List (Nat × Nat) :=
  ((List.range (bytes / 2 ^ 21 + 2)).map (fun i => base / 2 ^ 21 + i)).filterMap (fun p =>
    let lo := max base (p * 2 ^ 21)
    let hi := min (base + bytes) (p * 2 ^ 21 + 2 ^ 21)
    match (deviceTranslate e m (dieOf c) lo false).2 with
    | .ok pa _ => if lo < hi then some (plainOf pa, hi - lo) else none
    | _ => none)

def CacheLine.inSpans (l : CacheLine) (spans : List (Nat × Nat)) : Bool :=
  spans.any (fun s => overlaps s.1 s.2 (128 * l.line) 128)

/-- R361: the clean lines of a command stream's address range leave the cache and the side buffer. -/
def dropStreamLines (e : Env) (m : Mach) (c base bytes : Nat) : Mach :=
  let spans := lineSpans e m c base bytes
  let gone (l : CacheLine) : Bool := !l.dirty && l.inSpans spans
  m.modCore c (fun x => { x with drawer := x.drawer.filter (fun l => !gone l), side := x.side.filter (fun l => !gone l) })

/-- R362: write back and leave the cache every line that context `k` has made dirty, and every line of the pages that its state
array has been read from: the array starts at `base`, and `span` bytes of it have been reached. -/
def flushOwner (e : Env) (m : Mach) (c k base span : Nat) : Mach :=
  let spans := if span = 0 then [] else lineSpans e m c base span
  let mine (x : CacheLine) : Bool := (x.dirty && x.owner == k) || x.inSpans spans
  let ls := (m.core c).drawer.filter mine
  (writeBackAll e ls m).modCore c (fun x => { x with drawer := x.drawer.filter (fun y => !mine y) })

/-- R42 step 6, R361: dirty lines go back, and the cache and the side buffer are emptied. -/
def flushDrawer (e : Env) (m : Mach) (c : Nat) : Mach :=
  (writeBackAll e (m.core c).drawer m).modCore c (fun x => { x with drawer := [], side := [] })

end Sys2Proof.Machine
end

