-- ==== Sys2Proof/Machine/Buffers.lean ====
section
/-! DEFINITION. Buffer pools, rails and their handles (R286 to R293, R301, R302). -/

namespace Sys2Proof.Machine

/-- R288: the buffers a rail holds. -/
def heldBy (p : Pool) (r : Nat) : Nat := (p.used.filter (fun u => u.2 == r)).length

/-- R288: the rails bound to a pool of a core. -/
def railsOf (m : Mach) (c p : Nat) : List (Nat × Rail) :=
  (m.core c).rails.filter (fun q => q.2.consumer.isSome && q.2.pool == p)

/-- R288: the unmet floors of the pool's rails other than `r`. -/
def unmetFloors (m : Mach) (c p r : Nat) : Nat :=
  (((railsOf m c p).filter (fun q => q.1 != r)).map (fun q => q.2.floor - heldBy (m.pool c p) q.1)).sum

def freeBuffers (p : Pool) : Nat := p.count - p.used.length

/-- R288: a producer of rail `r` may take a buffer. -/
def mayTake (m : Mach) (c r : Nat) : Bool :=
  let p := (m.rail c r).pool
  decide (unmetFloors m c p r < freeBuffers (m.pool c p))

/-- R288: the lowest-numbered free buffer. -/
def lowestFree (p : Pool) : Nat :=
  ((List.range p.count).find? (fun b => !(p.used.any (fun u => u.1 == b)))).getD 0

/-- R288: rail `r` takes the lowest-numbered free buffer. -/
def takeBuffer (m : Mach) (c r : Nat) : Mach × Nat :=
  let p := (m.rail c r).pool
  let b := lowestFree (m.pool c p)
  (m.modPool c p (fun x => { x with used := x.used ++ [(b, r)] }), b)

/-- R287: the tray address of a buffer. -/
def bufferAddr (p : Pool) (b : Nat) : Nat := p.base + b * 2 ^ p.sizeLog2

/-- The buffer returns to the pool of rail `r`. -/
def freeBuffer (m : Mach) (c r b : Nat) : Mach :=
  m.modPool c (m.rail c r).pool (fun x => { x with used := x.used.filter (fun u => !(u.1 == b && u.2 == r)) })

/-- The streams of a core by slot, those that stand in the save areas of its contexts included (R303). -/
def Core.allStreams (x : Core) : List (Nat × Stream) :=
  x.streams ++ x.ctxs.flatMap (fun k => (k.2.saved.map (fun v => v.streams)).getD [])

/-- Change every stream of a core, saved ones included. -/
def Core.mapStreams (x : Core) (f : Nat → Stream → Stream) : Core :=
  let on (ss : List (Nat × Stream)) : List (Nat × Stream) := ss.map (fun s => (s.1, f s.1 s.2))
  { x with
    streams := on x.streams,
    ctxs := x.ctxs.map (fun k => (k.1, { k.2 with saved := k.2.saved.map (fun v => { v with streams := on v.streams }) })) }

/-- R269: the rail on every target. -/
def stRail (w : Word) : Nat := fld w 92 88

/-- R285: the relay of a stream reads buffer `b` that rail `r` of core `c` holds. -/
def relayReads (s : Stream) (c r b : Nat) (x : Relay) : Bool := stRail s.w == r && x.core == c && x.buffer == b

/-- R285: a chain has still to relay buffer `b` of rail `r` of core `c`. -/
def relayPending (m : Mach) (c r b : Nat) : Bool :=
  m.cores.any (fun p => p.2.allStreams.any (fun s => s.2.relays.any (relayReads s.2 c r b)))

/-- R285: the consumer's release of a buffer that a chain has still to relay. -/
def markReleased (m : Mach) (c r b : Nat) : Mach :=
  { m with cores := m.cores.map (fun p => (p.1, p.2.mapStreams (fun _ s => { s with
      relays := s.relays.map (fun x => if relayReads s c r b x then { x with released := true } else x) }))) }

/-- The contexts that wait for a buffer or a handle of the core become able to go on when they can (R309). -/
def wakeRails (e : Env) (m : Mach) (c : Nat) : Mach :=
  let buf := (waitersOf m c .buffer).filter (fun k => mayTake m c (m.ctx c k).causeDetail)
  let rail := (waitersOf m c .rail).filter (fun k =>
    let r := m.rail c (m.ctx c k).causeDetail
    match (m.ctx c k).waitCmd with
    | some w => if fld w 7 0 = 0x6A then !r.entries.isEmpty else decide (r.entries.length < 64)
    | none => false)
  wakeAll e c (buf ++ rail) m

/-- R288: release a buffer: its credit returns once no relay still reads it. -/
def releaseBuffer (e : Env) (m : Mach) (c r b : Nat) : Mach :=
  if b = 255 then m
  else if relayPending m c r b then markReleased m c r b
  else wakeRails e (freeBuffer m c r b) c

/-- R293: push a handle. -/
def pushHandle (e : Env) (m : Mach) (c r : Nat) (x : Entry) : Mach :=
  wakeRails e (m.modRail c r (fun y => { y with entries := y.entries ++ [x], produced := y.produced + 1 })) c

/-! ### Prefetch accounting (R301, R302) -/

/-- R302: a counter of whole events. -/
def bumpCount (m : Mach) (c sub n : Nat) : Mach :=
  m.modCore c (fun x => { x with prefetch := spMod Counter48.reset x.prefetch sub (fun y => { y with run := (y.run + n) % 2 ^ 64 }) })

/-- R302: a byte counter in units of 256 bytes with its remainder. -/
def bumpBytes (m : Mach) (c sub n : Nat) : Mach :=
  m.modCore c (fun x => { x with prefetch := spMod Counter48.reset x.prefetch sub (fun y =>
    { y with run := (y.run + (y.rest + n) / 256) % 2 ^ 64, rest := (y.rest + n) % 256 }) })

/-- R301: the bucket of a lead time. -/
def leadBucket (n : Nat) : Nat :=
  if n < 256 then 0 else if n < 1024 then 1 else if n < 4096 then 2 else if n < 16384 then 3
  else if n < 65536 then 4 else if n < 262144 then 5 else if n < 1048576 then 6 else 7

/-- Apply a change to the counts of a stream that has not ended, in its slot or in the save area. -/
def modCounts (m : Mach) (o : Nat × Nat × Nat) (f : StreamCounts → StreamCounts) : Mach :=
  m.modCore o.1 (fun x => x.mapStreams (fun n s =>
    if n = o.2.1 ∧ s.gen = o.2.2 then { s with counts := f s.counts } else s))

/-- R301: bytes become useful, counted for the stream and for its core. -/
def addUseful (m : Mach) (o : Nat × Nat × Nat) (n : Nat) : Mach :=
  bumpBytes (modCounts m o (fun x => { x with useful := x.useful + n })) o.1 1 n

def addWasted (m : Mach) (o : Nat × Nat × Nat) (n : Nat) : Mach :=
  bumpBytes (modCounts m o (fun x => { x with wasted := x.wasted + n })) o.1 2 n

def satInc32 (n : Nat) : Nat := min (n + 1) (2 ^ 32 - 1)

/-- R301: a late arrival. -/
def addLate (m : Mach) (o : Nat × Nat × Nat) : Mach :=
  bumpCount (modCounts m o (fun x => { x with latePops := satInc32 x.latePops })) o.1 3 1

/-- R301: an early eviction. -/
def addEvicted (m : Mach) (o : Nat × Nat × Nat) : Mach :=
  bumpCount (modCounts m o (fun x => { x with evicted := satInc32 x.evicted })) o.1 4 1

/-- R301: the lead time of a popped handle. -/
def addLead (m : Mach) (o : Nat × Nat × Nat) (n : Nat) : Mach :=
  let b := leadBucket n
  bumpCount (modCounts m o (fun x =>
    { x with histogram := x.histogram.set b (min (x.histogram.getD b 0 + 1) 65535) })) o.1 (0x10 + b) 1

/-- A handle of the stream with this TAG still stands on some rail, or has still to be relayed. -/
def handleLives (m : Mach) (o : Nat × Nat × Nat) (tag : BitVec 32) : Bool :=
  m.cores.any (fun p =>
    p.2.rails.any (fun r => r.2.entries.any (fun x => x.origin == some o && x.h.tag == tag && x.h.buffer != 255)) ||
    p.2.allStreams.any (fun s => (p.1, s.1, s.2.gen) == o && s.2.relays.any (fun x => x.h.tag == tag)))

/-- R301: the other handles of this stream and TAG carry bytes that have been counted as wasted. -/
def spendTag (m : Mach) (o : Nat × Nat × Nat) (tag : BitVec 32) : Mach :=
  { m with cores := m.cores.map (fun p => (p.1, { p.2 with
      rails := p.2.rails.map (fun r => (r.1, { r.2 with
        entries := r.2.entries.map (fun x =>
          if x.origin == some o && x.h.tag == tag && x.h.buffer != 255 then { x with spent := true } else x) })) })) }

/-- R301: a handle has been popped: its lead time, and its bytes useful once every target has popped it. -/
def notePop (m : Mach) (x : Entry) (lead : Nat) : Mach :=
  match x.origin with
  | none => m
  | some o =>
    if x.h.buffer = 255 then m
    else
      let m1 := addLead m o lead
      if x.spent || handleLives m1 o x.h.tag then m1 else addUseful m1 o x.h.length

end Sys2Proof.Machine
end

