-- ==== Sys2Proof/Machine/FaultPath.lean ====
section
/-! DEFINITION. How a fault reaches a context: translation faults that can be resumed (R386 to R391) and faults that end its
work, collected in `Mach.due` and acted on before the command ends (R327, R328, R530). -/

namespace Sys2Proof.Machine

/-- A fault that ends the work of context `k` of core `c`. -/
def failWith (m : Mach) (c k : Nat) (r : FaultRec) (write : Bool) : Mach :=
  { m with due := m.due ++ [{ core := c, ctx := k, record := r, write := write }] }

/-- A fault that ends the context's work, with the record that names it (R328, R530). -/
def failCtx (e : Env) (m : Mach) (c k fam code : Nat) : Mach := failWith m c k (ctxFault e m c k fam code) true

/-- As `failCtx`, with DETAIL and ADDRESS. -/
def failCtxAt (e : Env) (m : Mach) (c k fam code detail addr flags : Nat) : Mach :=
  let r := ctxFault e m c k fam code
  failWith m c k { r with detail := detail, addr := addr, flags := r.flags + flags } true

/-- R356: an uncorrectable tray error that a context's read meets: TRAY_UNCORRECTABLE with the tray address. -/
def failTray (e : Env) (m : Mach) (c k addr : Nat) : Mach := failCtxAt e m c k famMemory 0x13 0 addr 0

/-- R387, R389: the record of a translation fault; ADDRESS is the virtual address. -/
def transRecord (e : Env) (m : Mach) (c k kind level va : Nat) (wr : Bool) (source slot : Nat) : FaultRec :=
  let r := ctxFault e m c k famMemory 0x10
  { r with detail := transDetail kind wr source level slot, addr := va % 2 ^ 52, flags := r.flags + 2 }

/-- R389, R390: the context stops issuing and enters FAULT_WAIT; a SAVED one shows FAULT unless its wait is still pending
(R308). The context record keeps the first of its records. -/
def transFault (e : Env) (m : Mach) (c k kind level va : Nat) (wr : Bool) (source slot : Nat) : Mach :=
  let r := transRecord e m c k kind level va wr source slot
  let m1 := raiseFault m (dieOf c) r
  let m2 := m1.modCtx c k (fun x => { x with fault := some (x.fault.getD r), faultAtFetch := x.faultAtFetch || source == 0 })
  match (m2.ctx c k).state with
  | .free => m2
  | .faulted => m2
  | .faultWait => m2
  | .saved =>
    let x := m2.ctx c k
    if x.cause = .none ∨ x.cause = .unit then setState e m2 c k .saved .fault 0 else m2
  | _ => setState e m2 c k .faultWait .none 0

/-- R34: the family in which a source of R387 meets an address of more than 52 bits. -/
def sourceFamily (source : Nat) : Nat :=
  if source = 2 then famGather else if source = 3 then famTraversal else if source = 4 then famStream else famHost

/-- A write by an engine that did not complete: what becomes of its context. -/
def putFault (e : Env) (m : Mach) (c k source slot : Nat) : Put → Mach
  | .done => m
  | .fault kind level va => transFault e m c k kind level va true source slot
  | .absent => failCtx e m c k famMemory cUnitAbsent
  | .align va => failCtxAt e m c k famMemory 0x15 0 va 2
  | .aperture va => failCtxAt e m c k famLink 0x14 0 va 2
  | .beyond => failCtx e m c k (sourceFamily source) cBounds

/-- A read by an engine that did not complete: what becomes of its context (R386, R404). -/
def gotFault (e : Env) (m : Mach) (c k source slot : Nat) : Got → Mach
  | .ok _ _ => m
  | .fault kind level va => transFault e m c k kind level va false source slot
  | .absent => failCtx e m c k famMemory cUnitAbsent
  | .aperture va => failCtxAt e m c k famLink 0x14 0 va 2
  | .beyond => failCtx e m c k (sourceFamily source) cBounds

/-- R363: a line of the cache or of the side buffer fails its parity. -/
def parityFails (e : Env) (m : Mach) (c n : Nat) : Mach :=
  match (m.core c).drawer.find? (fun l => l.line == n && l.dirty) with
  | some l =>
    let m1 := m.modCore c (fun x => { x with drawer := x.drawer.filter (fun y => y.line != n) })
    failCtx e (flushDrawer e m1 c) c l.owner famMemory 0x14
  | none =>
    if (m.core c).drawer.any (fun l => l.line == n) || (m.core c).side.any (fun l => l.line == n) then
      let m1 := m.modCore c (fun x =>
        { x with drawer := x.drawer.filter (fun y => y.line != n), side := x.side.filter (fun y => y.line != n) })
      { m1 with hbm := { m1.hbm with drawerParity := m1.hbm.drawerParity + 1 } }
    else m

end Sys2Proof.Machine
end

