-- ==== Sys2Proof/Machine/TableView.lean ====
section
/-! DEFINITION. The published tables as commands see them: descriptors and their fields (R176, R199, R203, R204), keyed
mixing (R182). -/

namespace Sys2Proof.Machine

def dieTables (m : Mach) (d : Nat) : DieTables := if d = 0 then m.tables.die0 else m.tables.die1

def setDieTables (m : Mach) (d : Nat) (x : DieTables) : Mach :=
  if d = 0 then { m with tables := { m.tables with die0 := x } } else { m with tables := { m.tables with die1 := x } }

/-- R204: the published descriptor of slot `t` on die `d`; EMPTY while the die has no region. -/
def descOn (m : Mach) (d t : Nat) : Nat :=
  if (dieTables m d).region = 0 then 0 else (spGet Slot.reset (dieTables m d).slots t).desc


/-! R176: the fields of a descriptor. -/

def dKind (d : Nat) : Nat := natBits d 7 0
def dFormat (d : Nat) : Nat := natBits d 11 8
def dOverlay (d : Nat) : Bool := natBit d 12
def dDefaultKind (d : Nat) : Bool := natBit d 13
def dRowBytes (d : Nat) : Nat := natBits d 28 16
def dVersion (d : Nat) : Nat := natBits d 63 32
def dBase (d : Nat) : Nat := natBits d 115 64
def dShardMap (d : Nat) : Nat := natBits d 127 116
def dRowCount (d : Nat) : Nat := natBits d 168 128
def dRowPitch (d : Nat) : Nat := natBits d 191 176
def dDefaultAddr (d : Nat) : Nat := natBits d 243 192
def dShard (d : Nat) : Nat := natBits d 255 244
def dScale (d : Nat) : Nat := natBits d 287 256
def dOverlayPtr (d : Nat) : Nat := natBits d 371 320
def dNbrBase (d : Nat) : Nat := natBits d 435 384
def dNbrWide (d : Nat) : Bool := natBit d 436
def dWgtFmt (d : Nat) : Nat := natBits d 438 437
def dWgtBase (d : Nat) : Nat := natBits d 499 448

/-- R68, R202: what a command of core `c` binds of slot `t` when it issues. -/
def bindSlot (m : Mach) (c t : Nat) : Bound :=
  let d := descOn m (dieOf c) t
  { slot := t, desc := d, map := (spGet ShardMap.reset (dieTables m (dieOf c)).maps (dShardMap d)).header }

/-- What the reads of table descriptors and map headers come to. -/
inductive BoundGot where
  | ok
  /-- a descriptor is delivered as poisoned, hence as all ones (notes/assumptions/14) -/
  | poison
  | stop (g : Got)
  deriving DecidableEq, Repr, Inhabited

/-- R203, R358: core `c` reads the descriptor and the map header of each bound slot from its own die's copy, through the drawer
cache. The values used are those bound at issue (notes/assumptions/28). -/
def readBound (e : Env) (c : Nat) : List Bound → Mach → Mach × BoundGot
  | [], m => (m, .ok)
  | b :: bs, m =>
    let region := (dieTables m (dieOf c)).region
    match drawerRead e m c (region + 128 * b.slot) 128 with
    | (m1, .ok _ true) => (m1, .poison)
    | (m1, .ok _ false) =>
      match drawerRead e m1 c (region + 524288 + 64 * dShardMap b.desc) 64 with
      | (m2, .ok _ _) => readBound e c bs m2
      | (m2, g) => (m2, .stop g)
    | (m1, g) => (m1, .stop g)

/-- R176: bytes of an element of a ROWS format; RAW counts single bytes. -/
def elemBytes (fmt : Nat) : Nat := if fmt = 0 then 4 else if fmt = 1 ∨ fmt = 2 then 2 else 1

/-- R165: D of a table. -/
def dDim (d : Nat) : Nat := dRowBytes d / elemBytes (dFormat d)

/-- R182. -/
def mix64 (x0 : Nat) : Nat :=
  let x1 := ((x0 ^^^ (x0 >>> 30)) * 0xBF58476D1CE4E5B9) % 2 ^ 64
  let x2 := ((x1 ^^^ (x1 >>> 27)) * 0x94D049BB133111EB) % 2 ^ 64
  x2 ^^^ (x2 >>> 31)

/-- R182. -/
def draw64 (seed v n : Nat) : Nat := mix64 ((mix64 (seed ^^^ v) + n * 0x9E3779B97F4A7C15) % 2 ^ 64)

end Sys2Proof.Machine
end

