-- ==== Sys2Proof/Machine/Frames.lean ====
section
/-! DEFINITION. Frames that leave the device: routes, sequences, drops (R395, R396, R400, R403 to R411). -/

namespace Sys2Proof.Machine

def Mach.link (m : Mach) (n : Nat) : Link := spGet Link.reset m.fabric.links n

def Mach.modLink (m : Mach) (n : Nat) (f : Link → Link) : Mach :=
  { m with fabric := { m.fabric with links := spMod Link.reset m.fabric.links n f } }

/-- R411: the entry for `d` of half `h`; while the device is split die 1's half has its own. -/
def Mach.route (m : Mach) (k : Strokes) (h d : Nat) : Route :=
  spGet Route.reset (if k.split && h == 1 then m.fabric.routes1 else m.fabric.routes) d

/-- R26: the die of a link. -/
def dieOfLink (n : Nat) : Nat := if n < 48 then 0 else 1

/-- R395, R398, R411: link `n` carries routed frames of half `h`: it is UP, both ends have an identifier, and while the device
is split it lies on the half's die. -/
def linkCarries (e : Env) (m : Mach) (h n : Nat) : Bool :=
  decide (n < 96) && (m.link n).state == 2 && (m.link n).peer != 0xFFFF && m.fabric.deviceId != 0xFFFF &&
    (!e.k.split || dieOfLink n == h)

/-- R408, R409: the link that a routed frame for `d` takes; the entry of the device's own identifier is ignored. -/
def routeOf (e : Env) (m : Mach) (h d : Nat) : Option Nat :=
  let r := m.route e.k h d
  if d = m.fabric.deviceId then none
  else if linkCarries e m h r.primary then some r.primary
  else if linkCarries e m h r.alternate then some r.alternate else none

/-- R396: what a major 1 link can carry. -/
def majorCarries (mj : Nat) (hd : FrameHead) : Payload → Bool
  | .write _ => mj != 1 || (decide (hd.origin ≤ 4095) && decide (hd.dest ≤ 4095))
  | .signal _ => mj != 1 || (decide (hd.origin ≤ 4095) && decide (hd.dest ≤ 4095))
  | .abort _ o _ => mj != 1 || (decide (hd.origin ≤ 4095) && decide (hd.dest ≤ 4095) && decide (o ≤ 4095))
  | .marker _ _ => true
  | _ => mj != 1

/-- R400, R410: channel 0 DATA0, 1 DATA1, 2 CTRL. -/
def channelFor (vc : Nat) : Payload → Nat
  | .write b => if vc = 1 then 0 else if vc = 2 then 1 else b.channel
  | _ => 2

/-- What became of a routed frame. -/
inductive Sent where
  | sent | noRoute | dropped
  deriving DecidableEq, Repr

/-- R409: send a routed frame for `hd.dest`, originated or in transit. -/
def sendRouted (e : Env) (m : Mach) (h : Nat) (hd : FrameHead) (p : Payload) : Mach × Sent :=
  match routeOf e m h hd.dest with
  | none => ({ m with fabric := { m.fabric with noRoute := m.fabric.noRoute + 1 } }, .noRoute)
  | some n =>
    if 32 < hd.hops + 1 then
      ({ m with fabric := { m.fabric with majorDrops := m.fabric.majorDrops + 1 } }, .noRoute)
    else if !majorCarries (m.link n).major hd p then
      ({ m with fabric := { m.fabric with majorDrops := m.fabric.majorDrops + 1 } }, .dropped)
    else
      let f : OutFrame := { link := n, head := { hd with hops := hd.hops + 1 },
                            channel := channelFor (m.route e.k h hd.dest).vcOut p, payload := p }
      ((pushFrame m f).modLink n (fun l => { l with retry := l.retry ++ [f] }), .sent)

/-- R409: half `h` knows `d` unreachable. -/
def knownLost (m : Mach) (h d : Nat) : Bool := m.fabric.unreachable.contains (h, d)

def noteLost (m : Mach) (h d : Nat) : Mach := { m with fabric := { m.fabric with unreachable := (h, d) :: m.fabric.unreachable } }

/-- R409: this device is the origin: while `d` is known unreachable, every new frame for it is dropped. -/
def sendOrigin (e : Env) (m : Mach) (h d : Nat) (p : Payload) : Mach × Sent :=
  if knownLost m h d then
    ({ m with fabric := { m.fabric with noRoute := m.fabric.noRoute + 1 } }, .noRoute)
  else
    let r := sendRouted e m h { origin := m.fabric.deviceId, dest := d, hops := 0 } p
    match r.2 with
    | .noRoute => (noteLost r.1 h d, .noRoute)
    | x => (r.1, x)

/-- R409: the record NO_ROUTE that names `d`, without a context. -/
def noRouteRecord (e : Env) (m : Mach) (die d : Nat) : FaultRec :=
  { mkFault e m die famLink 0x13 0 with detail := d }

/-- The next end-to-end sequence of WRITE frames for `d` (R407, notes/assumptions/15). -/
def nextSeq (m : Mach) (d : Nat) : Nat := spGet 0 m.fabric.sent d

/-- R404: one WRITE frame toward `d`. The attribute it carries has no source in the manual and is free (notes/assumptions/2). -/
def sendWrite (e : Env) (m : Mach) (c k d off : Nat) (data : List Byte) : Mach × Sent :=
  let q := nextSeq m d
  let r := sendOrigin e (freeStep m) (halfOf e.k (dieOf c)) d
    (.write { seq := q, offset := off, data := data, core := c, ctx := k, channel := 0, detect := freeNow m % 2 == 1 })
  match r.2 with
  | .sent => ({ r.1 with fabric := { r.1.fabric with sent := spSet r.1.fabric.sent d ((q + 1) % 2 ^ 32) } }, .sent)
  | x => (r.1, x)

/-- R404: bytes toward the aperture, cut into WRITE frames at 256-byte boundaries; without a route the context faults. -/
def apertureWriteGo (e : Env) (c k d : Nat) : Nat → Nat → List Byte → Mach → Mach × Bool
  | 0, _, _, m => (m, true)
  | fuel + 1, off, data, m =>
    if data.isEmpty then (m, true)
    else
      let n := min data.length (256 - off % 256)
      match sendWrite e m c k d off (data.take n) with
      | (m1, .sent) => apertureWriteGo e c k d fuel (off + n) (data.drop n) m1
      | (m1, .dropped) => apertureWriteGo e c k d fuel (off + n) (data.drop n) m1
      | (m1, .noRoute) => (failCtxAt e m1 c k famLink 0x13 d 0 0, false)

/-- R406: the record of a refused WRITE counts the later refusals of its origin and stroke in its detail word, wherever it is:
waiting, held, or in its ring (notes/assumptions/16). -/
def countRefused (e : Env) (m : Mach) (die o n : Nat) : Mach :=
  let hit (r : FaultRec) : Bool :=
    r.family == famLink && r.code == 0x15 && r.detail % 65536 == o && r.stroke == strokeAt e.k die
  let bump (r : FaultRec) : FaultRec := if hit r then { r with detail := o + 65536 * min n 65535 } else r
  let x := faultRing m die
  let m1 := setFaultRing m die { x with raised := x.raised.map bump, store := x.store.map bump, held := x.held.map bump }
  match x.held.find? hit with
  | some r =>
    if x.store.any hit || decide (2 ^ ringLog2 m die < diff32 r.seq x.tail.toNat) then m1
    else hostWrite m1 (ringBase m die + 32 * (r.seq % 2 ^ ringLog2 m die) + 4) (leBytes 4 (bump r).detail)
  | none => m1

/-- R406: a WRITE that the destination cannot apply: one REMOTE_WRITE_FAULT per origin and stroke, naming the origin and the
offset; the others of the stroke are counted in that record. -/
def refuseWrite (e : Env) (m : Mach) (die o off : Nat) : Mach :=
  let x := spGet Origin.reset m.fabric.origins o
  let m1 := { m with fabric := { m.fabric with origins := spSet m.fabric.origins o { x with refused := x.refused + 1 } } }
  if x.refused = 0 then raiseFault m1 die { mkFault e m die famLink 0x15 0 with detail := o, addr := off }
  else countRefused e m1 die o x.refused

/-- R405: a WRITE applied at EXPORT_BASE + OFFSET on die `die`; false when it is refused. -/
def applyWrite (e : Env) (m : Mach) (die o off : Nat) (data : List Byte) : Mach × Bool :=
  if m.fabric.exportBase = 0 then (refuseWrite e m die o off, false)
  else
    match deviceWrite e m die (m.fabric.exportBase + off) data with
    | (m1, true) => (m1, true)
    | (m1, false) => (refuseWrite e m1 die o off, false)

/-- R403 to R405: bytes written at an aperture address by context `k` of core `c`; false when the context faults. -/
def apertureWrite (e : Env) (m : Mach) (c k va : Nat) (data : List Byte) : Mach × Bool :=
  let d := natBits va 47 35
  let off := natBits va 34 0
  if d = m.fabric.deviceId then
    match applyWrite e m (dieOf c) d off data with
    | (m1, true) => (m1, true)
    | (m1, false) => (failCtx e m1 c k famLink 0x16, false)
  else apertureWriteGo e c k d (data.length / 256 + 2) off data m

/-- R333, R334: a REMOTE clamp signal leaves after every earlier WRITE toward the device. -/
def sendRemoteSignal (e : Env) (m : Mach) (c k d core idx v : Nat) : Mach :=
  if d = m.fabric.deviceId then sendSignal m { sender := .context c k, core := core, index := idx, value := v }
  else
    match sendOrigin e m (halfOf e.k (dieOf c)) d
      (.signal { core := core, index := idx, value := v, lastWrite := (nextSeq m d + 2 ^ 32 - 1) % 2 ^ 32 }) with
    | (m1, .noRoute) => failCtxAt e m1 c k famLink 0x13 d 0 0
    | (m1, _) => m1

end Sys2Proof.Machine
end

