-- ==== Sys2Proof/Machine/Streams.lean ====
section
/-! DEFINITION. The Batten engine: block lists, deliveries, records, cancellation, relays (R263 to R304). Deliveries to rails
take place at once as far as credits allow; other destinations are written when the pass ends (notes/assumptions/17). -/

namespace Sys2Proof.Machine

/-! ### The command (R269) -/

def stSignal (w : Word) : Bool := flag w 8
def stPersist (w : Word) : Bool := flag w 9
def stGuided (w : Word) : Bool := flag w 10
def stClass (w : Word) : Nat := fld w 19 17
def stSlot (w : Word) : Nat := fld w 67 64
def stSrcKind (w : Word) : Nat := fld w 69 68
def stDstKind (w : Word) : Nat := fld w 71 70
def stListInTray (w : Word) : Bool := flag w 72
def stDstInTray (w : Word) : Bool := flag w 73
def stTable (w : Word) : Nat := fld w 87 76
def stListAddr (w : Word) : Nat := fld w 147 96
def stBlocks (w : Word) : Nat := fld w 171 148
def stDstAddr (w : Word) : Nat := fld w 227 176
def stDstBlocks (w : Word) : Nat := fld w 251 228
def stTargetBits (w : Word) : Nat := fld w 319 256
def stRecordBase (w : Word) : Nat := fld w 338 320 * 64
def stClampIndex (w : Word) : Nat := fld w 350 339
def stClampCore (w : Word) : Nat := fld w 356 351
def stTagBase (w : Word) : Nat := fld w 388 357
def stSeed (w : Word) : Nat := fld w 452 389

/-- R269: the target cores in ascending order. -/
def stTargets (w : Word) : List Nat := (List.range 64).filter (fun c => natBit (stTargetBits w) c)

/-- R285: more than 16 targets make a chain. -/
def stChain (w : Word) : Bool := decide (16 < (stTargets w).length)

/-- R285: the targets the engine itself delivers to. -/
def stDelivered (w : Word) : List Nat := if stChain w then (stTargets w).take 1 else stTargets w

/-! ### Lists (R263 to R266) -/

structure Block where
  offset : Nat
  sel : Nat
  cut : Bool
  length : Nat
  rep : Nat
  stride : Nat
  /-- a reserved bit is set -/
  odd : Bool
  deriving DecidableEq, Repr, Inhabited

def blockOf (bs : List Byte) : Block :=
  let x := leNat bs
  { offset := natBits x 51 0, sel := natBits x 53 52, cut := natBit x 54, length := natBits x 95 64,
    rep := natBits x 111 96, stride := natBits x 159 128,
    odd := natBits x 63 55 != 0 || natBits x 127 112 != 0 || natBits x 255 160 != 0 }

/-- Bytes of a block. -/
def Block.total (b : Block) : Nat := b.length * b.rep

/-- Start of occurrence `r` (R265). -/
def Block.at (b : Block) (bases : List Nat) (r : Nat) : Nat := bases.getD b.sel 0 + b.offset + r * b.stride

/-- One past the last byte of any occurrence. -/
def Block.top (b : Block) (bases : List Nat) : Nat :=
  if b.total = 0 then 0 else b.at bases (b.rep - 1) + b.length

/-- Why a stream does not go on. -/
inductive StreamStop where
  /-- a piece has moved -/
  | moved
  /-- a target has no credit or no entry -/
  | blocked
  /-- the list has ended -/
  | ended
  | trans (kind level va : Nat) (wr : Bool) (source : Nat)
  | reject (code : Nat)
  | absent
  | align (va : Nat)
  | aperture (va : Nat)
  | tray (addr : Nat)
  /-- a write toward the fabric has faulted its context -/
  | fabric
  deriving DecidableEq, Repr, Inhabited

/-- A read of a list, or why it failed. -/
inductive ListGot where
  | ok (bs : List Byte)
  | stop (s : StreamStop)
  deriving DecidableEq, Repr, Inhabited

/-- What a read through the drawer cache comes to for a stream (R387). -/
def listGot : Got → ListGot
  | .ok bs _ => .ok bs
  | .fault k l va => .stop (.trans k l va false 1)
  | .absent => .stop .absent
  | .aperture va => .stop (.aperture va)
  | .beyond => .stop (.reject cBounds)

/-- R263: `n` bytes of a list in the tray or through the drawer cache. -/
def listRead (e : Env) (m : Mach) (c : Nat) (inTray : Bool) (a n : Nat) : Mach × ListGot :=
  if inTray then
    if beyondTray a n then (m, .stop (.reject cBounds))
    else
      match trayBad m c [(a, n)] with
      | some x => (m, .stop (.tray x))
      | none => (trayCount m c [(a, n)], .ok (trayRead m c a n))
  else
    let r := drawerRead e m c a n
    (r.1, listGot r.2)

/-- R263: the bases of a header; a header that breaks its rules stops the stream with BOUNDS (notes/assumptions/18). -/
def headerBases (guided : Bool) (bs : List Byte) : Option (List Nat) :=
  let x := leNat bs
  let ok := natBits x 63 52 == 0 && natBits x 127 116 == 0 && natBits x 191 180 == 0 && natBits x 255 244 == 0 &&
    natBits x 511 352 == 0
  let base := natBits x 319 256
  let mib := natBits x 351 320
  let okStage := if guided then base % 2 ^ 21 == 0 && mib % 2 == 0 && decide (2 ≤ mib) && decide (mib ≤ 64)
    else base == 0 && mib == 0
  if ok && okStage then some [natBits x 51 0, natBits x 115 64, natBits x 179 128, natBits x 243 192] else none

/-- R299: the staging region of a guided stream, from its header: its first byte and its bytes. -/
def headerStage (bs : List Byte) : Nat × Nat := (natBits (leNat bs) 319 256, natBits (leNat bs) 351 320 * 2 ^ 20)

/-- R266: what no source occurrence may reach beyond. For an ADJACENCY table, whose ROW_PITCH is 0 (R176), that is no byte at all
(notes/assumptions/19). -/
def srcReach (s : Stream) : Nat :=
  let k := stSrcKind s.w
  if k = 0 then 2 ^ 52 else if k = 1 then trayBytes
  else (s.bound.map (fun b => dRowCount b.desc * dRowPitch b.desc)).getD 0

/-- R264: a reserved count or a reserved bit of a block. -/
def blockOdd (b : Block) : Option Nat :=
  if b.length = 2 ^ 32 - 1 ∨ b.rep = 65535 then some cReservedCount else if b.odd then some cBounds else none

/-- Destination ranges, within one list, of the next `n` bytes from a place, or why there are none: the list cannot hold them
(R271), or it cannot be read. -/
def dstRanges (e : Env) (c : Nat) (s : Stream) :
    Nat → Place → Nat → Mach → List (Nat × Nat) → Mach × (StreamStop ⊕ List (Nat × Nat))
  | 0, _, _, m, _ => (m, .inl (.reject cBounds))
  | fuel + 1, p, n, m, acc =>
    if n = 0 then (m, .inr acc)
    else if stDstBlocks s.w ≤ p.blk then (m, .inl (.reject cBounds))
    else
      match listRead e m c (stListInTray s.w) (stDstAddr s.w + 64 + 32 * p.blk) 32 with
      | (m1, .stop x) => (m1, .inl x)
      | (m1, .ok bs) =>
        let b := blockOf bs
        match blockOdd b with
        | some code => (m1, .inl (.reject code))
        | none =>
          if b.length = 0 ∨ b.rep ≤ p.occ then dstRanges e c s fuel { blk := p.blk + 1, occ := 0, off := 0 } n m1 acc
          else
            let k := min n (b.length - p.off)
            dstRanges e c s fuel { p with occ := p.occ + 1, off := 0 } (n - k) m1
              (acc ++ [(b.at s.dstBases p.occ + p.off, k)])

/-- R266: the occurrences of a block as ranges. -/
def occRanges (b : Block) (bases : List Nat) : List (Nat × Nat) :=
  (List.range b.rep).map (fun r => (b.at bases r, b.length))

/-- Ranges without their first `n` bytes. -/
def dropRanges : Nat → List (Nat × Nat) → List (Nat × Nat)
  | _, [] => []
  | n, r :: rs => if r.2 ≤ n then dropRanges (n - r.2) rs else (r.1 + n, r.2 - n) :: rs

/-- R34, R266: what no destination byte may reach beyond. -/
def dstReach (s : Stream) : Nat := if stDstInTray s.w then trayBytes else 2 ^ 52

/-- R266: a destination range lies out of reach, or under an occurrence of the block's TRAY source. -/
def dstBad (s : Stream) (b : Block) (rs : List (Nat × Nat)) : Bool :=
  rs.any (fun r => decide (0 < r.2) && decide (dstReach s < r.1 + r.2)) ||
    (stDstInTray s.w && stSrcKind s.w == 1 &&
      (occRanges b s.srcBases).any (fun r => rs.any (fun q => overlaps r.1 r.2 q.1 q.2)))

/-- R34, R266, R404: does block `b` break a rule, read when `skip` bytes of the blocks before it are still to be delivered? -/
def blockFault (e : Env) (m : Mach) (c : Nat) (s : Stream) (b : Block) (skip : Nat) : Mach × Option StreamStop :=
  if (blockOdd b).isSome then (m, (blockOdd b).map .reject)
  else if stSrcKind s.w ≠ 3 ∧ srcReach s < b.top s.srcBases then (m, some (.reject cBounds))
  else if stSrcKind s.w = 0 ∧ b.total ≠ 0 ∧ (isAperture (b.at s.srcBases 0) ∨ isAperture (b.top s.srcBases - 1)) then
    (m, some (.aperture (b.at s.srcBases 0)))
  else if stDstKind s.w = 1 then
    (m, if dstBad s b [(s.dstBase + s.counts.delivered + skip, b.total)] then some (.reject cBounds) else none)
  else if stDstKind s.w = 2 then
    match dstRanges e c s (2 ^ 64) s.dst (skip + b.total) m [] with
    | (m1, .inl x) => (m1, some x)
    | (m1, .inr rs) => (m1, if dstBad s b (dropRanges skip rs) then some (.reject cBounds) else none)
  else (m, none)

/-! ### Moving one piece -/

/-- R277: byte `o` of a pattern. -/
def patternByte (seed o : Nat) : Byte := BitVec.ofNat 8 (mix64 (seed ^^^ (o / 8)) >>> (8 * (o % 8)))

def patternBytes (seed : Nat) : Nat → Nat → List Byte
  | _, 0 => []
  | o, n + 1 => patternByte seed o :: patternBytes seed (o + 1) n

/-- What a source read gives: bytes and their poison. -/
inductive SrcGot where
  | ok (bs : List Byte) (poison : Bool)
  | stop (s : StreamStop)
  deriving DecidableEq, Repr, Inhabited

/-- R265: the device virtual address of source byte `a`. -/
def srcVa (s : Stream) (a : Nat) : Nat :=
  if stSrcKind s.w = 2 then dBase ((s.bound.map (fun b => b.desc)).getD 0) + a else a

/-- R267: the bytes from `a` up to the next 4 KiB-aligned address. -/
def burstRest (a : Nat) : Nat := 4096 - a % 4096

/-- R276: the number of a stream's first words of VERIFY that mismatch in `data`, counting each 8-byte word once. -/
def verifyGo (seed : Nat) : Nat → List Byte → Nat → Nat × Nat
  | _, [], bad => (0, bad)
  | o, b :: bs, bad =>
    if b = patternByte seed o ∨ bad = o / 8 + 1 then verifyGo seed (o + 1) bs bad
    else
      let r := verifyGo seed (o + 1) bs (o / 8 + 1)
      (r.1 + 1, r.2)

/-- The place after `n` more bytes of the occurrence of block `b`. -/
def Place.after (p : Place) (b : Block) (n : Nat) : Place :=
  if p.off + n < b.length then { p with off := p.off + n }
  else if p.occ + 1 < b.rep then { p with occ := p.occ + 1, off := 0 }
  else { blk := p.blk + 1, occ := 0, off := 0 }

/-- R267: how many bytes, of those in front of source byte `a`, belong to the run that goes on at place `p`: occurrences merge
while each starts where the one before it ended, up to a block with CUT and to `lim` bytes. A block that is read here is validated
here (R266), and one that breaks a rule ends the run before it. -/
def runGo (e : Env) (c : Nat) (s : Stream) (lim : Nat) : Nat → Place → Nat → Nat → Mach → Mach × Nat
  | 0, _, _, n, m => (m, n)
  | fuel + 1, p, a, n, m =>
    if lim ≤ n then (m, lim)
    else if stBlocks s.w ≤ p.blk then (m, n)
    else
      match listRead e m c (stListInTray s.w) (stListAddr s.w + 64 + 32 * p.blk) 32 with
      | (m1, .stop _) => (m1, n)
      | (m1, .ok bs) =>
        let b := blockOf bs
        match (if p.occ = 0 ∧ p.off = 0 ∧ n ≠ 0 then blockFault e m1 c s b n else (m1, none)) with
        | (m2, some _) => (m2, n)
        | (m2, none) =>
          if b.total = 0 ∨ b.rep ≤ p.occ then
            if b.cut then (m2, n) else runGo e c s lim fuel { blk := p.blk + 1, occ := 0, off := 0 } a n m2
          else if b.at s.srcBases p.occ + p.off ≠ a then (m2, n)
          else
            let k := b.length - p.off
            let q := p.after b k
            if b.cut && q.blk != p.blk then (m2, min lim (n + k)) else runGo e c s lim fuel q (a + k) (n + k) m2

/-- The place `n` bytes on, and whether the last of them ends a block with CUT. -/
def placeGo (e : Env) (c : Nat) (s : Stream) : Nat → Place → Nat → Bool → Mach → Mach × Place × Bool
  | 0, p, _, cut, m => (m, p, cut)
  | fuel + 1, p, n, cut, m =>
    if n = 0 ∨ stBlocks s.w ≤ p.blk then (m, p, cut)
    else
      match listRead e m c (stListInTray s.w) (stListAddr s.w + 64 + 32 * p.blk) 32 with
      | (m1, .stop _) => (m1, p, cut)
      | (m1, .ok bs) =>
        let b := blockOf bs
        if b.total = 0 ∨ b.rep ≤ p.occ then placeGo e c s fuel { blk := p.blk + 1, occ := 0, off := 0 } n cut m1
        else
          let k := min n (b.length - p.off)
          let q := p.after b k
          placeGo e c s fuel q (n - k) (b.cut && q.blk != p.blk) m1

/-- R265, R267, R280: read the burst of the source that begins at `a`, in block `b`, where the stream stands. Device memory is read
in whole 128-byte blocks, and a poisoned read is all ones (notes/assumptions/29). Generated bytes come occurrence by occurrence. -/
def burstRead (e : Env) (m : Mach) (c : Nat) (s : Stream) (b : Block) (a : Nat) : Mach × SrcGot :=
  let k := stSrcKind s.w
  if k = 3 then
    (m, .ok (patternBytes (stSeed s.w) s.counts.delivered (min 4096 (b.length - s.src.off))) false)
  else
    let va := srcVa s a
    let g := runGo e c s (burstRest va) (2 ^ 64) s.src a 0 m
    let n := g.2
    if k = 1 then
      match trayBad g.1 c [(a, n)] with
      | some x => (g.1, .stop (.tray x))
      | none => (trayCount g.1 c [(a, n)], .ok (trayRead g.1 c a n) false)
    else
      match vread e g.1 c (va - va % 128) (ceilDiv (va % 128 + n) 128 * 128) with
      | (m1, .ok bs p) => (m1, .ok (if p then List.replicate n 0xFF#8 else (bs.drop (va % 128)).take n) p)
      | (m1, .fault kd l _) => (m1, .stop (.trans kd l va false 4))
      | (m1, .absent) => (m1, .stop .absent)
      | (m1, .aperture _) => (m1, .stop (.aperture va))
      | (m1, .beyond) => (m1, .stop (.reject cBounds))

/-! ### The staging region of a guided stream (R299) -/

/-- What a write of an engine comes to for a stream. -/
def putStop : Put → Option StreamStop
  | .done => none
  | .fault k l va => some (.trans k l va true 4)
  | .absent => some .absent
  | .align va => some (.align va)
  | .aperture va => some (.aperture va)
  | .beyond => some (.reject cBounds)

/-- The die of a guided stream's destination, where one is known: the core's for its tray, that of the frame of the first byte of a
LINEAR one. -/
def dstDie (e : Env) (m : Mach) (c : Nat) (s : Stream) : Option Nat :=
  if stDstInTray s.w then some (dieOf c)
  else if stDstKind s.w ≠ 1 then none
  else
    match (deviceTranslate e m (dieOf c) s.dstBase false).2 with
    | .ok pa _ => some (stackOf pa / 8)
    | _ => none

/-- R299: every page of the staging region is a PROTECT page of the destination die; otherwise BOUNDS (notes/assumptions/39). -/
def stageFault (e : Env) (m : Mach) (c : Nat) (s : Stream) : Nat → Nat → Option StreamStop
  | 0, _ => none
  | n + 1, va =>
    match (deviceTranslate e m (dieOf c) va true).2 with
    | .ok pa dt =>
      if dt || winOf pa != 0 || (dstDie e m c s).any (fun d => d != stackOf pa / 8) then some (.reject cBounds)
      else stageFault e m c s n (va + 2 ^ 21)
    | .fault k l => some (.trans k l va true 4)
    | .absent => some .absent
    | .aperture => some (.aperture va)
    | .beyond => some (.reject cBounds)

/-- R299: a burst passes through the staging region, whose bytes are used in a ring (notes/assumptions/39). -/
def stageBytes (e : Env) (m : Mach) (c : Nat) (s : Stream) (data : List Byte) : Mach × Option StreamStop :=
  if !stGuided s.w || s.staged == 0 then (m, none)
  else
    let o := s.counts.delivered % s.staged
    match vwrite e m c (s.stageAt + o) (data.take (s.staged - o)) with
    | (m1, .done) =>
      let r := vwrite e m1 c s.stageAt (data.drop (s.staged - o))
      (r.1, putStop r.2)
    | (m1, x) => (m1, putStop x)

/-- R272: no byte remains from block `n` on. A block that cannot be read counts as one with bytes. -/
def restEmpty (e : Env) (c : Nat) (s : Stream) : Nat → Nat → Mach → Bool
  | 0, _, _ => false
  | fuel + 1, n, m =>
    if stBlocks s.w ≤ n then true
    else
      match listRead e m c (stListInTray s.w) (stListAddr s.w + 64 + 32 * n) 32 with
      | (_, .stop _) => false
      | (m1, .ok bs) => if (blockOf bs).total = 0 then restEmpty e c s fuel (n + 1) m1 else false

/-- Bytes of a buffer that every delivered target can hold. -/
def streamBuf (m : Mach) (s : Stream) : Nat :=
  (stDelivered s.w).foldl (fun a t => min a (2 ^ (m.pool t (m.rail t (stRail s.w)).pool).sizeLog2)) (2 ^ 20)

/-- R284, R288: every delivered target has a credit and a free entry for a new buffer. -/
def canFill (m : Mach) (s : Stream) : Bool :=
  (stDelivered s.w).all (fun t => mayTake m t (stRail s.w) && decide ((m.rail t (stRail s.w)).entries.length < 64))

/-- Take a buffer on every delivered target. -/
def openBuffers (r : Nat) : List Nat → Mach → Mach × List Filling
  | [], m => (m, [])
  | t :: ts, m =>
    let a := takeBuffer m t r
    let b := openBuffers r ts a.1
    (b.1, { core := t, buffer := a.2, fill := 0, poisoned := false } :: b.2)

/-- Write a piece into every buffer being filled. -/
def fillBuffers (r : Nat) (data : List Byte) (poison : Bool) : List Filling → Mach → Mach × List Filling
  | [], m => (m, [])
  | x :: xs, m =>
    let p := m.pool x.core (m.rail x.core r).pool
    let m1 := trayWrite m x.core (bufferAddr p x.buffer + x.fill) data
    let b := fillBuffers r data poison xs m1
    (b.1, { x with fill := x.fill + data.length, poisoned := x.poisoned || poison } :: b.2)

/-- R272, R285: push the filled buffers; a chain remembers what it has still to relay. -/
def pushFilled (e : Env) (m : Mach) (c slot : Nat) (s : Stream) (last : Bool) : Mach × Stream :=
  let tag := BitVec.ofNat 32 (stTagBase s.w + s.tags)
  let mk (x : Filling) : Handle :=
    { buffer := x.buffer, length := x.fill, last := last, cancelled := false, poisoned := x.poisoned, tag := tag }
  let s1 := { s with
    filling := [], tags := s.tags + 1, counts := { s.counts with handles := s.counts.handles + 1 },
    relays := if stChain s.w then s.relays ++ s.filling.map (fun x =>
      { hop := 0, core := x.core, buffer := x.buffer, h := mk x, released := false }) else s.relays }
  let m1 := m.setStream c slot s1
  (s.filling.foldl (fun a x => pushHandle e a x.core (stRail s.w) 
    { h := mk x, origin := some (c, slot, s.gen), spent := false, generated := stSrcKind s.w == 3,
      maker := none }) m1, s1)

/-- R263, R276, R299: the stream has its headers still to read. -/
def Stream.unread (s : Stream) : Bool := s.srcBases.isEmpty || (stDstKind s.w == 2 && s.dstBases.isEmpty)

/-- R263, R276, R299, R388: read a header of the stream: the bases of the source, then those of the destination list. -/
def headerStep (e : Env) (m : Mach) (c : Nat) (s : Stream) : Mach × Stream × StreamStop :=
  if s.srcBases.isEmpty then
    let tb := readBound e c s.bound.toList m
    match (match tb.2 with
      | .ok => listRead e tb.1 c (stListInTray s.w) (stListAddr s.w) 64
      | .poison => (tb.1, .stop (.reject cBounds))
      | .stop g => (tb.1, listGot g)) with
    | (m1, .stop x) => (m1, s, x)
    | (m1, .ok bs) =>
      match headerBases (stGuided s.w) bs with
      | none => (m1, s, .reject cBounds)
      | some b =>
        let g := headerStage bs
        match (if stGuided s.w then stageFault e m1 c s (g.2 / 2 ^ 21) g.1 else none) with
        | some x => (m1, s, x)
        | none => (m1, { s with srcBases := b, stageAt := g.1, staged := g.2 }, .moved)
  else
    match listRead e m c (stListInTray s.w) (stDstAddr s.w) 64 with
    | (m1, .stop x) => (m1, s, x)
    | (m1, .ok bs) =>
      match headerBases false bs with
      | none => (m1, s, .reject cBounds)
      | some b => (m1, { s with dstBases := b }, .moved)

/-- The stream after delivering the first `n` bytes of its burst, and whether they end a block with CUT. -/
def deliverNext (e : Env) (m : Mach) (c : Nat) (s : Stream) (n : Nat) : Mach × Stream × Bool :=
  let p := placeGo e c s (2 ^ 64) s.src n false m
  (p.1, { s with src := p.2.1, flight := s.flight.drop n, poisoned := s.poisoned || s.flightPoison,
                 counts := { s.counts with delivered := s.counts.delivered + n } }, p.2.2)

/-- R272, R284: deliver bytes of the burst into the buffer being filled on every target. -/
def railPiece (e : Env) (m : Mach) (c slot : Nat) (s : Stream) : Mach × Stream × StreamStop :=
  if s.filling.isEmpty && !canFill m s then (m, s, .blocked)
  else
    let o := if s.filling.isEmpty then openBuffers (stRail s.w) (stDelivered s.w) m else (m, s.filling)
    let fill := ((o.2.head?).map (fun x => x.fill)).getD 0
    let size := streamBuf m s
    let n := min s.flight.length (size - fill)
    let f := fillBuffers (stRail s.w) (s.flight.take n) s.flightPoison o.2 o.1
    let d := deliverNext e f.1 c { s with filling := f.2 } n
    let atEnd := d.2.1.flight.isEmpty && restEmpty e c s (2 ^ 64) d.2.1.src.blk d.1 && d.2.1.src.occ == 0 && d.2.1.src.off == 0
    if fill + n = size ∨ d.2.2 ∨ atEnd then
      let r := pushFilled e d.1 c slot d.2.1 atEnd
      (r.1, r.2, .moved)
    else (d.1, d.2.1, .moved)

/-- Bytes written or compared are useful (R301). -/
def usefulPiece (c slot : Nat) (s : Stream) (n : Nat) (m : Mach) : Mach × Stream × StreamStop :=
  let y := addUseful (m.setStream c slot s) (c, slot, s.gen) n
  (y, (y.stream? c slot).getD s, .moved)

/-- R276: compare the bytes of the burst with the pattern. -/
def verifyPiece (e : Env) (m : Mach) (c slot : Nat) (s : Stream) : Mach × Stream × StreamStop :=
  let n := s.flight.length
  let v := verifyGo (stSeed s.w) s.counts.delivered s.flight s.badWord
  let d := deliverNext e m c s n
  let s1 := { d.2.1 with badWord := v.2,
                         counts := { d.2.1.counts with mismatches := min (d.2.1.counts.mismatches + v.1) (2 ^ 32 - 1) } }
  usefulPiece c slot s1 n d.1

/-- R271: write bytes of the burst at `da`. -/
def writePiece (e : Env) (m : Mach) (c slot : Nat) (s : Stream) (da n : Nat) (move : Stream → Stream) :
    Mach × Stream × StreamStop :=
  let data := s.flight.take n
  let fin (x : Mach) : Mach × Stream × StreamStop :=
    let d := deliverNext e x c s n
    usefulPiece c slot (move d.2.1) n d.1
  if stDstInTray s.w then fin (trayWrite m c da data)
  else if isAperture da then
    match apertureWrite e m c s.ctx da data with
    | (m1, true) => fin m1
    | (m1, false) => (m1, s, .fabric)
  else
    let r := vwrite e m c da data
    match putStop r.2 with
    | none => fin r.1
    | some x => (r.1, s, x)

/-- R271, R277, R381: deliver bytes of the burst to memory, to a tray or to the comparison. A LINEAR destination takes the burst
whole as far as its page reaches, a LIST destination as far as its occurrence does. -/
def memoryPiece (e : Env) (m : Mach) (c slot : Nat) (s : Stream) : Mach × Stream × StreamStop :=
  let kd := stDstKind s.w
  if kd = 3 then verifyPiece e m c slot s
  else if kd = 1 then
    let da := s.dstBase + s.counts.delivered
    writePiece e m c slot s da (if stDstInTray s.w then s.flight.length else min s.flight.length (pageRest da)) id
  else
    match listRead e m c (stListInTray s.w) (stDstAddr s.w + 64 + 32 * s.dst.blk) 32 with
    | (m1, .stop x) => (m1, s, x)
    | (m1, .ok bs) =>
      let db := blockOf bs
      if stDstBlocks s.w ≤ s.dst.blk then (m1, s, .reject cBounds)
      else if db.total = 0 then (m1, { s with dst := { blk := s.dst.blk + 1, occ := 0, off := 0 } }, .moved)
      else
        let da := db.at s.dstBases s.dst.occ + s.dst.off
        let n0 := min s.flight.length (db.length - s.dst.off)
        let n := if stDstInTray s.w then n0 else min n0 (pageRest da)
        writePiece e m1 c slot s da n (fun x => { x with dst := s.dst.after db n })

/-- R272: a block without bytes; CUT pushes what the buffer holds. -/
def emptyBlock (e : Env) (m : Mach) (c slot : Nat) (s : Stream) (b : Block) : Mach × Stream × StreamStop :=
  let s1 := { s with src := { blk := s.src.blk + 1, occ := 0, off := 0 } }
  if b.cut && s.filling.any (fun x => decide (0 < x.fill)) then
    let r := pushFilled e m c slot s1 (restEmpty e c s (2 ^ 64) s1.src.blk m)
    (r.1, r.2, .moved)
  else (m, s1, .moved)

/-- R266, R267, R280: the next burst of the source is read. -/
def burstStep (e : Env) (m : Mach) (c slot : Nat) (s : Stream) : Mach × Stream × StreamStop :=
  if stBlocks s.w ≤ s.src.blk then (m, s, .ended)
  else
    match listRead e m c (stListInTray s.w) (stListAddr s.w + 64 + 32 * s.src.blk) 32 with
    | (m1, .stop x) => (m1, s, x)
    | (m1, .ok bs) =>
      let b := blockOf bs
      match (if s.src.occ = 0 ∧ s.src.off = 0 then blockFault e m1 c s b 0 else (m1, none)) with
      | (m2, some x) => (m2, s, x)
      | (m2, none) =>
        if b.total = 0 then emptyBlock e m2 c slot s b
        else if stDstKind s.w = 0 ∧ s.filling.isEmpty ∧ !canFill m2 s then (m2, s, .blocked)
        else
          match burstRead e m2 c s b (b.at s.srcBases s.src.occ + s.src.off) with
          | (m3, .stop x) => (m3, s, x)
          | (m3, .ok data p) =>
            match stageBytes e m3 c s data with
            | (m4, some x) => (m4, s, x)
            | (m4, none) => (m4, { s with flight := data, flightPoison := p }, .moved)

/-- R265 to R272, R301: one piece of the stream in slot `slot` of core `c`: a header, a burst's read, or a burst's delivery as far as
one buffer, page or occurrence takes it. -/
def pieceStep (e : Env) (m : Mach) (c slot : Nat) (s : Stream) : Mach × Stream × StreamStop :=
  if s.unread then headerStep e m c s
  else if s.flight.isEmpty then burstStep e m c slot s
  else if stDstKind s.w = 0 then railPiece e m c slot s
  else memoryPiece e m c slot s

/-- Move pieces until something stops the stream; `fuel` bounds the pieces. -/
def streamRun (e : Env) (c slot : Nat) : Nat → Mach → Mach × StreamStop
  | 0, m => (m, .moved)
  | fuel + 1, m =>
    match m.stream? c slot with
    | none => (m, .ended)
    | some s =>
      match pieceStep e m c slot s with
      | (m1, s1, .moved) => streamRun e c slot fuel (m1.setStream c slot s1)
      | (m1, s1, x) => (m1.setStream c slot s1, x)

/-- R304: every stream of the owning context stops. -/
def stopStreams (m : Mach) (c k : Nat) : Mach :=
  m.modCore c (fun x => { x with streams := x.streams.map (fun p =>
    if p.2.ctx == k && p.2.active then (p.1, { p.2 with faulted := true }) else p) })

/-- What follows from the way a stream stopped. -/
def streamFault (e : Env) (m : Mach) (c slot k : Nat) : StreamStop → Mach
  | .trans kind level va wr source => transFault e (stopStreams m c k) c k kind level va wr source slot
  | .reject code => failCtx e (stopStreams m c k) c k famStream code
  | .absent => failCtx e (stopStreams m c k) c k famMemory cUnitAbsent
  | .align va => failCtxAt e (stopStreams m c k) c k famMemory 0x15 0 va 2
  | .aperture va => failCtxAt e (stopStreams m c k) c k famLink 0x14 0 va 2
  | .tray addr => failTray e (stopStreams m c k) c k addr
  | .fabric => stopStreams m c k
  | _ => m

/-- The engine is clocked: the core is in service and admitted ACTIVE (R494). -/
def coreClocked (e : Env) (m : Mach) (c : Nat) : Bool := coreIn e m c && natBit (m.core c).admitted 4

/-- The stream may move bytes now: its pass runs, nothing stopped, cancelled or holds it, and its context is not saving its
streams (R314, R494). -/
def streamLive (e : Env) (m : Mach) (c : Nat) (s : Stream) : Bool :=
  s.active && !s.faulted && s.cancel.isNone && coreClocked e m c && !((m.ctx c s.ctx).saving.contains .batten)

/-- R50, R300: a guided stream with a TABLE source does not move inside the boundary window. -/
def guidedHeld (e : Env) (c : Nat) (s : Stream) : Bool := stGuided s.w && stSrcKind s.w == 2 && windowAt e.k (dieOf c)

/-- R276, R284, R299: the stream goes on by itself: it has headers to read, or it fills buffers. -/
def Stream.driven (s : Stream) : Bool := s.active && (s.unread || stDstKind s.w == 0)

/-- The slots of core `c` whose streams the engine can serve. -/
def drivenSlots (e : Env) (m : Mach) (c : Nat) : List Nat :=
  ((m.core c).streams.filter (fun p => p.2.driven && streamLive e m c p.2 && !guidedHeld e c p.2)).map (fun p => p.1)

/-- Of numbers in ascending order, the first after the last one served. -/
def nextInTurn (last : Nat) (ks : List Nat) : Option Nat :=
  match ks.find? (fun k => decide (last < k)) with
  | some k => some k
  | none => ks.head?

/-- The rank of the context of a slot's stream. -/
def slotRank (m : Mach) (c slot : Nat) : Nat := ((m.stream? c slot).map (fun s => (m.ctx c s.ctx).rank)).getD 0

/-- R278: of the streams that can move, the one served next: serving before batch, then priority, then in turn. -/
def nextServed (m : Mach) (c : Nat) (slots : List Nat) : Option Nat :=
  let top := slots.foldl (fun r s => max r (slotRank m c s)) 0
  nextInTurn (m.core c).lastStream (slots.filter (fun s => slotRank m c s == top))

/-- R278: one burst, as far as it can be delivered. -/
def serveBurst (e : Env) (c slot : Nat) : Nat → Mach → Mach × StreamStop
  | 0, m => (m, .moved)
  | fuel + 1, m =>
    match m.stream? c slot with
    | none => (m, .ended)
    | some s =>
      match pieceStep e m c slot s with
      | (m1, s1, .moved) =>
        let m2 := m1.setStream c slot s1
        if s1.flight.isEmpty then (m2, .moved) else serveBurst e c slot fuel m2
      | (m1, s1, x) => (m1.setStream c slot s1, x)

/-- R278, R284: the engine of core `c` serves its streams, one burst at a time, until none of them can move; those in `waiting` have
been found unable to. -/
def pumpCore (e : Env) (c : Nat) : Nat → List Nat → Mach → Mach
  | 0, _, m => m
  | fuel + 1, waiting, m =>
    match nextServed m c ((drivenSlots e m c).filter (fun s => !waiting.contains s)) with
    | none => m
    | some slot =>
      let r := serveBurst e c slot (2 ^ 20) (m.modCore c (fun x => { x with lastStream := slot }))
      let k := ((m.stream? c slot).map (fun s => s.ctx)).getD 0
      let m1 := streamFault e r.1 c slot k r.2
      pumpCore e c fuel (if r.2 = .moved then waiting else slot :: waiting) m1

/-- The cores whose Batten engine has something to do. -/
def drivenCores (m : Mach) : List Nat := (m.cores.filter (fun p => p.2.streams.any (fun s => s.2.driven))).map (fun p => p.1)

/-- R278, R284: every Batten engine goes on as far as it can, core by core. -/
def pumpAll (e : Env) (m : Mach) : Mach := (drivenCores m).foldl (fun a c => pumpCore e c (2 ^ 64) [] a) m

/-! ### Records, ends of passes, cancellation -/

def countsReset : StreamCounts :=
  { delivered := 0, useful := 0, wasted := 0, latePops := 0, evicted := 0, histogram := List.replicate 8 0, handles := 0,
    mismatches := 0 }

/-- R274: the 64 bytes of a stream record. -/
def streamRecordBytes (status stop : Nat) (x : StreamCounts) : List Byte :=
  leBytes 4 status ++ leBytes 4 stop ++ leBytes 8 x.delivered ++ leBytes 8 x.useful ++ leBytes 8 x.wasted ++
    leBytes 4 x.latePops ++ leBytes 4 x.evicted ++ (x.histogram.flatMap (leBytes 2)) ++ leBytes 4 x.handles ++
    leBytes 4 x.mismatches

/-- R273: write the record of the pass, then signal the clamp. -/
def endRecord (e : Env) (m : Mach) (c slot : Nat) (s : Stream) (stop : Nat) (abandoned : Bool) : Mach :=
  let st := statusWord { done := !abandoned, nonfinite := s.poisoned, abandoned := abandoned, resumed := s.resumed,
                         late := s.late || (!abandoned && (m.ctx c s.ctx).late), stamp := strokeAt e.k (dieOf c) }
  let m1 := trayWrite m c (stRecordBase s.w) (streamRecordBytes st stop s.counts)
  if stSignal s.w then
    sendSignal m1 { sender := .stream c slot, core := stClampCore s.w, index := stClampIndex s.w, value := 1 }
  else m1

/-- The target rails no longer name the stream. -/
def unnameRails (m : Mach) (c slot : Nat) (w : Word) : Mach :=
  if stDstKind w = 0 then
    (stTargets w).foldl (fun a t => a.modRail t (stRail w) (fun r =>
      if r.prodStream = some (c, slot) then { r with prodStream := none } else r)) m
  else m

/-- The slot is free again. -/
def freeSlot (m : Mach) (c slot : Nat) (w : Word) : Mach := unnameRails (m.dropStream c slot) c slot w

/-- R276: a pass starts from block 0, with its destination from the start. -/
def startPass (s : Stream) : Stream :=
  { s with active := true, src := ⟨0, 0, 0⟩, dst := ⟨0, 0, 0⟩, filling := [], counts := countsReset, poisoned := false,
           badWord := 0, resumed := false, late := false, flight := [], flightPoison := false, faulted := false }

/-- R275, R276: the bases a `REARM` replaces. -/
def rearmBases (w : Word) (old : List Nat) : List Nat :=
  let new := [fld w 127 76, fld w 179 128, fld w 231 180, fld w 283 232]
  (List.range 4).map (fun i => if natBit (fld w 71 68) i then new.getD i 0 else old.getD i 0)

/-- R276: `REARM` acts on a persistent stream that waits. -/
def applyRearm (w : Word) (s : Stream) : Stream :=
  if flag w 72 then
    { s with dstBases := if stDstKind s.w = 2 then rearmBases w s.dstBases else s.dstBases,
             dstBase := if stDstKind s.w = 1 ∧ natBit (fld w 71 68) 0 then fld w 127 76 else s.dstBase }
  else startPass { s with srcBases := rearmBases w s.srcBases }

/-- R273, R276: a pass has delivered its last byte. -/
def passEnds (e : Env) (m : Mach) (c slot : Nat) (s : Stream) : Mach :=
  let m1 := endRecord e m c slot s 0 false
  if !stPersist s.w then freeSlot m1 c slot s.w
  else if s.retirePending then
    freeSlot (endRecord e m1 c slot { s with poisoned := s.poisoned } 2 false) c slot s.w
  else
    match s.rearmHeld with
    | none => m1.setStream c slot { s with active := false }
    | some w => m1.setStream c slot (applyRearm w { s with active := false, rearmHeld := none })

/-- R273: the end of a pass. A stream that writes memory has written it all by then. -/
def streamPassEndM (c slot : Nat) (e : Env) (m : Mach) : Mach :=
  match m.stream? c slot with
  | none => m
  | some s =>
    if !streamLive e m c s || guidedHeld e c s then m
    else
      let r := streamRun e c slot (2 ^ 64) m
      match r.2, r.1.stream? c slot with
      | .ended, some s1 => if s1.relays.isEmpty then passEnds e r.1 c slot s1 else r.1
      | x, _ => streamFault e r.1 c slot s.ctx x

/-- R295: the cancellation of a stream reaches the engine. -/
def markCancel (m : Mach) (c slot : Nat) (x : StreamCancel) : Mach :=
  match m.stream? c slot with
  | none => m
  | some s =>
    match s.cancel with
    | none => m.setStream c slot { s with cancel := some x, late := s.late || x.drop }
    | some y => m.setStream c slot { s with
        cancel := some { y with quiet := y.quiet ++ x.quiet, fenced := y.fenced ++ x.fenced, unbound := y.unbound ++ x.unbound } }

/-- R301: what the stream reads is read and not generated. -/
def Stream.reads (s : Stream) : Bool := stSrcKind s.w != 3

/-- R295 step 3, R301: buffers being filled are released; those of a rail that has been unbound are free already. -/
def dropFilling (e : Env) (o : Nat × Nat × Nat) (r : Nat) (reads : Bool) (gone : Nat → Bool) : List Filling → Mach → Mach
  | [], m => m
  | x :: xs, m =>
    let m1 := if 0 < x.fill && reads then addEvicted m o else m
    dropFilling e o r reads gone xs (if gone x.core then m1 else releaseBuffer e m1 x.core r x.buffer)

/-- R295 step 4: the handles of a stream not yet popped leave a rail of core `t`. -/
def retireOn (e : Env) (o : Nat × Nat × Nat) (r t : Nat) (m : Mach) : Mach :=
  let mine := (m.rail t r).entries.filter (fun x => x.origin == some o && x.h.buffer != 255)
  let m1 := m.modRail t r (fun y => { y with
    entries := y.entries.filter (fun x => !(x.origin == some o && x.h.buffer != 255)),
    consumed := y.consumed + BitVec.ofNat 32 mine.length })
  mine.foldl (fun a x => releaseBuffer e (if x.generated then a else addEvicted a o) t r x.h.buffer) m1

/-- R296: the end marker. -/
def endMarker (o : Nat × Nat × Nat) : Entry :=
  { h := { buffer := 255, length := 0, last := false, cancelled := true, poisoned := false, tag := 0 }, origin := some o,
    spent := false, generated := false, maker := none }

/-- R296: target `t` receives the end marker unless its consumer ended by the same action, its core is fenced or its rail was
unbound. -/
def markTarget (e : Env) (x : StreamCancel) (o : Nat × Nat × Nat) (r t : Nat) (m : Mach) : Mach :=
  if x.fenced.contains t || coreFenced m t || x.unbound.contains (t, r) then m
  else
    match (m.rail t r).consumer with
    | none => m
    | some k => if x.quiet.contains (t, k) then m else pushHandle e m t r (endMarker o)

/-- Bytes of the handles of a stream that no target has popped, one TAG once (R301). -/
def unpopped (m : Mach) (o : Nat × Nat × Nat) (r : Nat) (ts : List Nat) : Nat :=
  let hs := ts.flatMap (fun t => ((m.rail t r).entries.filter (fun x =>
    x.origin == some o && x.h.buffer != 255 && !x.spent)).map (fun x => (x.h.tag, x.h.length)))
  (hs.foldl (fun acc x => if acc.any (fun y => y.1 == x.1) then acc else acc ++ [x]) ([] : List (BitVec 32 × Nat))).foldl
    (fun a x => a + x.2) 0

/-- R301: bytes that a cancellation wastes: reads in flight, the buffer being filled, handles that not every target has popped.
Generated bytes are not read. -/
def cancelWaste (m : Mach) (c slot inFlight : Nat) (s : Stream) (ts : List Nat) : Nat :=
  if s.reads then
    inFlight + s.flight.length + ((s.filling.head?).map (fun f => f.fill)).getD 0 + unpopped m (c, slot, s.gen) (stRail s.w) ts
  else 0

/-- R295, R296, R301: the cancellation sequence of a stream. A stream that writes memory may have written any part of its
bytes (notes/assumptions/17). -/
def cancelSequence (e : Env) (m0 : Mach) (c slot inFlight : Nat) (x : StreamCancel) : Mach :=
  let m := match m0.stream? c slot with
    | some s =>
      if stDstKind s.w ≠ 0 ∧ s.active ∧ ¬ s.faulted then (streamRun e c slot (freeNow m0 % 65536) (freeStep m0)).1 else m0
    | none => m0
  match m.stream? c slot with
  | none => m
  | some s =>
    let o := (c, slot, s.gen)
    let r := stRail s.w
    let ts := if stDstKind s.w = 0 then stTargets s.w else []
    let waste := cancelWaste m c slot inFlight s ts
    let m1 := if waste = 0 then m else addWasted m o waste
    let freed := (s.relays.filter (fun y => y.released)).foldl (fun a y => freeBuffer a y.core r y.buffer)
      (match m1.stream? c slot with
        | some y => m1.setStream c slot { y with relays := [], filling := [], flight := [] }
        | none => m1)
    let m2 := dropFilling e o r s.reads (fun t => x.unbound.contains (t, r)) s.filling freed
    let m3 := ts.foldl (fun a t => retireOn e o r t a) m2
    let m4 := ts.foldl (fun a t => markTarget e x o r t a) m3
    let s1 := (m4.stream? c slot).getD s
    let m5 := freeSlot (endRecord e m4 c slot s1 1 true) c slot s.w
    let quiet := x.quiet.contains (c, s.ctx)
    let m6 := if !x.fenced.isEmpty && !quiet then failCtx e m5 c s.ctx famStream 0x10 else m5
    if !x.unbound.isEmpty && !quiet then failCtx e m6 c s.ctx famClamp 0x15 else m6

/-- R285: target `hop` of a chain relays its oldest filled buffer to the next target. -/
def chainRelayM (c slot hop : Nat) (e : Env) (m : Mach) : Mach :=
  match m.stream? c slot with
  | none => m
  | some s =>
    if s.cancel.isSome then m
    else
      match s.relays.find? (fun x => x.hop == hop), (stTargets s.w)[hop + 1]? with
      | some x, some t =>
        let r := stRail s.w
        let src := bufferAddr (m.pool x.core (m.rail x.core r).pool) x.buffer
        if !(mayTake m t r && decide ((m.rail t r).entries.length < 64)) then m
        else
          match trayBad m x.core [(src, x.h.length)] with
          | some y => failTray e m c s.ctx y
          | none =>
            let a := takeBuffer (trayCount m x.core [(src, x.h.length)]) t r
            let dst := bufferAddr (m.pool t (m.rail t r).pool) a.2
            let m1 := trayWrite a.1 t dst (trayRead m x.core src x.h.length)
            let h := { x.h with buffer := a.2 }
            let left := s.relays.filter (fun y => !(y == x))
            let more := if (stTargets s.w)[hop + 2]?.isSome then
              [{ hop := hop + 1, core := t, buffer := a.2, h := h, released := false : Relay }] else []
            let m2 := pushHandle e (m1.setStream c slot { s with relays := left ++ more }) t r
              { h := h, origin := some (c, slot, s.gen), spent := false, generated := !s.reads,
                maker := none }
            if x.released then wakeRails e (freeBuffer m2 x.core r x.buffer) x.core else m2
      | _, _ => m

/-! ### Guided streams at a boundary (R300) -/

/-- R300: bursts that a guided stream reads ahead of its writes, `n` at most and no more bytes than its staging region holds; they
are staged, and the bytes of them counted. A read that would fault is not made yet. -/
def stageAhead (e : Env) (c : Nat) : Nat → Stream → Nat → Mach → Mach × Nat
  | 0, _, got, m => (m, got)
  | n + 1, s, got, m =>
    match burstStep e m c (stSlot s.w) s with
    | (m1, s1, .moved) =>
      if s.staged < got + s1.flight.length then (m, got)
      else
        let d := deliverNext e m1 c s1 s1.flight.length
        stageAhead e c n d.2.1 (got + s1.flight.length) d.1
    | (_, _, _) => (m, got)

/-- R300: by step 6 a guided stream has moved a free number of pieces and read a free number of bursts ahead, whose bytes are
discarded as waste; it goes on from its oldest unwritten byte (notes/assumptions/17). -/
def discardStaged (e : Env) (c slot : Nat) (m : Mach) : Mach :=
  match m.stream? c slot with
  | none => m
  | some s =>
    if !(stGuided s.w && streamLive e m c s && !s.unread) then m
    else
      let r := streamRun e c slot (freeNow m % 65536) (freeStep m)
      match r.1.stream? c slot with
      | none => r.1
      | some s1 =>
        let a := if s1.flight.isEmpty then stageAhead e c (freeNow r.1 % 65536) s1 0 (freeStep r.1) else (r.1, s1.flight.length)
        let m1 := a.1.setStream c slot { s1 with flight := [] }
        let m2 := if a.2 = 0 ∨ ¬ s.reads then m1 else addWasted m1 (c, slot, s1.gen) a.2
        streamFault e m2 c slot s1.ctx r.2

end Sys2Proof.Machine
end

