-- ==== Sys2Proof/Machine/Operands.lean ====
section
/-! DEFINITION. Validation shared by the commands of a command stream: the head fields, counts at all ones, fields that must
be 0, the clamp of a SIGNAL (R12, R15, R34, R80, R530, R564, notes/assumptions/20). -/

namespace Sys2Proof.Machine

/-- The code of the first check that fails. -/
def firstBad : List (Bool × Nat) → Option Nat
  | [] => none
  | (b, c) :: t => if b then some c else firstBad t

/-- Some bit of one of the ranges `[hi:lo]` is set. -/
def anySet (w : Word) (rs : List (Nat × Nat)) : Bool := rs.any (fun r => fld w r.1 r.2 != 0)

/-- A field of `n` bits at its all-ones value. -/
def allOnes (n x : Nat) : Bool := x == 2 ^ n - 1

/-- R80 and its siblings: CLASS is 0 and the reserved bits of the head and the given ranges are 0. -/
def headBad (w : Word) (rs : List (Nat × Nat)) : Bool := anySet w ((19, 17) :: (31, 20) :: rs)

/-- R564: the clamp of a SIGNAL names a present, unfenced core. -/
def signalChecks (e : Env) (m : Mach) (on : Bool) (core : Nat) : List (Bool × Nat) :=
  [(on && !e.v.hasCore core, cUnitAbsent), (on && coreFenced m core, cUnitFenced)]

/-- The families of the opcodes (R80, R143, R162, R236, R268, R290, R326, R330). -/
def opcodeFamily (op : Nat) : Nat :=
  if op / 16 = 1 then famArray else if op / 16 = 2 then famVector else if op / 16 = 3 then famGather
  else if op / 16 = 4 then famTraversal else if op / 16 = 5 then famStream else if op / 16 = 6 then famClamp
  else famManagement

/-- A range of `rows` rows at a stride, `n` bytes each, reaches beyond the tray. -/
def rowsBeyond (base stride rows n : Nat) : Bool :=
  decide (0 < rows) && decide (0 < n) && decide (trayBytes < base + (rows - 1) * stride + n)

/-- The ranges of such rows. -/
def rowRanges (base stride rows n : Nat) : List (Nat × Nat) :=
  (List.range rows).map (fun i => (base + i * stride, n))

end Sys2Proof.Machine
end

