-- ==== Sys2Proof/Machine/Accum.lean ====
section
/-! DEFINITION. Exact accumulation: placing products and preloads, saturating sums, poison, folds, conversion of drained tiles
(R76 to R79, R82, R86, R96, R101 to R104, R113 to R131). -/

namespace Sys2Proof.Machine

/-! ### The fields of `PASS` (R81) -/

def psContinue (w : Word) : Bool := flag w 8
def psSignal (w : Word) : Bool := flag w 9
def psM (w : Word) : Nat := fld w 71 64
def psN (w : Word) : Nat := fld w 80 72
def psK (w : Word) : Nat := fld w 104 81
def psAFmt (w : Word) : Nat := fld w 108 105
def psBFmt (w : Word) : Nat := fld w 112 109
def psFoldLimit (w : Word) : Nat := fld w 114 113
def psAnchor (w : Word) : Int := signed 10 (fld w 124 115)
def psOut (w : Word) : Nat := fld w 127 125
def psABase (w : Word) : Nat := fld w 146 128 * 64
def psAStride (w : Word) : Nat := fld w 162 147 * 64
def psBBase (w : Word) : Nat := fld w 181 163 * 64
def psBStride (w : Word) : Nat := fld w 197 182 * 64
def psOutBase (w : Word) : Nat := fld w 216 198 * 64
def psOutStride (w : Word) : Nat := fld w 232 217 * 64
def psStatus (w : Word) : Nat := fld w 255 233 * 4
def psAScale (w : Word) : Nat := fld w 274 256 * 64
def psBScale (w : Word) : Nat := fld w 293 275 * 64
def psClampIndex (w : Word) : Nat := fld w 305 294
def psClampCore (w : Word) : Nat := fld w 311 306

/-- R76, R77: 0 native, 1 BF16 or FP16, 2 microscaling, 3 reserved. -/
def fmtClass (f : Nat) : Nat := if f < 7 then 0 else if f = 8 ∨ f = 9 then 1 else if f = 7 then 3 else 2

/-- R76: bits per element. -/
def fmtBits (f : Nat) : Nat :=
  if f = 2 ∨ f = 3 ∨ f = 12 ∨ f = 13 then 6 else if f = 4 ∨ f = 6 ∨ f = 14 then 4
  else if f = 8 ∨ f = 9 then 16 else 8

/-- R76, R120: the value of an element. -/
def fmtValue (f x : Nat) : FVal :=
  let int (n : Nat) (e : Int) : FVal := .fin (decide (signed n x < 0)) (signed n x).natAbs e
  if f = 0 ∨ f = 10 then fdecode fE4M3 x
  else if f = 1 ∨ f = 11 then fdecode fE5M2 x
  else if f = 2 ∨ f = 12 then fdecode fE3M2 x
  else if f = 3 ∨ f = 13 then fdecode fE2M3 x
  else if f = 4 ∨ f = 14 then fdecode fE2M1 x
  else if f = 5 then int 8 0
  else if f = 6 then int 4 0
  else if f = 8 then fdecode fBF16 x
  else if f = 9 then fdecode fFP16 x
  else int 8 (-6)

/-- R78: the rate in slices per four cycles. -/
def psRate4 (w : Word) : Nat :=
  if fmtClass (psAFmt w) = 1 then 1
  else if fmtBits (psAFmt w) ≤ 6 ∧ fmtBits (psBFmt w) ≤ 6 then 8 else 4

/-- R101: the log2 of the fold factor. -/
def psFoldLog2 (w : Word) : Nat :=
  min (psFoldLimit w) (if 128 < psN w then 0 else if 64 < psN w then 1 else if 32 < psN w then 2 else 3)

def psFold (w : Word) : Nat := 2 ^ psFoldLog2 w

/-- R102: slices per column group. -/
def psShare (w : Word) : Nat := ceilDiv (psK w) (psFold w)

/-- R86: bytes of an output value. -/
def outBytes (f : Nat) : Nat := if f = 0 ∨ f = 5 then 4 else if f = 1 ∨ f = 2 then 2 else if f = 6 then 16 else 1

/-- R100: a pass that does nothing but complete. -/
def psEmpty (w : Word) : Bool := psM w == 0 || psN w == 0

/-- R491: the array load of `cells` enabled cells at a rate. -/
def cellLoad (cells rate4 : Nat) : Nat := ceilDiv (cells * (if rate4 = 8 then 5 else if rate4 = 1 then 3 else 4)) 16384

/-- R491: the array load of a pass. -/
def psLoad (w : Word) : Nat := cellLoad (psM w * psN w * psFold w) (psRate4 w)

/-- R87: the cycles of `q` slices per group at a rate. -/
def sliceCycles (rate4 q : Nat) : Nat := ceilDiv (q * 4) rate4

/-- R87: the streaming cycles of `q` slices per group. -/
def streamCycles (w : Word) (q : Nat) : Nat := sliceCycles (psRate4 w) q

/-! ### Sums -/

/-- R115: L in units of u. -/
def accMax : Int := 2 ^ 127 - 1

/-- The image of the poison marker (R115). -/
def poisonImage : Nat := 2 ^ 127

/-- A sum with the flags it sets. -/
structure Acc where
  v : Int
  sat : Bool
  inexact : Bool
  deriving DecidableEq, Repr, Inhabited

def clampAcc (x : Int) (inexact : Bool) : Acc :=
  if accMax < x then { v := accMax, sat := true, inexact := inexact }
  else if x < -accMax then { v := -accMax, sat := true, inexact := inexact }
  else { v := x, sat := false, inexact := inexact }

/-- R119: place a value in the window of an anchor. -/
def placeFin (anchor : Int) (neg : Bool) (m : Nat) (e : Int) : Acc :=
  let s := e - (anchor - 56)
  let t : Nat := if 0 ≤ s then m <<< s.toNat else m >>> (-s).toNat
  let lost := decide (s < 0) && m % 2 ^ (-s).toNat != 0
  clampAcc (if neg then -(t : Int) else (t : Int)) lost

/-- R124: the saturating add. -/
def addAcc (x y : Int) : Acc := clampAcc (x + y) false

/-- Flags of a tile so far. -/
structure TileFlags where
  sat : Bool
  inexact : Bool
  deriving DecidableEq, Repr, Inhabited

/-- R124 to R126: one product into one cell. -/
def cellStep (anchor : Int) (p : Cell × TileFlags) (v : FVal) : Cell × TileFlags :=
  if p.1.poison then p
  else
    match v with
    | .fin n m e =>
      let a := placeFin anchor n m e
      let b := addAcc p.1.acc a.v
      ({ acc := b.v, poison := false },
        { sat := p.2.sat || a.sat || b.sat, inexact := p.2.inexact || a.inexact })
    | _ => ({ p.1 with poison := true }, p.2)

/-- R120, R121, R126: the product of two elements and a scale; not finite when any of the three is not. -/
def product (a b : FVal) (scale : Option Int) : FVal :=
  match a, b, scale with
  | .fin n1 m1 e1, .fin n2 m2 e2, some s => .fin (n1 != n2) (m1 * m2) (e1 + e2 + s)
  | _, _, _ => .nan

/-! ### Reading operands -/

/-- `n` elements of `w` bits packed from an address on. -/
def packed (m : Mach) (c addr w n : Nat) : List Nat :=
  let x := trayNat m c addr (ceilDiv (n * w) 8)
  (List.range n).map (fun i => natBits x (i * w + w - 1) (i * w))

/-- R79, R120, R121: the scale of an E8M0 pair; none when one of them is NaN. -/
def scaleOf (xa xb : Nat) : Option Int :=
  if xa = 255 ∨ xb = 255 then none else some ((xa : Int) - 127 + ((xb : Int) - 127))

/-- The products of slice `k`, row by row. -/
def sliceProducts (m : Mach) (c : Nat) (w : Word) (k : Nat) : List FVal :=
  let as := (packed m c (psABase w + k * psAStride w) (fmtBits (psAFmt w)) (psM w)).map (fmtValue (psAFmt w))
  let bs := (packed m c (psBBase w + k * psBStride w) (fmtBits (psBFmt w)) (psN w)).map (fmtValue (psBFmt w))
  if fmtClass (psAFmt w) = 2 then
    let xa := packed m c (psAScale w + 128 * (k / 32)) 8 (psM w)
    let xb := packed m c (psBScale w + 256 * (k / 32)) 8 (psN w)
    (as.zip xa).flatMap (fun a => (bs.zip xb).map (fun b => product a.1 b.1 (scaleOf a.2 b.2)))
  else as.flatMap (fun a => bs.map (fun b => product a b (some 0)))

/-- Products into the cells of one group. -/
def addSlice (anchor : Int) : List Cell → List FVal → TileFlags → List Cell × TileFlags
  | c :: cs, v :: vs, f =>
    let a := cellStep anchor (c, f) v
    let r := addSlice anchor cs vs a.2
    (a.1 :: r.1, r.2)
  | cs, _, f => (cs, f)

/-- R73, R102: group `g` takes its slice number `t` of a pass, if its share has one. -/
def groupSlice (m : Mach) (c : Nat) (w : Word) (t g : Nat) (cells : List Cell) (f : TileFlags) : List Cell × TileFlags :=
  let k := g * psShare w + t
  if k < min ((g + 1) * psShare w) (psK w) then addSlice (psAnchor w) cells (sliceProducts m c w k) f else (cells, f)

def groupsSlice (m : Mach) (c : Nat) (w : Word) (t : Nat) : Nat → List (List Cell) → TileFlags → List (List Cell) × TileFlags
  | _, [], f => ([], f)
  | g, x :: xs, f =>
    let a := groupSlice m c w t g x f
    let r := groupsSlice m c w t (g + 1) xs a.2
    (a.1 :: r.1, r.2)

/-- `n` slices per group from number `t` on. -/
def streamSlices (m : Mach) (c : Nat) (w : Word) : Nat → Nat → List (List Cell) → TileFlags → List (List Cell) × TileFlags
  | _, 0, gs, f => (gs, f)
  | t, n + 1, gs, f =>
    let a := groupsSlice m c w t 0 gs f
    streamSlices m c w (t + 1) n a.1 a.2

/-- The cells of a tile, group by group. -/
def groupsOf (t : Tile) : List (List Cell) :=
  (List.range t.f).map (fun g => (t.cells.drop (g * (t.m * t.n))).take (t.m * t.n))

/-- R73: slices `from` to `to - 1` of every group of a pass into its tile. -/
def streamTile (m : Mach) (c : Nat) (w : Word) (lo hi : Nat) (t : Tile) : Tile :=
  let r := streamSlices m c w lo (hi - lo) (groupsOf t) { sat := t.sat, inexact := t.inexact }
  { t with cells := r.1.flatten, sat := r.2.sat, inexact := r.2.inexact }

/-- R106: of `n` slices per group from a boundary on, those up to the last k-slice boundary; at two slices a cycle the boundaries
fall between pairs. -/
def toBoundary (w : Word) (n : Nat) : Nat := if psRate4 w = 8 then n / 2 * 2 else n

/-- R97: the tray ranges that slices `lo` to `hi - 1` of every group read. -/
def passReads (w : Word) (lo hi : Nat) : List (Nat × Nat) :=
  if psEmpty w then []
  else
    let ks := (List.range (psFold w)).flatMap (fun g =>
      ((List.range (hi - lo)).map (fun i => g * psShare w + lo + i)).filter (fun k =>
        decide (k < min ((g + 1) * psShare w) (psK w))))
    let an := ceilDiv (psM w * fmtBits (psAFmt w)) 8
    let bn := ceilDiv (psN w * fmtBits (psBFmt w)) 8
    ks.flatMap (fun k =>
      [(psABase w + k * psAStride w, an), (psBBase w + k * psBStride w, bn)] ++
        (if fmtClass (psAFmt w) = 2 then
          [(psAScale w + 128 * (k / 32), psM w), (psBScale w + 256 * (k / 32), psN w)] else []))

/-! ### Preloads (R83, R84, R122) -/

def plRows (w : Word) : Nat := fld w 71 64
def plCols (w : Word) : Nat := fld w 80 72
def plKind (w : Word) : Nat := fld w 83 81
def plFmt (w : Word) : Nat := fld w 86 84
def plBase (w : Word) : Nat := fld w 146 128 * 64
def plStride (w : Word) : Nat := fld w 162 147 * 64

/-- R83: bytes of a source value. -/
def plBytes (w : Word) : Nat := if plFmt w = 4 then 16 else if plFmt w = 1 ∨ plFmt w = 2 then 2 else 4

/-- R84: the tray ranges a preload reads. -/
def preloadReads (w : Word) : List (Nat × Nat) :=
  if plRows w = 0 ∨ plCols w = 0 ∨ plKind w = 0 then []
  else rowRanges (plBase w) (plStride w) (if plKind w = 1 then 1 else plRows w) (plCols w * plBytes w)

/-- The source values of a preload, row by row of its rectangle. -/
def preloadValues (m : Mach) (c : Nat) (w : Word) : List Nat :=
  if plKind w = 0 then List.replicate (plRows w * plCols w) 0
  else
    (List.range (plRows w)).flatMap (fun i =>
      packed m c (plBase w + (if plKind w = 1 then 0 else i * plStride w)) (8 * plBytes w) (plCols w))

/-- R122: one source value in the window of a pass. -/
def placeSource (anchor : Int) (w : Word) (x : Nat) : Cell × TileFlags :=
  let no : TileFlags := { sat := false, inexact := false }
  let fin (v : FVal) : Cell × TileFlags :=
    match v with
    | .fin n m e =>
      let a := placeFin anchor n m e
      ({ acc := a.v, poison := false }, { sat := a.sat, inexact := a.inexact })
    | _ => ({ acc := 0, poison := true }, no)
  if plKind w = 0 then ({ acc := 0, poison := false }, no)
  else if plFmt w = 0 then fin (fdecode fFP32 x)
  else if plFmt w = 1 then fin (fdecode fBF16 x)
  else if plFmt w = 2 then fin (fdecode fFP16 x)
  else if plFmt w = 3 then fin (.fin (decide (signed 32 x < 0)) (signed 32 x).natAbs 0)
  else if x = poisonImage then ({ acc := 0, poison := true }, no)
  else ({ acc := signed 128 x, poison := false }, no)

/-- The source value of cell (i, j), zero outside the preload's rectangle (R84). -/
def preloadAt (p : Preload) (anchor : Int) (i j : Nat) : Cell × TileFlags :=
  if i < plRows p.w ∧ j < plCols p.w then placeSource anchor p.w (p.values.getD (i * plCols p.w + j) 0)
  else ({ acc := 0, poison := false }, { sat := false, inexact := false })

/-- R87, R103, R122: the tile that a pass starts from a preload: the preload stands in group 0 only. -/
def tileFrom (p : Preload) (w : Word) (k : Nat) : Tile :=
  let cells := (List.range (psM w)).flatMap (fun i => (List.range (psN w)).map (fun j => preloadAt p (psAnchor w) i j))
  { ctx := k, m := psM w, n := psN w, f := psFold w, anchored := fmtClass (psAFmt w) != 0, anchor := psAnchor w,
    cells := cells.map (fun x => x.1) ++
      List.replicate ((psFold w - 1) * (psM w * psN w)) { acc := 0, poison := false },
    sat := cells.any (fun x => x.2.sat), inexact := cells.any (fun x => x.2.inexact), resumed := false, w := w,
    pre := p, ended := none }

/-! ### Draining (R91, R104, R130, R131) -/

/-- R104, R124, R126: the merged value of an output, its SAT; none when it is poisoned. -/
def mergeCells : List Cell → Option Acc
  | [] => some { v := 0, sat := false, inexact := false }
  | c :: cs =>
    if c.poison || cs.any (fun x => x.poison) then none
    else
      some (cs.foldl (fun a x => let b := addAcc a.v x.acc; { b with sat := a.sat || b.sat })
        { v := c.acc, sat := false, inexact := false })

/-- R130: the output image of a merged value: bits, SAT, NONFINITE. -/
def convOut (fmt : Nat) (anchor : Int) (x : Option Acc) : Conv :=
  let f : FFmt := if fmt = 0 then fFP32 else if fmt = 1 then fBF16 else if fmt = 2 then fFP16
    else if fmt = 3 then fE4M3 else fE5M2
  match x with
  | none =>
    { bits := if fmt = 5 then 2 ^ 31 else if fmt = 6 then poisonImage else f.nanImage, sat := false, nonfinite := true }
  | some a =>
    if fmt = 6 then { bits := image 128 a.v, sat := a.sat, nonfinite := false }
    else
      let r := if fmt = 5 then convInt 32 (.fin (decide (a.v < 0)) a.v.natAbs (anchor - 56))
        else clampFin f (decide (a.v < 0)) a.v.natAbs (anchor - 56)
      { r with sat := r.sat || a.sat }

/-- The outputs of a tile, row by row. -/
def tileOutputs (t : Tile) : List Conv :=
  (List.range (t.m * t.n)).map (fun p =>
    convOut (psOut t.w) t.anchor (mergeCells ((List.range t.f).map (fun g =>
      t.cells.getD (g * (t.m * t.n) + p) { acc := 0, poison := false }))))

/-- R82: the tray ranges of a tile's outputs and its status word. -/
def tileWrites (t : Tile) : List (Nat × Nat) :=
  rowRanges (psOutBase t.w) (psOutStride t.w) t.m (t.n * outBytes (psOut t.w)) ++ [(psStatus t.w, 4)]

/-- Write the rows of a tile. -/
def writeRows (c : Nat) (base stride n wd : Nat) : Nat → List Nat → Mach → Mach
  | 0, _, m => m
  | k + 1, xs, m =>
    writeRows c (base + stride) stride n wd k (xs.drop n)
      (trayWrite m c base ((xs.take n).flatMap (leBytes wd)))

/-- R91: outputs, then the status word. -/
def drainTile (e : Env) (m : Mach) (c : Nat) (t : Tile) (late : Bool) : Mach :=
  let outs := tileOutputs t
  let m1 := writeRows c (psOutBase t.w) (psOutStride t.w) t.n (outBytes (psOut t.w)) t.m (outs.map (fun x => x.bits)) m
  let st := statusWord { done := true, sat := t.sat || outs.any (fun x => x.sat), inexact := t.inexact,
                         nonfinite := outs.any (fun x => x.nonfinite), resumed := t.resumed, late := late,
                         foldLog2 := Nat.log2 t.f, stamp := strokeAt e.k (dieOf c) }
  trayWrite m1 c (psStatus t.w) (leBytes 4 st)

end Sys2Proof.Machine
end

