-- ==== Sys2Proof/Machine/Chisel.lean ====
section
/-! DEFINITION. The Chisel: types, elementwise operations, the reduction tree, normalisation, blocked softmax, full-width
adds, conversion, chunk by chunk (R138 to R160). -/

namespace Sys2Proof.Machine

/-! ### The fields (R142) -/

def vcSignal (w : Word) : Bool := flag w 8
def vcBcast (w : Word) : Bool := flag w 9
def vcOp (w : Word) : Nat := fld w 71 64
def vcIn (w : Word) : Nat := fld w 75 72
def vcOut (w : Word) : Nat := fld w 79 76
def vcSrc0 (w : Word) : Nat := fld w 98 80 * 64
def vcSrc1 (w : Word) : Nat := fld w 117 99 * 64
def vcSrc2 (w : Word) : Nat := fld w 136 118 * 64
def vcDst (w : Word) : Nat := fld w 155 137 * 64
def vcCount (w : Word) : Nat := fld w 179 156
def vcRows (w : Word) : Nat := fld w 195 180
def vcSrcStride (w : Word) : Nat := fld w 211 196 * 64
def vcDstStride (w : Word) : Nat := fld w 227 212 * 64
def vcImm (w : Word) : Nat := fld w 259 228
def vcClampIndex (w : Word) : Nat := fld w 271 260
def vcClampCore (w : Word) : Nat := fld w 277 272
def vcStatus (w : Word) : Nat := fld w 300 278 * 4
def vcPos (w : Word) : Nat := fld w 322 301

def vcOpcode (w : Word) : Nat := fld w 7 0

/-- R144: bits of an element of a type. -/
def typeBits (t : Nat) : Nat :=
  if t = 0 ∨ t = 8 then 32 else if t = 1 ∨ t = 2 then 16 else if t = 5 ∨ t = 6 then 6 else if t = 7 then 4
  else if t = 10 then 128 else 8

/-- R144: the float format of a type. -/
def typeFmt (t : Nat) : FFmt :=
  if t = 0 then fFP32 else if t = 1 then fBF16 else if t = 2 then fFP16 else if t = 3 then fE4M3
  else if t = 4 then fE5M2 else if t = 5 then fE3M2 else if t = 6 then fE2M3 else fE2M1

/-- R144, R158: the value of an element; `anchor` is for RAW128. -/
def typeValue (t : Nat) (anchor : Int) (x : Nat) : FVal :=
  if t = 8 then .fin (decide (signed 32 x < 0)) (signed 32 x).natAbs 0
  else if t = 9 then .fin (decide (signed 8 x < 0)) (signed 8 x).natAbs 0
  else if t = 10 then
    if x = poisonImage then .nan else .fin (decide (signed 128 x < 0)) (signed 128 x).natAbs (anchor - 56)
  else fdecode (typeFmt t) x

/-- R157. -/
def toType (t : Nat) (v : FVal) : Conv :=
  if t = 8 then convInt 32 v else if t = 9 then convInt 8 v else convFloat (typeFmt t) v

/-- R138: an element widened to FP32. -/
def widen (t x : Nat) : Nat := if t = 0 then x else enc32 (fdecode (typeFmt t) x)

/-- R148. -/
def elemOp (op imm a b c : Nat) : Nat :=
  let r := if op = 0 then f32add a b
    else if op = 1 then f32sub a b
    else if op = 2 then f32mul a b
    else if op = 3 then f32fma a b c
    else if op = 4 then f32max a b
    else if op = 5 then f32min a b
    else if op = 6 then f32add a imm
    else if op = 7 then f32mul a imm
    else if op = 8 then a % 2 ^ 31
    else if op = 9 then a ^^^ 2 ^ 31
    else if op = 10 then f32max a 0
    else f32trans op a
  if isNan32 r then nan32 else r

/-- R148: how many operands an operation reads. -/
def elemArity (op : Nat) : Nat := if op = 3 then 3 else if op < 6 then 2 else 1

/-! ### The reduction tree (R150) -/

/-- The reductions: 0 SUM, 1 MAX, 2 MIN, 3 SUMSQ. A lane's first element. -/
def laneFirst (op x : Nat) : Nat := if op = 3 then f32mul x x else x

/-- A later element `x` into a lane `p`. -/
def laneInto (op p x : Nat) : Nat :=
  if op = 1 then f32max p x else if op = 2 then f32min p x else if op = 3 then f32fma x x p else f32add p x

/-- Two lanes into one. -/
def laneJoin (op p q : Nat) : Nat := if op = 1 then f32max p q else if op = 2 then f32min p q else f32add p q

/-- R151: the reduction of no element. -/
def laneEmpty (op : Nat) : Nat := if op = 1 then 0xFF800000 else if op = 2 then 0x7F800000 else 0

def laneStep (op : Nat) : List Nat → List Nat → List Nat
  | p :: ps, x :: xs => laneInto op p x :: laneStep op ps xs
  | ps, _ => ps

/-- The lane phase: a chunk of at most 256 elements into the lanes; the first chunk makes them. -/
def laneChunk (op : Nat) (ps xs : List Nat) : List Nat :=
  if ps.isEmpty then xs.map (laneFirst op) else laneStep op ps xs

/-- One level of the tree. -/
def treeLevel (op : Nat) : List Nat → List Nat
  | a :: b :: t => laneJoin op a b :: treeLevel op t
  | t => t

def treeUp (op : Nat) : Nat → List Nat → List Nat
  | 0, ps => ps
  | fuel + 1, ps => if ps.length ≤ 1 then ps else treeUp op fuel (treeLevel op ps)

/-- R150: the tree phase; a NaN is written as its one image. -/
def laneTree (op : Nat) (ps : List Nat) : Nat :=
  let r := (treeUp op 9 ps).headD (laneEmpty op)
  if isNan32 r then nan32 else r

/-- A whole number as FP32. -/
def f32ofNat (n : Nat) : Nat := enc32 (.fin false n 0)

/-! ### Chunks of a row in the tray (R159) -/

/-- A chunk: its row, its first element and how many it has, at most 256. -/
structure Chunk where
  row : Nat
  lo : Nat
  n : Nat
  deriving DecidableEq, Repr, Inhabited

/-- Chunk `k` of row `r`. -/
def chunkAt (w : Word) (r k : Nat) : Chunk := { row := r, lo := 256 * k, n := min 256 (vcCount w - 256 * k) }

/-- A whole row. -/
def wholeRow (w : Word) (r : Nat) : Chunk := { row := r, lo := 0, n := vcCount w }

/-- The tray range of a chunk of a row of a type at an address. -/
def chunkSpan (t addr : Nat) (k : Chunk) : Nat × Nat := (addr + k.lo * typeBits t / 8, ceilDiv (k.n * typeBits t) 8)

/-- The elements of a chunk as they stand. -/
def chunkBits (m : Mach) (c t addr : Nat) (k : Chunk) : List Nat := packed m c (chunkSpan t addr k).1 (typeBits t) k.n

/-- The elements of a chunk widened to FP32. -/
def readChunk (m : Mach) (c t addr : Nat) (k : Chunk) : List Nat := (chunkBits m c t addr k).map (widen t)

/-- Elements packed into bytes (R82). -/
def packBits (n : Nat) : List Nat → Nat
  | [] => 0
  | x :: xs => x % 2 ^ n + 2 ^ n * packBits n xs

/-- Write converted elements; bits of a last byte beyond them keep their value. -/
def writeRow (m : Mach) (c t addr : Nat) (xs : List Nat) : Mach :=
  let n := typeBits t * xs.length
  let by8 := ceilDiv n 8
  let keep := trayNat m c addr by8 / 2 ^ n * 2 ^ n
  trayWrite m c addr (leBytes by8 (packBits (typeBits t) xs + keep))

/-- Bytes of a row of a type. -/
def rowBytes (w : Word) (t : Nat) : Nat := ceilDiv (vcCount w * typeBits t) 8

def src0Row (w : Word) (r : Nat) : Nat := vcSrc0 w + r * vcSrcStride w

def src1Row (w : Word) (r : Nat) : Nat := vcSrc1 w + (if vcBcast w then 0 else r * vcSrcStride w)

def dstRow (w : Word) (r : Nat) : Nat := vcDst w + r * vcDstStride w

/-- R143: the state record of row `r`. BCAST1 does not apply to state records, which R143 packs by row (DESIGN CHOICE,
notes/assumptions/66). -/
def stateAt (w : Word) (r : Nat) : Nat := vcSrc1 w + 32 * r

/-- R143, R152: the tray ranges that a chunk reads; `last` in the phase that writes the row. -/
def vecReads (w : Word) (k : Chunk) (last : Bool) : List (Nat × Nat) :=
  let op := vcOpcode w
  let r := k.row
  let s0 := chunkSpan (vcIn w) (src0Row w r) k
  let s1 := chunkSpan (vcIn w) (src1Row w r) k
  let o := chunkSpan 0 (dstRow w r) k
  if op = 0x20 then
    [s0] ++ (if 2 ≤ elemArity (vcOp w) then [s1] else []) ++
      (if elemArity (vcOp w) = 3 then [chunkSpan (vcIn w) (vcSrc2 w + r * vcSrcStride w) k] else [])
  else if op = 0x22 then
    s0 :: (if last then chunkSpan (vcIn w) (vcSrc1 w) k :: (if vcOp w = 0 then [chunkSpan (vcIn w) (vcSrc2 w) k] else [])
           else [])
  else if op = 0x23 then [s0, (stateAt w r, 32)]
  else if op = 0x24 then [s0, (stateAt w r, 32), o]
  else if op = 0x25 then [(stateAt w r, 32), o]
  else if op = 0x26 then [s0, s1]
  else [s0]

/-- R143: the tray range of the destination of row `r`. -/
def vecDst (w : Word) (r : Nat) : Nat × Nat :=
  let op := vcOpcode w
  if op = 0x21 then (vcDst w + 4 * r, 4)
  else if op = 0x24 ∨ op = 0x25 then (dstRow w r, rowBytes w 0)
  else (dstRow w r, rowBytes w (vcOut w))

/-- R156: one full-width add. -/
def wideAdd (a b : Nat) : Conv :=
  if a = poisonImage ∨ b = poisonImage then { bits := poisonImage, sat := false, nonfinite := true }
  else
    let s := addAcc (signed 128 a) (signed 128 b)
    { bits := image 128 s.v, sat := s.sat, nonfinite := false }

/-- FP32 values written as they are. -/
def rawConv (x : Nat) : Conv := { bits := x, sat := false, nonfinite := nonfin32 x }

/-- Why a vector command stops. -/
inductive VecStop where
  | go
  | done
  /-- the number of chunks asked for has been done -/
  | paused
  | tray (addr : Nat)
  | softmax
  deriving DecidableEq, Repr, Inhabited

/-- The chunk is the last of its row. -/
def lastChunk (w : Word) (k : Chunk) : Bool := decide (vcCount w ≤ k.lo + 256)

/-- The safe point after a chunk that ends its phase with `acc`, `stop` and `next`, or after one within it (R159). -/
def EngCmd.atPhase (x : EngCmd) (stop next : Nat) : EngCmd := { x with pos := 0, acc := [], stop := stop, next := next }

def EngCmd.nextRow (x : EngCmd) : EngCmd := { x with item := x.item + 1, pos := 0, acc := [], stop := 0, next := 0 }

def EngCmd.nextChunk (x : EngCmd) (ps : List Nat) : EngCmd := { x with pos := x.pos + 1, acc := ps.map (BitVec.ofNat 32) }

/-- The lanes so far. -/
def EngCmd.lanes (x : EngCmd) : List Nat := x.acc.map (fun v => v.toNat)

/-- Write converted values and gather their flags. -/
def putConv (m : Mach) (c t addr : Nat) (xs : List Conv) (x : EngCmd) : Mach × EngCmd :=
  (writeRow m c t addr (xs.map (fun v => v.bits)),
    { x with sat := x.sat || xs.any (fun v => v.sat), nonfinite := x.nonfinite || xs.any (fun v => v.nonfinite) })

/-- A chunk of results of a command without phases. -/
def putChunk (m : Mach) (c : Nat) (x : EngCmd) (k : Chunk) (t : Nat) (xs : List Conv) : Mach × EngCmd × VecStop :=
  let r := putConv m c t (chunkSpan t (dstRow x.w k.row) k).1 xs x
  (r.1, if lastChunk x.w k then r.2.nextRow else { r.2 with pos := x.pos + 1 }, .go)

/-- R148, R155 to R158: the results of a chunk of a command that has one phase, with their type. -/
def plainChunk (m : Mach) (c : Nat) (w : Word) (k : Chunk) : Nat × List Conv :=
  let op := vcOpcode w
  let r := k.row
  let s0 := readChunk m c (vcIn w) (src0Row w r) k
  let o := readChunk m c 0 (dstRow w r) k
  if op = 0x20 then
    let s1 := if 2 ≤ elemArity (vcOp w) then readChunk m c (vcIn w) (src1Row w r) k else s0
    let s2 := if elemArity (vcOp w) = 3 then readChunk m c (vcIn w) (vcSrc2 w + r * vcSrcStride w) k else s0
    (vcOut w, (s0.zip (s1.zip s2)).map (fun p => toType (vcOut w) (dec32 (elemOp (vcOp w) (vcImm w) p.1 p.2.1 p.2.2))))
  else if op = 0x24 then
    let corr := trayNat m c (stateAt w r + 16) 4
    (0, (o.zip s0).map (fun p => rawConv (f32add (f32mul p.1 corr) p.2)))
  else if op = 0x25 then
    let sum := trayNat m c (stateAt w r + 4) 4
    (0, o.map (fun x => rawConv (if sum % 2 ^ 31 = 0 then 0 else f32div x sum)))
  else if op = 0x26 then
    (10, ((chunkBits m c 10 (src0Row w r) k).zip (chunkBits m c 10 (src1Row w r) k)).map (fun p => wideAdd p.1 p.2))
  else
    (vcOut w, (chunkBits m c (vcIn w) (src0Row w r) k).map (fun x =>
      toType (vcOut w) (typeValue (vcIn w) (signed 10 (vcImm w)) x)))

/-- R150: a chunk of `REDUCE`. -/
def reduceChunk (m : Mach) (c : Nat) (x : EngCmd) (k : Chunk) : Mach × EngCmd × VecStop :=
  let w := x.w
  let ps := laneChunk (vcOp w) x.lanes (readChunk m c (vcIn w) (src0Row w k.row) k)
  if lastChunk w k then
    let r := putConv m c 0 (vcDst w + 4 * k.row) [rawConv (laneTree (vcOp w) ps)] x
    (r.1, r.2.nextRow, .go)
  else (m, x.nextChunk ps, .go)

/-- R152: the phase that writes a row is 2; LAYER sums in phase 0 and squares in phase 1, RMS squares in phase 0. -/
def normWrites (x : EngCmd) : Bool := x.stop == 2

/-- R152: a chunk of `NORM`; `next` holds μ in phase 1, and μ below the factor in phase 2. Gain and bias are read in TYPE_IN, and y
becomes TYPE_OUT as `CONVERT` converts it (R157): R152 states neither (DESIGN CHOICE, notes/assumptions/66). -/
def normChunk (m : Mach) (c : Nat) (x : EngCmd) (k : Chunk) : Mach × EngCmd × VecStop :=
  let w := x.w
  let layer := vcOp w == 0
  let n := f32ofNat (vcCount w)
  let xs := readChunk m c (vcIn w) (src0Row w k.row) k
  let mu := x.next % 2 ^ 32
  let ds := if layer then xs.map (fun v => f32sub v mu) else xs
  if vcCount w = 0 then (m, x.nextRow, .go)
  else if normWrites x then
    let ys := ds.map (fun v => f32mul v (x.next / 2 ^ 32))
    let gs := (ys.zip (readChunk m c (vcIn w) (vcSrc1 w) k)).map (fun p => f32mul p.1 p.2)
    let bs := if layer then (gs.zip (readChunk m c (vcIn w) (vcSrc2 w) k)).map (fun p => f32add p.1 p.2) else gs
    putChunk m c x k (vcOut w) (bs.map (fun v => toType (vcOut w) (dec32 v)))
  else
    let op := if layer ∧ x.stop = 0 then 0 else 3
    let ps := laneChunk op x.lanes (if op = 0 then xs else ds)
    if !lastChunk w k then (m, x.nextChunk ps, .go)
    else
      let q := f32div (laneTree op ps) n
      if op = 0 then (m, x.atPhase 1 q, .go)
      else (m, x.atPhase 2 (mu + 2 ^ 32 * f32trans 0x0E (f32add q (vcImm w))), .go)

/-- R147, R153, R154: a chunk of `SMAX_BLOCK`: phase 0 finds the maximum, phase 1 writes and sums; `next` holds the maximum. MAX, SUM
and CORR are written values too. -/
def smaxChunk (m : Mach) (c : Nat) (x : EngCmd) (k : Chunk) : Mach × EngCmd × VecStop :=
  let w := x.w
  let a := stateAt w k.row
  let mx := trayNat m c a 4
  let sum := trayNat m c (a + 4) 4
  let limit := trayNat m c (a + 12) 4
  if x.stop = 0 ∧ k.lo = 0 ∧ (trayNat m c (a + 8) 4 ≠ vcPos w ∨ 4194304 < limit) then (m, x, .softmax)
  else
    let live := min (vcCount w) (limit - vcPos w)
    let xs := ((readChunk m c (vcIn w) (src0Row w k.row) k).take (live - k.lo)).map (fun v => f32mul v (vcImm w))
    if x.stop = 0 then
      let ps := laneChunk 1 x.lanes xs
      if lastChunk w k then (m, x.atPhase 1 (if live = 0 then mx else f32max mx (laneTree 1 ps)), .go)
      else (m, x.nextChunk ps, .go)
    else
      let top := x.next
      let es := xs.map (fun v => f32trans 0x0B (f32sub v top)) ++ List.replicate (k.n - xs.length) 0
      let ps := laneChunk 0 x.lanes es
      let r := putConv m c (vcOut w) (chunkSpan (vcOut w) (dstRow w k.row) k).1
        (es.map (fun v => toType (vcOut w) (dec32 v))) x
      if lastChunk w k then
        let corr := if live = 0 ∨ (mx = 0xFF800000 ∧ top = 0xFF800000) then 0x3F800000 else f32trans 0x0B (f32sub mx top)
        let sum1 := if live = 0 then sum else f32add (f32mul sum corr) (laneTree 0 ps)
        let written := if live = 0 then [corr] else [top, sum1, corr]
        (trayWrite r.1 c a (leBytes 4 top ++ leBytes 4 sum1 ++ leBytes 4 (vcPos w + vcCount w) ++ leBytes 4 limit ++
          leBytes 4 corr), { r.2 with nonfinite := r.2.nonfinite || written.any nonfin32 }.nextRow, .go)
      else (r.1, r.2.nextChunk ps, .go)

/-- R148 to R159: one chunk of a vector command. Each chunk is read before it is written and after the chunks before it were, so an
in-place command whose TYPE_OUT is wider than its TYPE_IN reads what it has overwritten (R145 allows it and says no more; DESIGN
CHOICE, notes/assumptions/66). -/
def vecStep (m : Mach) (c : Nat) (x : EngCmd) : Mach × EngCmd × VecStop :=
  let w := x.w
  let k := chunkAt w x.item x.pos
  if vcRows w ≤ x.item then (m, x, .done)
  else
    let rs := vecReads w k (normWrites x)
    match trayBad m c rs with
    | some a => (m, x, .tray a)
    | none =>
      let m0 := trayCount m c rs
      if vcOpcode w = 0x21 then reduceChunk m0 c x k
      else if vcOpcode w = 0x22 then normChunk m0 c x k
      else if vcOpcode w = 0x23 then smaxChunk m0 c x k
      else
        let r := plainChunk m0 c w k
        putChunk m0 c x k r.1 r.2

/-- Chunks from the command's resume point on, at most `n`. -/
def vecRun (c : Nat) : Nat → Mach → EngCmd → Mach × EngCmd × VecStop
  | 0, m, x => (m, x, .paused)
  | n + 1, m, x =>
    match vecStep m c x with
    | (m1, y, .go) => vecRun c n m1 y
    | r => r

/-- R147: the status word of a vector command, and its signal. -/
def vecStatus (e : Env) (m : Mach) (c : Nat) (x : EngCmd) (abandoned late : Bool) : Mach :=
  let st := statusWord { done := !abandoned, sat := x.sat, nonfinite := x.nonfinite, abandoned := abandoned,
                         resumed := x.resumed, late := late, stamp := strokeAt e.k (dieOf c) }
  engineSignal (trayWrite m c (vcStatus x.w) (leBytes 4 st)) c .chisel (vcSignal x.w) (vcClampCore x.w) (vcClampIndex x.w)

/-! ### Validation (R142 to R146, R154) -/

def vecTypesOk (w : Word) : Bool :=
  let op := vcOpcode w
  let i := vcIn w
  let o := vcOut w
  if op = 0x26 then i == 10 && o == 10
  else if op = 0x27 then (decide (i ≤ 4) || i == 8 || i == 9 || i == 10) && decide (o ≤ 9)
  else
    decide (i ≤ 2) && (decide (o = 0) || (op != 0x21 && (o == 1 || o == 2)) || (op == 0x23 && (o == 3 || o == 4)))

def vecOpOk (w : Word) : Bool :=
  let op := vcOpcode w
  if op = 0x20 then decide (vcOp w ≤ 0x12) else if op = 0x21 then decide (vcOp w ≤ 3)
  else if op = 0x22 then decide (vcOp w ≤ 1) else vcOp w == 0

/-- R145: every range a command reads or writes lies in the tray. -/
def vecBeyond (w : Word) : Bool :=
  beyondTray (vcStatus w) 4 ||
    (List.range (vcRows w)).any (fun r =>
      ((vecDst w r) :: vecReads w (wholeRow w r) true).any (fun q => beyondTray q.1 q.2))

/-- R145: DST overlaps a source without being the same address with the same stride. A source that is one row for every row, under
BCAST1 or as NORM's gain and bias, has stride 0 (DESIGN CHOICE, notes/assumptions/66). -/
def vecOverlap (w : Word) : Bool :=
  let op := vcOpcode w
  let rows := vcRows w
  let n := rowBytes w (vcIn w)
  let dst := (List.range rows).map (vecDst w)
  let meet (rs : List (Nat × Nat)) : Bool := dst.any (fun d => rs.any (fun r => overlaps d.1 d.2 r.1 r.2))
  let same (base stride : Nat) : Bool := base == vcDst w && stride == (if op = 0x21 then 4 else vcDstStride w)
  let src (on : Bool) (base stride : Nat) : Bool :=
    on && !same base stride && meet (rowRanges base stride rows n)
  let two := op = 0x20 ∧ 2 ≤ elemArity (vcOp w) ∨ op = 0x26
  src (decide (op ≠ 0x25)) (vcSrc0 w) (vcSrcStride w) ||
    src (decide two) (vcSrc1 w) (if vcBcast w then 0 else vcSrcStride w) ||
    src (decide (op = 0x20 ∧ elemArity (vcOp w) = 3)) (vcSrc2 w) (vcSrcStride w) ||
    src (decide (op = 0x22)) (vcSrc1 w) 0 || src (decide (op = 0x22 ∧ vcOp w = 0)) (vcSrc2 w) 0 ||
    (decide (op = 0x23 ∨ op = 0x24 ∨ op = 0x25) && meet (rowRanges (vcSrc1 w) 32 rows 32))

/-- R142 to R146, R154: why a vector command is rejected. POS at all ones is RESERVED_COUNT where POS is a count, in `SMAX_BLOCK`; on
another opcode it is a field that must be 0, which is BOUNDS (DESIGN CHOICE, notes/assumptions/66). -/
def vecChecks (e : Env) (m : Mach) (w : Word) : List (Bool × Nat) :=
  let op := vcOpcode w
  [ (allOnes 24 (vcCount w) || allOnes 16 (vcRows w) || (op == 0x23 && allOnes 22 (vcPos w)), cReservedCount),
    (headBad w [(15, 10), (511, 323)], cBounds),
    (!vecTypesOk w || !vecOpOk w, cBounds),
    (op != 0x23 && vcPos w != 0, cBounds),
    (op == 0x27 && vcIn w != 10 && vcImm w != 0, cBounds),
    (op == 0x23 && decide (4194304 < vcPos w + vcCount w), cBounds),
    (vecBeyond w || vecOverlap w, cBounds) ] ++
  signalChecks e m (vcSignal w) (vcClampCore w)

end Sys2Proof.Machine
end

