-- ==== Sys2Proof/Machine/Marquetry.lean ====
section
/-! DEFINITION. The Marquetry engine: rows, defaults, overlay probes, pooling, keyed sampling, the merge table, item by item
(R161 to R188, R193, R196, R197, R216 to R219). -/

namespace Sys2Proof.Machine

/-! ### Fields of `GATHER` and `POOL` (R164) -/

def gtSignal (w : Word) : Bool := flag w 8
def gtIdx64 (w : Word) : Bool := flag w 9
def gtBagStatus (w : Word) : Bool := flag w 10
def gtTable (w : Word) : Nat := fld w 75 64
def gtMode (w : Word) : Nat := fld w 77 76
def gtWgtBf16 (w : Word) : Bool := flag w 78
def gtOut (w : Word) : Nat := fld w 80 79
def gtIdx (w : Word) : Nat := fld w 114 96 * 64
def gtLen (w : Word) : Nat := fld w 133 115 * 64
def gtWgt (w : Word) : Nat := fld w 152 134 * 64
def gtOutBase (w : Word) : Nat := fld w 171 153 * 64
def gtOutStride (w : Word) : Nat := fld w 187 172 * 64
/-- Also the status pointer of `SAMPLE`, `MERGE` and `MERGE_FLUSH`. -/
def gtStatus (w : Word) : Nat := fld w 210 188 * 4
def gtBagBase (w : Word) : Nat := fld w 229 211 * 64
def gtBags (w : Word) : Nat := fld w 245 230
def gtIndices (w : Word) : Nat := fld w 277 246

/-- Bytes of an index. -/
def gtIdxBytes (w : Word) : Nat := if gtIdx64 w then 8 else 4

def gtWgtBytes (w : Word) : Nat := if gtWgtBf16 w then 2 else 4

/-- R164, R179, R184: the clamp fields of each opcode. -/
def gatClamp (w : Word) : Nat × Nat :=
  let op := fld w 7 0
  if op ≤ 0x31 then (fld w 295 290, fld w 289 278)
  else if op = 0x32 then (fld w 373 368, fld w 367 356) else (fld w 275 270, fld w 269 258)

/-! ### Fields of `SAMPLE` (R179) and of `MERGE`, `MERGE_FLUSH` (R184) -/

def smVid64 (w : Word) : Bool := flag w 9
def smSample (w : Word) : Bool := flag w 10
def smWgtMode (w : Word) : Nat := fld w 12 11
def smVtx (w : Word) : Nat := fld w 114 96 * 64
def smOutIdx (w : Word) : Nat := fld w 133 115 * 64
def smOutLen (w : Word) : Nat := fld w 152 134 * 64
def smOutWgt (w : Word) : Nat := fld w 171 153 * 64
def smK (w : Word) : Nat := fld w 187 172
def smVertices (w : Word) : Nat := fld w 226 211
def smFirst (w : Word) : Nat := fld w 291 228
def smSeed (w : Word) : Nat := fld w 355 292

def mgGradBf16 (w : Word) : Bool := flag w 10
def mgIdx (w : Word) : Nat := fld w 114 96 * 64
def mgRow (w : Word) : Nat := fld w 133 115 * 64
def mgArea (w : Word) : Nat := fld w 152 134 * 64
def mgOvf (w : Word) : Nat := fld w 171 153 * 64
def mgStride (w : Word) : Nat := fld w 187 172 * 64
def mgEntries (w : Word) : Nat := fld w 224 211
def mgIndices (w : Word) : Nat := fld w 257 226

/-- R185: bytes from one entry of the merge area to the next. -/
def mgPitch (d : Nat) : Nat := ceilDiv (4 * dDim d) 64 * 64

/-! ### Rows -/

/-- Why the engine stops. -/
inductive GatStop where
  | go
  | done
  | paused
  | tray (addr : Nat)
  | got (g : Got)
  /-- a read of a header through the drawer cache failed (R387) -/
  | header (g : Got)
  | put (p : Put)
  /-- a rule broken by data that the command reads while it runs (notes/assumptions/21) -/
  | reject (code : Nat)
  deriving DecidableEq, Repr, Inhabited

/-- R193: a lookup is counted. -/
def countLookup (m : Mach) (c t : Nat) (looked invalid hit : Bool) : Mach :=
  m.modCore c (fun x => { x with loads := spMod LoadCount.reset x.loads t (fun y =>
    { y with lookups := y.lookups + bit looked, invalid := y.invalid + bit invalid, hits := y.hits + bit hit,
             lookupsTotal := y.lookupsTotal + bit looked, invalidTotal := y.invalidTotal + bit invalid }) })

/-- R214: the fields of an overlay header. -/
structure Overlay where
  indexBase : Nat
  indexLog2 : Nat
  recordBase : Nat
  recordsLog2 : Nat
  metaBase : Nat
  filterCore : Nat
  filterLog2 : Nat
  filterSel : Bool
  filter0 : Nat
  filter1 : Nat
  salt : Nat
  rows : Nat
  used : Nat
  openTag : Nat
  reserved : Bool
  deriving DecidableEq, Repr, Inhabited

def overlayOf (bs : List Byte) : Overlay :=
  let x := leNat bs
  { indexBase := natBits x 51 0, indexLog2 := natBits x 56 52, recordBase := natBits x 115 64,
    recordsLog2 := natBits x 120 116, metaBase := natBits x 179 128, filterCore := natBits x 197 192,
    filterLog2 := natBits x 202 198, filterSel := natBit x 203, filter0 := natBits x 242 224 * 64,
    filter1 := natBits x 274 256 * 64, salt := natBits x 383 320, rows := natBits x 404 384, used := natBits x 437 416,
    openTag := natBits x 479 448,
    reserved := natBits x 63 57 != 0 || natBits x 127 121 != 0 || natBits x 191 180 != 0 || natBits x 223 204 != 0 ||
      natBits x 255 243 != 0 || natBits x 319 275 != 0 || natBits x 415 405 != 0 || natBits x 447 438 != 0 ||
      natBits x 511 480 != 0 }

/-- R216: the index group of a row. -/
def rowGroup (o : Overlay) (r : Nat) : Nat := mix64 (r ^^^ o.salt) / 2 ^ 24 % 2 ^ (o.indexLog2 - 3)

/-- R217: the tray byte address of a filter word, within a filter, and the two bits of a row. -/
def filterWord (o : Overlay) (r : Nat) : Nat := mix64 (r ^^^ o.salt) / 2 ^ 18 % 2 ^ (o.filterLog2 - 9) * 64

def filterBits (o : Overlay) (r : Nat) : Nat × Nat :=
  (mix64 (r ^^^ o.salt) % 512, mix64 (r ^^^ o.salt) / 512 % 512)

/-- A version at or before another (R199). -/
def tagVisible (t v : Nat) : Bool := t % 2 ^ 32 == v % 2 ^ 32 || precedes32 t v

/-- What a probe answers. -/
inductive Probe where
  | base
  | record (n : Nat)
  | poison
  | tray (addr : Nat)
  | got (g : Got)
  deriving DecidableEq, Repr, Inhabited

/-- R218: the chain of records from `n` with tag `t` on; `fuel` bounds its length by the number of records. -/
def probeChain (e : Env) (c : Nat) (o : Overlay) (v : Nat) : Nat → Nat → Nat → Mach → Mach × Probe
  | 0, _, _, m => (m, .base)
  | fuel + 1, n, t, m =>
    if n = 2 ^ 32 - 1 then (m, .base)
    else if tagVisible t v then (m, .record n)
    else
      match vread e m c (o.metaBase + 16 * n) 16 with
      | (m1, .ok bs p) =>
        if p then (m1, .poison)
        else
          let prev := leNat ((bs.drop 4).take 4)
          if prev = 2 ^ 32 - 1 then (m1, .base)
          else
            match vread e m1 c (o.metaBase + 16 * prev) 16 with
            | (m2, .ok bs2 p2) => if p2 then (m2, .poison) else probeChain e c o v fuel prev (leNat (bs2.take 4)) m2
            | (m2, g) => (m2, .got g)
      | (m1, g) => (m1, .got g)

/-- The bucket of row `r` in a group of eight: HEAD and HEAD_TAG. -/
def findBucket (r : Nat) : List (List Byte) → Option (Nat × Nat)
  | [] => none
  | b :: bs =>
    if leNat (b.take 8) = r then some (leNat ((b.drop 8).take 4), leNat ((b.drop 12).take 4)) else findBucket r bs

/-- R219: the filter of `o` can be read from core `c`. -/
def filterReachable (e : Env) (m : Mach) (c : Nat) (o : Overlay) : Bool :=
  coreIn e m o.filterCore && !(e.k.split && dieOf o.filterCore != dieOf c)

/-- R218, R219: the probe of row `r` for version `v`. -/
def probe (e : Env) (m : Mach) (c : Nat) (o : Overlay) (r v : Nat) : Mach × Probe :=
  let fa := (if o.filterSel then o.filter1 else o.filter0) + filterWord o r
  let bad := if filterReachable e m c o then trayBad m o.filterCore [(fa, 64)] else none
  match bad with
  | some a => (m, .tray a)
  | none =>
    let fb := filterBits o r
    let fw := trayNat m o.filterCore fa 64
    if filterReachable e m c o && !(natBit fw fb.1 && natBit fw fb.2) then (m, .base)
    else
      match vread e m c (o.indexBase + 128 * rowGroup o r) 128 with
      | (m1, .ok bs p) =>
        if p then (m1, .poison)
        else
          match findBucket r (chunks 8 16 bs) with
          | none => (m1, .base)
          | some (h, t) => probeChain e c o v (2 ^ 21 + 1) h t m1
      | (m1, g) => (m1, .got g)

/-- A fetched row with its flags; `zero` is the default row of D values of +0 (R168). -/
structure Row where
  bytes : List Byte
  zero : Bool
  poison : Bool
  defaulted : Bool
  hit : Bool
  deriving DecidableEq, Repr, Inhabited

/-- Why a row could not be fetched, or the row. -/
inductive RowFetch where
  | ok (r : Row)
  | stop (s : GatStop)
  deriving DecidableEq, Repr, Inhabited

def fetchAt (e : Env) (m : Mach) (c va n : Nat) (defaulted hit : Bool) : Mach × RowFetch :=
  match vread e m c va n with
  | (m1, .ok bs p) => (m1, .ok { bytes := bs, zero := false, poison := p, defaulted := defaulted, hit := hit })
  | (m1, g) => (m1, .stop (.got g))

/-- R167, R168, R169: the row that index `i` takes, `missing` when it is the sentinel. -/
def resolveRow (e : Env) (m : Mach) (c d i : Nat) (missing : Bool) : Mach × RowFetch :=
  let n := dRowBytes d
  if missing || decide (dRowCount d ≤ i) then
    if dDefaultKind d then fetchAt e m c (dDefaultAddr d) n true false
    else (m, .ok { bytes := List.replicate n 0, zero := true, poison := false, defaulted := true, hit := false })
  else if dOverlay d then
    match drawerRead e m c (dOverlayPtr d) 64 with
    | (m1, .ok hb p) =>
      if p then (m1, .ok { bytes := List.replicate n 0xFF#8, zero := false, poison := true, defaulted := false, hit := false })
      else
        let o := overlayOf hb
        match probe e m1 c o i (dVersion d) with
        | (m2, .base) => fetchAt e m2 c (dBase d + i * dRowPitch d) n false false
        | (m2, .record r) => fetchAt e m2 c (o.recordBase + r * dRowPitch d) n false true
        | (m2, .poison) => (m2, .ok { bytes := List.replicate n 0xFF#8, zero := false, poison := true, defaulted := false, hit := false })
        | (m2, .tray a) => (m2, .stop (.tray a))
        | (m2, .got g) => (m2, .stop (.got g))
    | (m1, g) => (m1, .stop (.header g))
  else fetchAt e m c (dBase d + i * dRowPitch d) n false false

/-- R170: an element of a row widened to FP32. -/
def rowElem (d x : Nat) : Nat :=
  let f := dFormat d
  if f = 0 then x
  else if f = 1 then widen 1 x
  else if f = 2 then widen 2 x
  else if f = 3 then widen 3 x
  else if f = 4 then widen 4 x
  else f32mul (enc32 (.fin (decide (signed 8 x < 0)) (signed 8 x).natAbs 0)) (dScale d)

/-- R168, R170: the elements of a row in FP32. -/
def rowElems (d : Nat) (r : Row) : List Nat :=
  if r.zero then List.replicate (dDim d) 0 else (chunks (dDim d) (elemBytes (dFormat d)) r.bytes).map (fun x => rowElem d (leNat x))

/-- The sentinel of an index width (R167). -/
def isSentinel (n x : Nat) : Bool := x == 2 ^ (8 * n) - 1

/-- The descriptor the command bound at its issue. -/
def EngCmd.desc (x : EngCmd) : Nat := ((x.bound.head?).map (fun b => b.desc)).getD 0

/-! ### `GATHER` (R175) -/

/-- R173: a per-bag status word. -/
def bagWord (empty defaulted nonfinite sat poisoned hit : Bool) : Nat :=
  bit empty + 2 * bit defaulted + 4 * bit nonfinite + 8 * bit sat + 16 * bit poisoned + 32 * bit hit

def putBag (m : Mach) (c : Nat) (w : Word) (b v : Nat) : Mach :=
  if gtBagStatus w then trayWrite m c (gtBagBase w + 4 * b) (leBytes 4 v) else m

/-- R165: an index of the stream, read from the tray. -/
def readIndex (m : Mach) (c a n : Nat) : Nat ⊕ Nat :=
  match trayBad m c [(a, n)] with
  | some x => .inl x
  | none => .inr (trayNat m c a n)

def gatherStep (e : Env) (m : Mach) (c : Nat) (x : EngCmd) : Mach × EngCmd × GatStop :=
  let w := x.w
  if gtIndices w ≤ x.item then (m, x, .done)
  else
    let a := gtIdx w + x.item * gtIdxBytes w
    match readIndex m c a (gtIdxBytes w) with
    | .inl y => (m, x, .tray y)
    | .inr i =>
      let m0 := trayCount m c [(a, gtIdxBytes w)]
      match resolveRow e m0 c x.desc i (isSentinel (gtIdxBytes w) i) with
      | (m1, .stop s) => (m1, x, s)
      | (m1, .ok r) =>
        let m2 := countLookup m1 c (gtTable w) true r.defaulted r.hit
        let out := if r.poison then List.replicate (dRowBytes x.desc) 0xFF#8 else r.bytes
        let m3 := trayWrite m2 c (gtOutBase w + x.item * gtOutStride w) out
        (putBag m3 c w x.item (bagWord false r.defaulted r.poison false r.poison r.hit),
          { x with item := x.item + 1, nonfinite := x.nonfinite || r.poison }, .go)

/-! ### `POOL` (R170 to R172) -/

/-- The accumulator of an empty bag. -/
def zeroAcc (d : Nat) : List (BitVec 32) := List.replicate (dDim d) 0

/-- R170: one row into the accumulator; `wt` is its weight in WSUM. -/
def poolAdd (wsum : Bool) (wt : Nat) (acc : List (BitVec 32)) (xs : List Nat) : List (BitVec 32) :=
  (acc.zip xs).map (fun p =>
    BitVec.ofNat 32 (if wsum then f32fma wt p.2 p.1.toNat else f32add p.1.toNat p.2))

/-- R170 to R173: write the output of bag `b` of `n` indices, whose flags are the bits of `fl`: 1 defaulted, 2 poisoned,
4 overlay. -/
def poolOut (m : Mach) (c : Nat) (x : EngCmd) (b n fl : Nat) : Mach × Bool × Bool :=
  let w := x.w
  let d := x.desc
  let acc := if x.acc.isEmpty then zeroAcc d else x.acc
  let vals := acc.map (fun v => if gtMode w = 2 ∧ 0 < n then f32div v.toNat (f32ofNat n) else v.toNat)
  let outs := vals.map (fun v => toType (gtOut w) (dec32 v))
  let by8 := typeBits (gtOut w) / 8
  let poison := natBit fl 1
  let bytes := if poison then List.replicate (by8 * dDim d) 0xFF#8 else outs.flatMap (fun o => leBytes by8 o.bits)
  let sat := !poison && outs.any (fun o => o.sat)
  let nf := poison || outs.any (fun o => o.nonfinite)
  let m1 := trayWrite m c (gtOutBase w + b * gtOutStride w) bytes
  (putBag m1 c w b (bagWord (decide (n = 0)) (natBit fl 0) nf sat poison (natBit fl 2)), sat, nf)

/-- One index of a bag, or the end of the bag: `item` is the index, `pos` the bag, `stop` the indices of the bag taken,
`next` the flags of the bag. -/
def poolStep (e : Env) (m : Mach) (c : Nat) (x : EngCmd) : Mach × EngCmd × GatStop :=
  let w := x.w
  if gtBags w ≤ x.pos then (m, x, .done)
  else
    match readIndex m c (gtLen w + 4 * x.pos) 4 with
    | .inl y => (m, x, .tray y)
    | .inr len =>
      if len ≤ x.stop then
        let r := poolOut m c x x.pos len x.next
        (r.1, { x with pos := x.pos + 1, stop := 0, next := 0, acc := [], sat := x.sat || r.2.1,
                       nonfinite := x.nonfinite || r.2.2 }, .go)
      else
        let a := gtIdx w + x.item * gtIdxBytes w
        let wa := gtWgt w + x.item * gtWgtBytes w
        let rs := (a, gtIdxBytes w) :: (if gtMode w = 0 then [(wa, gtWgtBytes w)] else [])
        match trayBad m c rs with
        | some y => (m, x, .tray y)
        | none =>
          let m0 := trayCount m c rs
          let i := trayNat m0 c a (gtIdxBytes w)
          let wt0 := trayNat m0 c wa (gtWgtBytes w)
          let wt := if gtWgtBf16 w then widen 1 wt0 else wt0
          match resolveRow e m0 c x.desc i (isSentinel (gtIdxBytes w) i) with
          | (m1, .stop s) => (m1, x, s)
          | (m1, .ok r) =>
            let acc := if x.acc.isEmpty then zeroAcc x.desc else x.acc
            (countLookup m1 c (gtTable w) true r.defaulted r.hit,
              { x with item := x.item + 1, stop := x.stop + 1,
                       next := x.next ||| (bit r.defaulted + 2 * bit r.poison + 4 * bit r.hit),
                       acc := poolAdd (gtMode w == 0) wt acc (rowElems x.desc r) }, .go)

/-! ### `SAMPLE` (R177, R180 to R183) -/

/-- R182: the positions drawn, in the order in which they are chosen. -/
def drawGo (seed v d k : Nat) : Nat → List Nat → List Nat
  | 0, ch => ch
  | n + 1, ch =>
    let j := d - (n + 1)
    let t := draw64 seed v (j - (d - k)) * (j + 1) / 2 ^ 64
    drawGo seed v d k n (if ch.contains t then j :: ch else t :: ch)

def insertAsc (x : Nat) : List Nat → List Nat
  | [] => [x]
  | y :: ys => if x ≤ y then x :: y :: ys else y :: insertAsc x ys

def sortAsc (xs : List Nat) : List Nat := xs.foldr insertAsc []

/-- R181: the positions of a vertex of degree `d`, ascending, and whether draws were made. -/
def samplePositions (w : Word) (v d : Nat) : List Nat × Bool :=
  let k := smK w
  if smSample w then
    if d ≤ k then (List.range d, false)
    else if k = 0 then ([], false)
    else (sortAsc (drawGo (smSeed w) v d k k []), true)
  else ((List.range (min (smFirst w + k) d - smFirst w)).map (fun i => smFirst w + i), false)

/-- Elements of an array in device memory at given positions; a poisoned one reads as all ones (notes/assumptions/14). -/
def readPositions (e : Env) (c base sz : Nat) : List Nat → Mach → Mach × (List Nat × Bool) ⊕ (Mach × Got)
  | [], m => .inl (m, ([], false))
  | p :: ps, m =>
    match vread e m c (base + p * sz) sz with
    | (m1, .ok bs q) =>
      match readPositions e c base sz ps m1 with
      | .inl (m2, (xs, q2)) => .inl (m2, ((if q then 2 ^ (8 * sz) - 1 else leNat bs) :: xs, q || q2))
      | .inr r => .inr r
    | (m1, g) => .inr (m1, g)

def dWgtBytes (d : Nat) : Nat := if dWgtFmt d = 2 then 2 else 4

def dNbrBytes (d : Nat) : Nat := if dNbrWide d then 8 else 4

/-- R177: the two offsets of a vertex: start and degree, none when they fall; or poison. -/
def vertexSpan (e : Env) (m : Mach) (c d v : Nat) : Mach × (Option (Nat × Nat) × Bool) ⊕ (Mach × Got) :=
  match vread e m c (dBase d + 8 * v) 16 with
  | (m1, .ok bs q) =>
    let a := leNat (bs.take 8)
    let b := leNat ((bs.drop 8).take 8)
    .inl (m1, (if q then none else if b < a then none else some (a, b - a), q))
  | (m1, g) => .inr (m1, g)

/-- Write the outputs of a vertex: `pos` neighbours have been written before it. -/
def putSample (m : Mach) (c : Nat) (x : EngCmd) (ids wts : List Nat) (poison : Bool) : Mach × EngCmd × GatStop :=
  let w := x.w
  let nb := dNbrBytes x.desc
  let m1 := trayWrite m c (smOutIdx w + x.pos * nb) (ids.flatMap (leBytes nb))
  let m2 := if smWgtMode w = 0 then m1 else trayWrite m1 c (smOutWgt w + 4 * x.pos) (wts.flatMap (leBytes 4))
  (trayWrite m2 c (smOutLen w + 4 * x.item) (leBytes 4 ids.length),
    { x with item := x.item + 1, pos := x.pos + ids.length, nonfinite := x.nonfinite || poison }, .go)

def sampleStep (e : Env) (m : Mach) (c : Nat) (x : EngCmd) : Mach × EngCmd × GatStop :=
  let w := x.w
  let d := x.desc
  let vb := if smVid64 w then 8 else 4
  if smVertices w ≤ x.item then (m, x, .done)
  else
    match readIndex m c (smVtx w + x.item * vb) vb with
    | .inl y => (m, x, .tray y)
    | .inr v =>
      if isSentinel vb v || decide (dRowCount d ≤ v) then
        putSample (countLookup m c (gtTable w) false true false) c x [] [] false
      else
        match vertexSpan e m c d v with
        | .inr (m1, g) => (m1, x, .got g)
        | .inl (m1, (none, q)) => putSample (countLookup m1 c (gtTable w) false (!q) false) c x [] [] q
        | .inl (m1, (some (a, deg), _)) =>
          let ps := samplePositions w v deg
          match readPositions e c (dNbrBase d) (dNbrBytes d) (ps.1.map (fun p => a + p)) m1 with
          | .inr (m2, g) => (m2, x, .got g)
          | .inl (m2, (ids, q1)) =>
            if smWgtMode w = 0 then putSample m2 c x ids [] q1
            else
              match readPositions e c (dWgtBase d) (dWgtBytes d) (ps.1.map (fun p => a + p)) m2 with
              | .inr (m3, g) => (m3, x, .got g)
              | .inl (m3, (ws, q2)) =>
                let s := if ps.2 then enc32 (vdiv (.fin false deg 0) (.fin false (smK w) 0)) else 0x3F800000
                let wide := ws.map (fun v => if dWgtFmt d = 2 then widen 1 v else v)
                let out := if smWgtMode w = 2 then wide.map (fun v => f32mul v s) else wide
                putSample m3 c x ids out (q1 || q2)

/-! ### `MERGE` and `MERGE_FLUSH` (R185 to R188) -/

/-- R186: gradient row `n` widened to FP32. -/
def gradRow (m : Mach) (c : Nat) (w : Word) (d n : Nat) : List Nat :=
  let t := if mgGradBf16 w then 1 else 0
  (packed m c (mgRow w + n * mgStride w) (typeBits t) (dDim d)).map (widen t)

def gradBytes (w : Word) (d : Nat) : Nat := dDim d * (if mgGradBf16 w then 2 else 4)

/-- The place of a row in the session's tags. -/
def tagIndex (r : Nat) : Nat → List Nat → Option Nat
  | _, [] => none
  | k, t :: ts => if t = r then some k else tagIndex r (k + 1) ts

def setMerge (m : Mach) (c : Nat) (s : Option MergeSession) : Mach := m.modCore c (fun x => { x with merge := s })

/-- The session the command runs in; a `MERGE` starts one on an empty table. -/
def sessionFor (m : Mach) (c : Nat) (x : EngCmd) : MergeSession :=
  ((m.core c).merge).getD
    { ctx := x.ctx, table := gtTable x.w, area := mgArea x.w, entries := mgEntries x.w, tags := [] }

def mergeStep (m : Mach) (c : Nat) (x : EngCmd) : Mach × EngCmd × GatStop :=
  let w := x.w
  let d := x.desc
  let s := sessionFor m c x
  if mgIndices w ≤ x.item then (setMerge m c (some s), x, .done)
  else
    let a := mgIdx w + x.item * gtIdxBytes w
    let g := (mgRow w + x.item * mgStride w, gradBytes w d)
    match trayBad m c [(a, gtIdxBytes w), g] with
    | some y => (m, x, .tray y)
    | none =>
      let m0 := trayCount m c [(a, gtIdxBytes w), g]
      let i := trayNat m0 c a (gtIdxBytes w)
      let bad := isSentinel (gtIdxBytes w) i || decide (dRowCount d ≤ i)
      let m1 := countLookup m0 c (gtTable w) true bad false
      let y := { x with item := x.item + 1 }
      if bad then (setMerge m1 c (some s), y, .go)
      else
        match tagIndex i 0 s.tags with
        | some k =>
          let ea := mgArea w + k * mgPitch d
          match trayBad m1 c [(ea, 4 * dDim d)] with
          | some z => (m1, x, .tray z)
          | none =>
            let old := packed m1 c ea 32 (dDim d)
            let new := (old.zip (gradRow m1 c w d x.item)).map (fun p => f32add p.1 p.2)
            (setMerge (trayWrite m1 c ea (new.flatMap (leBytes 4))) c (some s), y, .go)
        | none =>
          if s.tags.length < s.entries then
            let m2 := trayWrite m1 c (mgArea w + s.tags.length * mgPitch d)
              ((gradRow m1 c w d x.item).flatMap (leBytes 4))
            (setMerge m2 c (some { s with tags := s.tags ++ [i] }), y, .go)
          else
            (setMerge (trayWrite m1 c (mgOvf w + 4 * x.pos) (leBytes 4 x.item)) c (some s),
              { y with pos := x.pos + 1 }, .go)

def flushStep (m : Mach) (c : Nat) (x : EngCmd) : Mach × EngCmd × GatStop :=
  let w := x.w
  let d := x.desc
  let tags := (((m.core c).merge).map (fun s => s.tags)).getD []
  match tags[x.item]? with
  | none => (setMerge m c none, { x with pos := tags.length }, .done)
  | some t =>
    let ea := mgArea w + x.item * mgPitch d
    match trayBad m c [(ea, 4 * dDim d)] with
    | some z => (m, x, .tray z)
    | none =>
      let m1 := trayWrite m c (mgIdx w + 8 * x.item) (leBytes 8 t)
      (trayWrite m1 c (mgRow w + x.item * mgStride w) (trayRead m c ea (4 * dDim d)), { x with item := x.item + 1 }, .go)

/-! ### Running a command -/

def gatStep (e : Env) (m : Mach) (c : Nat) (x : EngCmd) : Mach × EngCmd × GatStop :=
  let op := fld x.w 7 0
  if op = 0x30 then gatherStep e m c x else if op = 0x31 then poolStep e m c x
  else if op = 0x32 then sampleStep e m c x else if op = 0x33 then mergeStep m c x else flushStep m c x

/-- At most `n` items from the resume point on. -/
def gatRun (e : Env) (c : Nat) : Nat → Mach → EngCmd → Mach × EngCmd × GatStop
  | 0, m, x => (m, x, .paused)
  | n + 1, m, x =>
    match gatStep e m c x with
    | (m1, y, .go) => gatRun e c n m1 y
    | r => r

/-- R174, R186, R188: the status word, the count after it, and the signal. -/
def gatStatus (e : Env) (m : Mach) (c : Nat) (x : EngCmd) (abandoned late : Bool) : Mach :=
  let st := statusWord { done := !abandoned, sat := x.sat, nonfinite := x.nonfinite, abandoned := abandoned,
                         resumed := x.resumed, late := late, stamp := strokeAt e.k (dieOf c) }
  let op := fld x.w 7 0
  let m1 := trayWrite m c (gtStatus x.w) (leBytes 4 st)
  let m2 := if 0x33 ≤ op ∧ !abandoned then trayWrite m1 c (gtStatus x.w + 4) (leBytes 4 x.pos) else m1
  engineSignal m2 c .marquetry (gtSignal x.w) (gatClamp x.w).1 (gatClamp x.w).2

/-! ### Validation (R162, R164, R166, R180, R185) -/

/-- R166: a length of the length stream holds all ones; the sum of the lengths. -/
def lengths (m : Mach) (c : Nat) (w : Word) : List Nat := packed m c (gtLen w) 32 (gtBags w)

/-- R165: the source streams of `GATHER` and `POOL`. -/
def gtSources (w : Word) : List (Nat × Nat) :=
  let pool := fld w 7 0 == 0x31
  (gtIdx w, gtIndices w * gtIdxBytes w) ::
    (if pool then (gtLen w, 4 * gtBags w) :: (if gtMode w = 0 then [(gtWgt w, gtIndices w * gtWgtBytes w)] else []) else [])

/-- R165: the output rows and per-bag words. -/
def gtOutputs (w : Word) (d : Nat) : List (Nat × Nat) :=
  let pool := fld w 7 0 == 0x31
  let rows := if pool then gtBags w else gtIndices w
  rowRanges (gtOutBase w) (gtOutStride w) rows (if pool then dDim d * (typeBits (gtOut w) / 8) else dRowBytes d) ++
    (if gtBagStatus w then [(gtBagBase w, 4 * rows)] else [])

def overlapAny (xs ys : List (Nat × Nat)) : Bool := xs.any (fun a => ys.any (fun b => overlaps a.1 a.2 b.1 b.2))

/-- Every two ranges of a list are apart. -/
def anyPair : List (Nat × Nat) → Bool
  | [] => false
  | x :: xs => overlapAny [x] xs || anyPair xs

/-- R164, R166: why a `GATHER` or `POOL` is rejected. The output ranges that may not overlap a source stream are the output rows and
the per-bag words; the status word is none of them (DESIGN CHOICE, notes/assumptions/67). -/
def gatherChecks (e : Env) (m : Mach) (c : Nat) (w : Word) : List (Bool × Nat) :=
  let d := descOn m (dieOf c) (gtTable w)
  let pool := fld w 7 0 == 0x31
  let wsum := pool && gtMode w == 0
  [ (allOnes 32 (gtIndices w) || (pool && allOnes 16 (gtBags w)), cReservedCount),
    (headBad w [(15, 11), (95, 81), (511, 296)], cBounds),
    (!pool && (gtMode w != 0 || gtWgtBf16 w || gtOut w != 0 || gtLen w != 0 || gtWgt w != 0 || gtBags w != 0), cBounds),
    (pool && (gtMode w == 3 || gtOut w == 3), cBounds),
    (pool && !wsum && (gtWgtBf16 w || gtWgt w != 0), cBounds),
    (!gtBagStatus w && gtBagBase w != 0, cBounds),
    (dKind d != 1, cBounds),
    (pool && dFormat d == 6, cBounds),
    ((gtSources w ++ gtOutputs w d ++ [(gtStatus w, 4)]).any (fun r => beyondTray r.1 r.2), cBounds),
    (overlapAny (gtOutputs w d) (gtSources w), cBounds),
    (pool && (lengths m c w).any (allOnes 32), cReservedCount),
    (pool && (lengths m c w).sum != gtIndices w, cBounds) ] ++
  signalChecks e m (gtSignal w) (gatClamp w).1

def sampleChecks (e : Env) (m : Mach) (c : Nat) (w : Word) : List (Bool × Nat) :=
  let d := descOn m (dieOf c) (gtTable w)
  let worst := smVertices w * smK w
  [ (allOnes 16 (smK w) || allOnes 16 (smVertices w) || (!smSample w && allOnes 64 (smFirst w)), cReservedCount),
    (headBad w [(15, 13), (95, 76), (227, 227), (511, 374)], cBounds),
    (smWgtMode w == 3 || (smWgtMode w == 0 && smOutWgt w != 0), cBounds),
    (smSample w && (decide (256 < smK w) || smFirst w != 0), cBounds),
    (!smSample w && smSeed w != 0, cBounds),
    (dKind d != 2, cBounds),
    (smWgtMode w != 0 && dWgtFmt d == 0, cBounds),
    ([(smVtx w, smVertices w * (if smVid64 w then 8 else 4)), (smOutLen w, 4 * smVertices w),
      (smOutIdx w, worst * dNbrBytes d), (smOutWgt w, if smWgtMode w = 0 then 0 else 4 * worst),
      (gtStatus w, 4)].any (fun r => beyondTray r.1 r.2), cBounds) ] ++
  signalChecks e m (gtSignal w) (gatClamp w).1

/-- R185: the session that a merge command of context `k` will find: that of the last merge command it has queued, or the
one that stands. -/
def sessionAhead (m : Mach) (c k : Nat) : Option (Nat × Nat × Nat) :=
  match ((m.core c).gat.filter (fun x => x.ctx == k && decide (0x33 ≤ fld x.w 7 0))).getLast? with
  | some x => if fld x.w 7 0 = 0x33 then some (gtTable x.w, mgArea x.w, mgEntries x.w) else none
  | none =>
    match (m.core c).merge with
    | some s => if s.ctx = k then some (s.table, s.area, s.entries) else none
    | none => none

/-- R185: the regions of a merge command. -/
def mergeRegions (w : Word) (d : Nat) : List (Nat × Nat) :=
  let fl := fld w 7 0 == 0x34
  let rows := if fl then mgEntries w else mgIndices w
  let rb := if fl then 4 * dDim d else gradBytes w d
  let rowSpan := if rows = 0 then 0 else (rows - 1) * mgStride w + rb
  [(mgArea w, mgEntries w * mgPitch d),
   (mgIdx w, if fl then 8 * mgEntries w else mgIndices w * gtIdxBytes w),
   (mgRow w, rowSpan),
   (mgOvf w, if fl then 0 else 4 * mgIndices w),
   (gtStatus w, 8)]

def mergeChecks (e : Env) (m : Mach) (c k : Nat) (w : Word) : List (Bool × Nat) :=
  let d := descOn m (dieOf c) (gtTable w)
  let fl := fld w 7 0 == 0x34
  [ (!e.v.train, cUnitAbsent),
    (allOnes 14 (mgEntries w) || (!fl && allOnes 32 (mgIndices w)), cReservedCount),
    (headBad w [(15, 11), (95, 76), (225, 225), (511, 276)], cBounds),
    (fl && (gtIdx64 w || mgGradBf16 w || mgOvf w != 0 || mgIndices w != 0), cBounds),
    (mgEntries w == 0 || decide (8192 < mgEntries w), cBounds),
    (dKind d != 1 || dFormat d == 6, cBounds),
    ((mergeRegions w d).any (fun r => beyondTray r.1 r.2), cBounds),
    (anyPair (mergeRegions w d), cBounds),
    (match sessionAhead m c k with
      | some s => s != (gtTable w, mgArea w, mgEntries w)
      | none => false, cBounds) ] ++
  signalChecks e m (gtSignal w) (gatClamp w).1

def gatChecks (e : Env) (m : Mach) (c k : Nat) (w : Word) : List (Bool × Nat) :=
  let op := fld w 7 0
  if op ≤ 0x31 then gatherChecks e m c w else if op = 0x32 then sampleChecks e m c w else mergeChecks e m c k w

/-- The tray ranges that validation itself reads (R166). -/
def gatCheckReads (w : Word) : List (Nat × Nat) := if fld w 7 0 = 0x31 then [(gtLen w, 4 * gtBags w)] else []

end Sys2Proof.Machine
end

