-- ==== Sys2Proof/Machine/MortiseArray.lean ====
section
/-! DEFINITION. The Mortise array of a core: its queue, fills, swaps, preloads, drains, abandonment and the validation of its
commands (R72 to R112, R499). -/

namespace Sys2Proof.Machine

def Mach.arr (m : Mach) (c : Nat) : ArrayUnit := (m.core c).arr

def Mach.modArr (m : Mach) (c : Nat) (f : ArrayUnit → ArrayUnit) : Mach :=
  m.modCore c (fun x => { x with arr := f x.arr })

/-- R490, R494: the admitted array load. -/
def arrayClass (m : Mach) (c : Nat) : Nat := natBits (m.core c).admitted 3 0

/-- R51, R52: the context's work is late. -/
def lateWork (m : Mach) (c k : Nat) : Bool := (m.ctx c k).late

/-! ### Who holds the array, and what is not complete -/

/-- R105: the contexts whose work stands in the array: a pass, a set, a drain, or a `SEARCH` that has had its first pass (R246). -/
def arrayOccupants (m : Mach) (c : Nat) : List Nat :=
  let a := m.arr c
  (a.streaming.toList.map (fun s => s.cmd.ctx)) ++ (a.active.toList.map (fun t => t.ctx)) ++
    (a.activeRaw.toList.map (fun p => p.ctx)) ++ (a.preload.toList.map (fun p => p.ctx)) ++
    (a.draining.toList.map (fun t => t.ctx)) ++
    (((m.core c).scr.filter (fun x => x.search.any (fun s => s.holds))).map (fun x => x.ctx))

/-- R105: the contexts with work in the array or commands queued for it. -/
def arrayHolders (m : Mach) (c : Nat) : List Nat := (m.arr c).queue.map (fun q => q.ctx) ++ arrayOccupants m c

/-- R311: array commands of a context issued and not complete. A `PASS` is complete when its streaming ends, a `PRELOAD`
when it has loaded, a `DRAIN` when its drain has ended (R94; notes/assumptions/23). -/
def arrayIssued (m : Mach) (c k : Nat) : Nat :=
  let a := m.arr c
  (a.queue.filter (fun q => q.ctx == k)).length + bit (a.streaming.any (fun s => s.cmd.ctx == k)) +
    bit (a.preload.any (fun p => p.ctx == k && !p.loaded)) + bit (a.drainCmd && a.draining.any (fun t => t.ctx == k))

/-- R317: nothing of the context is incomplete in the array; a drain in progress is incomplete. -/
def arrayIdle (m : Mach) (c k : Nat) : Bool :=
  arrayIssued m c k == 0 && !((m.arr c).draining.any (fun t => t.ctx == k))

/-! ### Status words -/

/-- R91, R564: the completion signal of a pass. -/
def passSignal (m : Mach) (c : Nat) (w : Word) : Mach :=
  engineSignal m c .array (psSignal w) (psClampCore w) (psClampIndex w)

/-- R111, R112: the status word of an abandoned tile. -/
def abandonTile (e : Env) (m : Mach) (c : Nat) (t : Tile) (late : Bool) : Mach :=
  let st := statusWord { sat := t.sat, inexact := t.inexact, abandoned := true, resumed := t.resumed, late := late,
                         foldLog2 := Nat.log2 t.f, stamp := strokeAt e.k (dieOf c) }
  passSignal (trayWrite m c (psStatus t.w) (leBytes 4 st)) c t.w

/-- R111, R327: the status word of a `PASS` that is abandoned before it has streamed. -/
def abandonPass (e : Env) (c : Nat) (late : Bool) (m : Mach) (q : ArrCmd) : Mach :=
  if fld q.w 7 0 = 0x10 then
    let st := statusWord { abandoned := true, late := late, foldLog2 := if psEmpty q.w then 0 else psFoldLog2 q.w,
                           stamp := strokeAt e.k (dieOf c) }
    passSignal (trayWrite m c (psStatus q.w) (leBytes 4 st)) c q.w
  else m

/-- R100: a `PASS` with M = 0 or N = 0 completes with the stamp of its issue stroke. It carries LATE when its context's work is late,
which R127 says of tiles only (the model's choice; notes/assumptions/65). -/
def passNothing (m : Mach) (c : Nat) (q : ArrCmd) : Mach :=
  let st := statusWord { done := true, late := lateWork m c q.ctx, stamp := q.stroke }
  passSignal (trayWrite m c (psStatus q.w) (leBytes 4 st)) c q.w

/-! ### The queue -/

/-- R88: the inactive set has finished its background work, and no pass streams. A drain in place holds the active set too
(notes/assumptions/24). -/
def setsQuiet (a : ArrayUnit) : Bool :=
  a.streaming.isNone && a.draining.isNone && !(a.preload.any (fun p => !p.loaded))

/-- R93: the swap without fill. -/
def swapSets (a : ArrayUnit) : ArrayUnit :=
  { a with draining := a.active, active := none, activeRaw := a.preload, preload := none, drainCmd := false }

/-- What the head of the queue does when it needs no event of its own; none when it waits. -/
def arrayHead (m : Mach) (c : Nat) : Option Mach :=
  let a := m.arr c
  match a.queue with
  | [] => none
  | q :: rest =>
    let op := fld q.w 7 0
    if (arrayOccupants m c).any (fun k => k != q.ctx) then none
    else if op = 0x11 then
      if a.preload.any (fun p => !p.loaded) then none
      else
        let p : Preload := { ctx := q.ctx, w := q.w, loaded := false, values := [], after := a.draining.isSome }
        some (m.modArr c (fun x => { x with queue := rest, preload := some p }))
    else if op = 0x12 then
      if setsQuiet a && a.preload.isSome then some (m.modArr c (fun x => { swapSets x with queue := rest })) else none
    else if op = 0x13 then
      if a.streaming.isNone && a.active.isNone then some (m.modArr c (fun x => { x with queue := rest, activeRaw := none }))
      else if a.streaming.isNone && a.draining.isNone then
        some (m.modArr c (fun x => { x with queue := rest, draining := x.active, active := none, drainCmd := true }))
      else none
    else if psEmpty q.w then some (passNothing (m.modArr c (fun x => { x with queue := rest })) c q)
    else none

/-- Heads that need no event of their own, one after another. -/
def arrayGo (c : Nat) : Nat → Mach → Mach
  | 0, m => m
  | n + 1, m =>
    match arrayHead m c with
    | none => m
    | some m1 => arrayGo c n m1

/-- The array goes on as far as it can without waiting. -/
def arrayAdvance (e : Env) (m : Mach) (c : Nat) : Mach :=
  if coreClocked e m c then arrayGo c (m.arr c).queue.length m else m

/-- R87, R88: fill and swap of the `PASS` at the head of the queue; without one that may fill, nothing happens. -/
def passFillM (e : Env) (m : Mach) (c : Nat) : Mach :=
  let a := m.arr c
  match a.queue with
  | [] => m
  | q :: rest =>
    if !(coreClocked e m c && fld q.w 7 0 == 0x10 && !psEmpty q.w && setsQuiet a && decide (0 < arrayClass m c)) then m
    else
      let run : Streaming := { cmd := q, streamed := 0 }
      if psContinue q.w then
        match a.active, a.activeRaw with
        | some t, _ => m.modArr c (fun x => { x with queue := rest, streaming := some run, active := some { t with w := q.w } })
        | none, some p =>
          m.modArr c (fun x => { x with queue := rest, streaming := some run, activeRaw := none,
                                        active := some (tileFrom p q.w q.ctx) })
        | none, none => m
      else
        match a.preload with
        | some p =>
          m.modArr c (fun x => { x with queue := rest, streaming := some run, draining := x.active, activeRaw := none,
                                        active := some (tileFrom p q.w q.ctx), preload := none, drainCmd := false })
        | none => m

/-- R92: the drain in progress still has to write some of the bytes read. -/
def readsHeld (a : ArrayUnit) (rs : List (Nat × Nat)) : Bool :=
  a.draining.any (fun t => overlapAny rs (tileWrites t))

/-- R499: the idle cycles that stretch `kc` cycles of load `u` to the admitted class, under a guard (R500) to at most every other
cycle. -/
def idleFor (m : Mach) (c u kc : Nat) : Nat :=
  let a := arrayClass m c
  let byClass := if a < u ∧ 0 < a then ceilDiv (kc * u) a - kc else 0
  if (if dieOf c = 0 then m.power.guard0 || m.power.hot0 else m.power.guard1 || m.power.hot1) then max byClass kc else byClass

/-- R499: those of `q` slices of a pass. -/
def stretchIdle (m : Mach) (c : Nat) (w : Word) (q : Nat) : Nat := idleFor m c (psLoad w) (streamCycles w q)

/-- R469, R499: inserted idle cycles count in 0x0200.21 and under THROTTLE of the core's array. -/
def countIdle (m : Mach) (c n : Nat) : Mach :=
  let m1 := { m with power := { m.power with idleCycles := m.power.idleCycles + BitVec.ofNat 64 n } }
  m1.modCore c (fun x => { x with stalls := spMod (0, 0) x.stalls 15 (fun p => (p.1 + BitVec.ofNat 32 n, p.2)) })

/-- R87, R102, R499: the pass that streams has taken its slices up to number `hi` of every group into the tile `t`. -/
def streamOn (m : Mach) (c : Nat) (s : Streaming) (hi : Nat) (t : Tile) : Mach × Tile :=
  let w := s.cmd.w
  let m1 := trayCount m c (passReads w s.streamed hi)
  (countIdle m1 c (stretchIdle m1 c w (hi - s.streamed)), streamTile m1 c w s.streamed hi t)

/-- R87, R102: the pass that streams has streamed its last slice. -/
def passEndM (e : Env) (m : Mach) (c : Nat) : Mach :=
  let a := m.arr c
  match a.streaming, a.active with
  | some s, some t =>
    let w := s.cmd.w
    let q := psShare w
    let rs := passReads w s.streamed q
    if !coreClocked e m c || arrayClass m c == 0 || readsHeld a rs || (m.ctx c s.cmd.ctx).saving.contains .array then m
    else
      match trayBad m c rs with
      | some x => failTray e m c s.cmd.ctx x
      | none =>
        let r := streamOn m c s q t
        arrayAdvance e (r.1.modArr c (fun x => { x with streaming := none, active := some r.2 })) c
  | _, _ => m

/-- R84, R122: the preload `p` reads its source. -/
def loadPreload (e : Env) (m : Mach) (c : Nat) (p : Preload) : Mach :=
  match trayBad m c (preloadReads p.w) with
  | some x => failTray e m c p.ctx x
  | none =>
    let m1 := trayCount m c (preloadReads p.w)
    m1.modArr c (fun x => { x with preload := some { p with loaded := true, values := preloadValues m1 c p.w } })

/-- R84, R89, R92: the preload in progress has loaded; only a drain that was there before it holds its reads. -/
def preloadEndM (e : Env) (m : Mach) (c : Nat) : Mach :=
  let a := m.arr c
  match a.preload with
  | some p =>
    if p.loaded || !coreClocked e m c || (p.after && readsHeld a (preloadReads p.w)) then m
    else arrayAdvance e (loadPreload e m c p) c
  | none => m

/-- R92: tray order the other way: a preload that is older than the drain has read what the drain is about to overwrite. -/
def readAhead (e : Env) (m : Mach) (c : Nat) : Mach :=
  let a := m.arr c
  match a.preload with
  | some p => if !p.loaded && !p.after && readsHeld a (preloadReads p.w) then loadPreload e m c p else m
  | none => m

/-- R91, R127: the drain in progress has ended: outputs, status word, signal. LATE is that of the tile's own work. -/
def drainEndM (e : Env) (m0 : Mach) (c : Nat) : Mach :=
  let m := readAhead e m0 c
  match (m.arr c).draining with
  | some t =>
    if !coreClocked e m c then m0
    else
      let m1 := passSignal (drainTile e m c t (t.ended.getD (lateWork m c t.ctx))) c t.w
      arrayAdvance e (m1.modArr c (fun x => { x with draining := none, drainCmd := false })) c
  | none => m0

/-! ### Abandonment (R111, R112) -/

/-- R111, R125: the slices that a pass has streamed when it is abandoned are a free prefix (notes/assumptions/30), before any slice
whose operand is uncorrectable; they have set the tile's flags. -/
def streamPrefix (m : Mach) (c : Nat) (s : Streaming) (t : Tile) : Mach × Tile :=
  let n := toBoundary s.cmd.w (freeNow m % (psShare s.cmd.w - s.streamed + 1))
  let good (i : Nat) : Bool := (trayBad m c (passReads s.cmd.w s.streamed (s.streamed + i))).isNone
  streamOn (freeStep m) c s (s.streamed + if good n then n else ((List.range n).filter good).foldl max 0) t

/-- R111, R327: the array's work of context `k` is abandoned: its tile, then each `PASS` that has not streamed. A drain in progress
completes normally. -/
def abandonArray (e : Env) (m : Mach) (c k : Nat) (late : Bool) : Mach :=
  let a := m.arr c
  let m1 := match a.active, a.streaming with
    | some t, some s =>
      if t.ctx = k then
        let r := streamPrefix m c s t
        abandonTile e r.1 c r.2 late
      else m
    | some t, none => if t.ctx = k then abandonTile e m c t late else m
    | none, _ => m
  let m2 := (a.queue.filter (fun q => q.ctx == k)).foldl (abandonPass e c late) m1
  let was := late || lateWork m c k
  m2.modArr c (fun x =>
    { x with
      draining := x.draining.map (fun t => if t.ctx = k ∧ t.ended.isNone then { t with ended := some was } else t),
      queue := x.queue.filter (fun q => q.ctx != k),
      streaming := x.streaming.filter (fun s => s.cmd.ctx != k),
      active := x.active.filter (fun t => t.ctx != k),
      activeRaw := x.activeRaw.filter (fun p => p.ctx != k),
      preload := x.preload.filter (fun p => p.ctx != k),
      preloaded := x.preloaded.filter (fun j => j != k) })

/-! ### Validation (R80 to R86, R96, R100) -/

/-- What the active set will hold for context `k` when its queued commands have run: nothing, a raw set of `SWAP`, or a tile
of some shape. -/
inductive Foreseen where
  | empty
  | raw
  | tile (m n f : Nat) (anchored : Bool) (anchor : Int)
  deriving DecidableEq, Repr, Inhabited

def foreseenTile (w : Word) : Foreseen :=
  .tile (psM w) (psN w) (psFold w) (fmtClass (psAFmt w) != 0) (psAnchor w)

def foreseeStep (f : Foreseen) (w : Word) : Foreseen :=
  let op := fld w 7 0
  if op = 0x12 then .raw
  else if op = 0x13 then .empty
  else if op = 0x11 ∨ psEmpty w then f
  else if psContinue w then (if f = .raw then foreseenTile w else f)
  else foreseenTile w

def foresee (m : Mach) (c k : Nat) : Foreseen :=
  let a := m.arr c
  let now : Foreseen :=
    match a.active, a.activeRaw with
    | some t, _ => if t.ctx = k then .tile t.m t.n t.f t.anchored t.anchor else .empty
    | none, some p => if p.ctx = k then .raw else .empty
    | none, none => .empty
  ((a.queue.filter (fun q => q.ctx == k)).map (fun q => q.w)).foldl foreseeStep now

/-- R96, R100: a pass with CONTINUE set fits what stands in the active set. -/
def continueOk (f : Foreseen) (w : Word) : Bool :=
  match f with
  | .empty => false
  | .raw => true
  | x => psEmpty w || x == foreseenTile w

def integerFmt (f : Nat) : Bool := f == 5 || f == 6 || f == 15

/-- R76, R77, R79, R81, R86: formats, output, anchor and scales. -/
def passFormatsOk (w : Word) : Bool :=
  let a := psAFmt w
  let b := psBFmt w
  fmtClass a != 3 && fmtClass a == fmtClass b && psOut w != 7 &&
    (psOut w != 5 || (integerFmt a && integerFmt b)) &&
    (fmtClass a != 0 || psAnchor w == 0) && (fmtClass a == 2 || (psAScale w == 0 && psBScale w == 0))

/-- R82: a read or a write beyond the tray. -/
def passBeyond (w : Word) : Bool :=
  let blocks := ceilDiv (psK w) 32
  beyondTray (psStatus w) 4 ||
    (!psEmpty w &&
      (rowsBeyond (psABase w) (psAStride w) (psK w) (ceilDiv (psM w * fmtBits (psAFmt w)) 8) ||
       rowsBeyond (psBBase w) (psBStride w) (psK w) (ceilDiv (psN w * fmtBits (psBFmt w)) 8) ||
       rowsBeyond (psOutBase w) (psOutStride w) (psM w) (psN w * outBytes (psOut w)) ||
       (fmtClass (psAFmt w) == 2 &&
         (rowsBeyond (psAScale w) 128 blocks (psM w) || rowsBeyond (psBScale w) 256 blocks (psN w)))))

def passChecks (e : Env) (m : Mach) (c k : Nat) (w : Word) : List (Bool × Nat) :=
  [ (psM w == 255 || psN w == 511 || allOnes 24 (psK w), cReservedCount),
    (headBad w [(15, 10), (511, 312)] || decide (128 < psM w) || decide (256 < psN w), cBounds),
    (!(m.ctx c k).arrayBit, cBounds),
    (!passFormatsOk w || passBeyond w, cBounds),
    (!psContinue w && !((m.arr c).preloaded.contains k), cBounds),
    (psContinue w && !continueOk (foresee m c k) w, cBounds) ] ++
  signalChecks e m (psSignal w) (psClampCore w)

def preloadChecks (m : Mach) (c k : Nat) (w : Word) : List (Bool × Nat) :=
  [ (plRows w == 255 || plCols w == 511, cReservedCount),
    (headBad w [(15, 8), (127, 87), (511, 163)] || decide (128 < plRows w) || decide (256 < plCols w), cBounds),
    (!(m.ctx c k).arrayBit, cBounds),
    (decide (2 < plKind w) || decide (4 < plFmt w), cBounds),
    (plKind w == 0 && (plFmt w != 0 || plBase w != 0), cBounds),
    (plKind w != 2 && plStride w != 0, cBounds),
    (plKind w != 0 && rowsBeyond (plBase w) (plStride w) (if plKind w = 1 then min 1 (plRows w) else plRows w)
      (plCols w * plBytes w), cBounds) ]

def swapChecks (m : Mach) (c k : Nat) (w : Word) : List (Bool × Nat) :=
  [ (headBad w [(15, 8), (511, 64)], cBounds),
    (!(m.ctx c k).arrayBit, cBounds),
    (fld w 7 0 == 0x12 && !((m.arr c).preloaded.contains k), cBounds) ]

def arrayChecks (e : Env) (m : Mach) (c k : Nat) (w : Word) : List (Bool × Nat) :=
  let op := fld w 7 0
  if op = 0x10 then passChecks e m c k w else if op = 0x11 then preloadChecks m c k w else swapChecks m c k w

/-- R100: the swap that the context's last `PRELOAD` since its last swap still allows. -/
def notePreloaded (m : Mach) (c k : Nat) (w : Word) : Mach :=
  let op := fld w 7 0
  let rest := (m.arr c).preloaded.filter (fun j => j != k)
  if op = 0x11 then m.modArr c (fun x => { x with preloaded := rest ++ [k] })
  else if op = 0x12 ∨ (op = 0x10 ∧ psContinue w = false ∧ psEmpty w = false) then
    m.modArr c (fun x => { x with preloaded := rest })
  else m

end Sys2Proof.Machine
end

