-- ==== Sys2Proof/Machine/Scribe.lean ====
section
/-! DEFINITION. The Scribe unit: best-first search, frontier expansion and application (R235 to R261). -/

namespace Sys2Proof.Machine

/-! ### Fields of `SEARCH` (R238) -/

def scSignal (w : Word) : Bool := flag w 8
def scVid64 (w : Word) : Bool := flag w 9
def scBitmap (w : Word) : Bool := flag w 10
def scL2 (w : Word) : Bool := flag w 11
def scEmb (w : Word) : Nat := fld w 75 64
def scAdj (w : Word) : Nat := fld w 87 76
def scQueries (w : Word) : Nat := fld w 95 88
def scHeap (w : Word) : Nat := fld w 108 96
def scTopk (w : Word) : Nat := fld w 119 109
def scEntries (w : Word) : Nat := fld w 124 120
def scMaxExpand (w : Word) : Nat := fld w 143 128
def scAnchor (w : Word) : Int := signed 10 (fld w 153 144)
def scQry (w : Word) : Nat := fld w 178 160 * 64
def scEntry (w : Word) : Nat := fld w 197 179 * 64
def scWork (w : Word) : Nat := fld w 216 198 * 64
def scOut (w : Word) : Nat := fld w 235 217 * 64
def scStatus (w : Word) : Nat := fld w 258 236 * 4
def scNorm (w : Word) : Nat := fld w 310 259

/-! ### Fields of `EXPAND` (R250) and `APPLY` (R253) -/

def exSegments (w : Word) : Bool := flag w 10
def exPayload (w : Word) : Nat := fld w 12 11
def exAdj (w : Word) : Nat := fld w 75 64
/-- Also of `APPLY`. -/
def exParts (w : Word) : Nat := fld w 82 76
def exShift (w : Word) : Nat := fld w 88 83
def exFrontier (w : Word) : Nat := fld w 114 96 * 64
def exSrc (w : Word) : Nat := fld w 133 115 * 64
def exPart (w : Word) : Nat := fld w 152 134 * 64
def exRip (w : Word) : Nat := fld w 171 153 * 64
def exCount (w : Word) : Nat := fld w 187 172
def exRipCap (w : Word) : Nat := fld w 203 188
def exThreshold (w : Word) : Nat := if fld w 235 204 = 0 then 65536 else fld w 235 204
def exStatus (w : Word) : Nat := fld w 258 236 * 4
def exStart (w : Word) : Nat := fld w 312 281

def apOp (w : Word) : Nat := fld w 11 10
def apPart (w : Word) : Nat := fld w 69 64
def apIn (w : Word) : Nat := fld w 114 96 * 64
def apInCount (w : Word) : Nat := fld w 121 115
def apState (w : Word) : Nat := fld w 179 128
def apNext (w : Word) : Nat := fld w 198 180 * 64
def apNextCap (w : Word) : Nat := fld w 214 199
def apLevel (w : Word) : Nat := fld w 246 215
def apStatus (w : Word) : Nat := fld w 269 247 * 4

/-- The clamp of each opcode: core and index. -/
def scrClamp (w : Word) : Nat × Nat :=
  let op := fld w 7 0
  if op = 0x40 then (fld w 328 323, fld w 322 311)
  else if op = 0x41 then (fld w 276 271, fld w 270 259) else (fld w 287 282, fld w 281 270)

def scrStatusPtr (w : Word) : Nat :=
  let op := fld w 7 0
  if op = 0x40 then scStatus w else if op = 0x41 then exStatus w else apStatus w

def scrJob (w : Word) : Nat :=
  let op := fld w 7 0
  if op = 0x40 then fld w 332 329 else if op = 0x41 then fld w 280 277 else 0

/-- R257: items of a job. -/
def countItems (m : Mach) (c job n : Nat) : Mach :=
  if job = 0 then m else m.modCore c (fun x => { x with items := spMod 0 x.items job (fun v => v + n) })

/-! ### Distances (R241) -/

/-- A query before its entry points (R244). -/
def Query.start : Query :=
  { heap := [], results := [], expansions := 0, evaluated := 0, poisoned := false, dropped := false, nonfinite := false,
    sat := false, inexact := false, stop := none }

/-- R242: a candidate precedes another. -/
def precedes (a b : Nat × Nat) : Bool :=
  vlt (dec32 a.1) (dec32 b.1) || (!vlt (dec32 b.1) (dec32 a.1) && decide (a.2 < b.2))

def insertCand (c : Nat × Nat) : List (Nat × Nat) → List (Nat × Nat)
  | [] => [c]
  | x :: xs => if precedes c x then c :: x :: xs else x :: insertCand c xs

/-- R245: a bounded ordered list takes a candidate: the list, and whether a candidate or an entry was lost. -/
def offerTo (n : Nat) (l : List (Nat × Nat)) (c : Nat × Nat) : List (Nat × Nat) × Bool :=
  if l.length < n then (insertCand c l, false) else ((insertCand c l).take n, true)

/-- R245. -/
def offer (w : Word) (q : Query) (c : Nat × Nat) : Query :=
  let h := offerTo (scHeap w) q.heap c
  { q with results := (offerTo (scTopk w) q.results c).1, heap := h.1, dropped := q.dropped || h.2 }

/-- R241: the array format of an embedding table. -/
def embFmt (d : Nat) : Nat :=
  let f := dFormat d
  if f = 1 then 8 else if f = 2 then 9 else if f = 3 then 0 else if f = 4 then 1 else 5

/-- R101: the fold factor of a batch of `n` columns at FOLD_LIMIT 3. -/
def batchFold (n : Nat) : Nat := if 128 < n then 1 else if 64 < n then 2 else if 32 < n then 4 else 8

/-- One fold group's sum over its share of the products. -/
def dotGroup (anchor : Int) (ps : List FVal) : Cell × TileFlags :=
  ps.foldl (fun a p => cellStep anchor a p) ({ acc := 0, poison := false }, { sat := false, inexact := false })

/-- R128, R241: the dot product of two vectors in a batch of `n` columns: FP32 image or none when poisoned, SAT, INEXACT. -/
def dotProduct (anchor : Int) (n : Nat) (as bs : List FVal) : Option Nat × Bool × Bool :=
  let ps := (as.zip bs).map (fun p => product p.1 p.2 (some 0))
  let q := ceilDiv ps.length (batchFold n)
  let gs := (List.range (batchFold n)).map (fun g => dotGroup anchor ((ps.drop (g * q)).take q))
  let r := mergeCells (gs.map (fun g => g.1))
  let o := convOut 0 anchor r
  (if r.isNone then none else some o.bits, o.sat || gs.any (fun g => g.2.sat), gs.any (fun g => g.2.inexact))

/-- R239: the query vector of slot `q`. -/
def queryVec (m : Mach) (c : Nat) (w : Word) (d q : Nat) : List FVal :=
  let s := elemBytes (dFormat d)
  (List.range (dDim d)).map (fun k => fmtValue (embFmt d) (trayNat m c (scQry w + 128 * s * k + s * q) s))

/-- R241: the distance of a fetched candidate: NaN as none. -/
def distance (w : Word) (d x norm : Nat) : Option Nat :=
  let y := if dFormat d = 5 then f32mul x (dScale d) else x
  let v := if scL2 w then f32fma 0xC0000000 y norm else y ^^^ 2 ^ 31
  if isNan32 v then none else some v

/-! ### The visited sets (R243) -/

/-- Tray byte addresses and bits of a pair. -/
def visitBits (w : Word) (rows q u : Nat) : List (Nat × Nat) :=
  if scBitmap w then
    let b := q * rows + u
    [(scWork w + b / 8, b % 8)]
  else
    let h := mix64 ((q * 2 ^ 56) ^^^ u)
    let base := scWork w + 262144 * (q / 32) + h / 2 ^ 18 % 4096 * 64
    [(base + h % 512 / 8, h % 8), (base + h / 512 % 512 / 8, h / 512 % 8)]

/-- The tray bytes of a pair's bits. -/
def visitReads (w : Word) (rows q u : Nat) : List (Nat × Nat) := (visitBits w rows q u).map (fun p => (p.1, 1))

def visited (m : Mach) (c : Nat) (w : Word) (rows q u : Nat) : Bool :=
  (visitBits w rows q u).all (fun p => natBit (trayNat m c p.1 1) p.2)

def markVisited (m : Mach) (c : Nat) (w : Word) (rows q u : Nat) : Mach :=
  (visitBits w rows q u).foldl (fun a p => trayWrite a c p.1 (leBytes 1 (trayNat a c p.1 1 ||| 2 ^ p.2))) m

/-- R239: F. -/
def visitBytes (w : Word) (rows : Nat) : Nat :=
  if scBitmap w then ceilDiv (ceilDiv (scQueries w * rows) 8) 64 * 64 else 262144 * ceilDiv (scQueries w) 32

/-! ### Rounds (R244 to R246) -/

def modQuery (qs : List Query) (q : Nat) (f : Query → Query) : List Query := qs.modify q f

/-- R246: the first batch of a stream, the rest, and the batch's columns. A batch closes at 256 distinct vertices. -/
def takeBatch : List (Nat × Nat) → List Nat → List (Nat × Nat) × List (Nat × Nat) × Nat
  | [], us => ([], [], us.length)
  | p :: ps, us =>
    if us.contains p.2 then
      let r := takeBatch ps us
      (p :: r.1, r.2.1, r.2.2)
    else if us.length = 255 then ([p], ps, 256)
    else
      let r := takeBatch ps (p.2 :: us)
      (p :: r.1, r.2.1, r.2.2)

/-- A candidate's row and, for L2, its norm. -/
def fetchCand (e : Env) (c : Nat) (w : Word) (d u : Nat) (m : Mach) : Mach × RowFetch × Nat :=
  match resolveRow e m c d u false with
  | (m1, .stop s) => (m1, .stop s, 0)
  | (m1, .ok r) =>
    if scL2 w then
      match vread e m1 c (scNorm w + 4 * u) 4 with
      | (m2, .ok bs p) => (m2, .ok { r with poison := r.poison || p }, leNat bs)
      | (m2, g) => (m2, .stop (.got g), 0)
    else (m1, .ok r, 0)

/-- R241 to R245, R261: evaluate and offer one candidate of a batch of `n` columns, from its row and norm; a poisoned row skips it. -/
def evalCand (m : Mach) (c : Nat) (w : Word) (d n : Nat) (qs : List Query) (p : Nat × Nat) (row : Option (List Byte)) (norm : Nat) :
    List Query :=
  match row with
  | none => modQuery qs p.1 (fun q => { q with poisoned := true })
  | some bs =>
    let us := (chunks (dDim d) (elemBytes (dFormat d)) bs).map (fun x => fmtValue (embFmt d) (leNat x))
    let x := dotProduct (scAnchor w) n (queryVec m c w d p.1) us
    let q0 (q : Query) : Query :=
      { q with evaluated := q.evaluated + 1, sat := q.sat || x.2.1, inexact := q.inexact || x.2.2 }
    match x.1.bind (fun y => distance w d y norm) with
    | none => modQuery qs p.1 (fun q => { q0 q with nonfinite := true })
    | some v => modQuery qs p.1 (fun q => offer w (q0 q) (v, p.2))

/-- R244, R261: the neighbours of the vertex `v` that query `q` popped; `none` when a poisoned read yields none. -/
def listOf (e : Env) (c : Nat) (w : Word) (adj : Nat) (m : Mach) (v : Nat) : Mach × Option (List Nat) ⊕ (Mach × GatStop) :=
  match vertexSpan e m c adj v with
  | .inr (m1, g) => .inr (m1, .got g)
  | .inl (m1, (none, true)) => .inl (m1, none)
  | .inl (m1, (none, false)) => .inl (countLookup m1 c (scAdj w) false true false, some [])
  | .inl (m1, (some (o, d), _)) =>
    match readPositions e c (dNbrBase adj) (dNbrBytes adj) ((List.range d).map (fun i => o + i)) m1 with
    | .inr (m2, g) => .inr (m2, .got g)
    | .inl (m2, (ids, bad)) => .inl (m2, if bad then none else some ids)

/-- R244, R356: test and mark one pair; the visited bits are read from the tray. -/
def enumOne (c : Nat) (w : Word) (adj n : Nat) (m : Mach) (s : SearchRun) (q u : Nat) : Mach × SearchRun × GatStop :=
  if isSentinel n u || decide (dRowCount adj ≤ u) then (countLookup m c (scAdj w) false true false, s, .go)
  else
    let rs := visitReads w (dRowCount adj) q u
    match trayBad m c rs with
    | some a => (m, s, .tray a)
    | none =>
      let m0 := trayCount m c rs
      if visited m0 c w (dRowCount adj) q u then (m0, s, .go)
      else (markVisited m0 c w (dRowCount adj) q u, { s with pend := s.pend ++ [(q, u)] }, .go)

/-- R244: selection for one query: stopped, or the vertex it pops. -/
def selectOne (w : Word) (q : Query) : Query × Option Nat :=
  if q.stop.isSome then (q, none)
  else
    match q.heap with
    | [] => ({ q with stop := some 2 }, none)
    | b :: rest =>
      let worst := q.results.getLast?
      if q.results.length = scTopk w ∧ (worst.map (fun x => precedes x b)).getD false then ({ q with stop := some 0 }, none)
      else if q.expansions = scMaxExpand w then ({ q with stop := some 1 }, none)
      else ({ q with heap := rest, expansions := q.expansions + 1 }, some b.2)

def selectAll (w : Word) : Nat → List Query → List Query × List (Nat × Nat)
  | _, [] => ([], [])
  | k, q :: qs =>
    let a := selectOne w q
    let r := selectAll w (k + 1) qs
    (a.1 :: r.1, match a.2 with | some v => (k, v) :: r.2 | none => r.2)

/-- R247: a result block. -/
def resultBlock (w : Word) (q : Query) : List Byte :=
  let flags := bit q.poisoned + 2 * bit q.dropped + 4 * bit q.nonfinite + 8 * bit q.sat + 16 * bit q.inexact
  leBytes 4 q.results.length ++ leBytes 1 (q.stop.getD 2) ++ leBytes 1 flags ++ leBytes 2 0 ++ leBytes 4 q.expansions ++
    leBytes 4 q.evaluated ++
    q.results.flatMap (fun r => leBytes 8 r.2 ++ leBytes 4 r.1 ++ leBytes 4 0) ++
    (List.replicate (scTopk w - q.results.length) (leBytes 8 (2 ^ 64 - 1) ++ leBytes 4 0x7F800000 ++ leBytes 4 0)).flatten

def putResults (c : Nat) (w : Word) : Nat → List Query → Mach → Mach
  | _, [], m => m
  | k, q :: qs, m => putResults c w (k + 1) qs (trayWrite m c (scOut w + k * (16 + 16 * scTopk w)) (resultBlock w q))

/-- R239: the tray ranges a `SEARCH` reads from outside its work area. -/
def searchReads (w : Word) (d : Nat) : List (Nat × Nat) :=
  [(scQry w, 128 * elemBytes (dFormat d) * dDim d), (scEntry w, scQueries w * scEntries w * (if scVid64 w then 8 else 4))]

/-- The descriptor of the command's second table. -/
def EngCmd.desc2 (x : EngCmd) : Nat := ((x.bound[1]?).map (fun b => b.desc)).getD 0

/-- R244: the entry points of every query, in order. -/
def entryPairs (m : Mach) (c : Nat) (w : Word) : List (Nat × Nat) :=
  let n := if scVid64 w then 8 else 4
  (List.range (scQueries w)).flatMap (fun q => (List.range (scEntries w)).map (fun i =>
    (q, trayNat m c (scEntry w + (q * scEntries w + i) * n) n)))

/-- R240: bytes of the work area beyond the visited sets: heaps, results, rows and tiles. -/
def unitBytes (w : Word) (d : Nat) : Nat := 16 * scQueries w * scHeap w + 512 * dRowBytes d + 327680

/-- What the unit keeps of its own in the work area is free, written anew at the start and at the end of a command
(notes/assumptions/22). -/
def scribble (m : Mach) (c : Nat) (x : EngCmd) : Mach :=
  trayWrite (freeStep m) c (scWork x.w + visitBytes x.w (dRowCount x.desc2)) (freeBytes (16 + m.free) (unitBytes x.w x.desc))

/-- R243, R244: the command starts: its visited sets are zeroed. -/
def searchStart (m : Mach) (c : Nat) (x : EngCmd) : Mach × EngCmd × GatStop :=
  let w := x.w
  let rs := searchReads w x.desc
  if scQueries w = 0 then (m, x, .done)
  else
    match trayBad m c rs with
    | some a => (m, x, .tray a)
    | none =>
      let m0 := scribble (trayWrite (trayCount m c rs) c (scWork w) (List.replicate (visitBytes w (dRowCount x.desc2)) 0)) c x
      (m0, { x with search := some { qs := List.replicate (scQueries w) Query.start, round := 0, todo := [],
                                     ids := entryPairs m0 c w, pend := [], batch := [], cols := 0, holds := false,
                                     rows := [] } }, .go)

/-- A `SEARCH` with its run, and its flags from those of its queries (R247). -/
def EngCmd.withSearch (x : EngCmd) (s : SearchRun) : EngCmd :=
  { x with search := some s, sat := s.qs.any (fun q => q.sat), inexact := s.qs.any (fun q => q.inexact),
           nonfinite := s.qs.any (fun q => q.nonfinite) }

/-- R246: the pairs marked close a batch: 256 distinct vertices, 2,048 pairs, or the end of the stream. -/
def batchCloses (s : SearchRun) : Bool :=
  !s.pend.isEmpty && ((takeBatch s.pend []).2.2 == 256 || decide (2048 ≤ s.pend.length) || (s.ids.isEmpty && s.todo.isEmpty))

/-- R246, R491, R499: the idle cycles of a batch's pass, with M = 128, the batch's columns and K = D. -/
def batchIdle (m : Mach) (c d cols : Nat) : Nat :=
  let f := batchFold cols
  let rate4 := if fmtClass (embFmt d) = 1 then 1 else 4
  idleFor m c (cellLoad (128 * cols * f) rate4) (sliceCycles rate4 (ceilDiv (dDim d) f))

/-- R105, R246, R262, R499: the pass of a batch starts once no other context is in the array and the class lets passes stream; from
its first one on the command holds the array. A batch that a save has interrupted is passed again with the columns it had. -/
def openBatch (m : Mach) (c : Nat) (x : EngCmd) (s : SearchRun) : Mach × EngCmd × GatStop :=
  if (arrayOccupants m c).any (fun k => k != x.ctx) || arrayClass m c == 0 then (m, x, .paused)
  else
    let b := if s.batch.isEmpty then takeBatch s.pend [] else (s.batch, s.pend, s.cols)
    (countIdle m c (batchIdle m c x.desc b.2.2),
      x.withSearch { s with holds := true, rows := [], batch := b.1, pend := b.2.1, cols := b.2.2 }, .go)

/-- R246: a candidate of the batch: its row is fetched unless the batch has it, and then the candidate is consumed. -/
def candStep (e : Env) (m : Mach) (c : Nat) (x : EngCmd) (s : SearchRun) (p : Nat × Nat) (ps : List (Nat × Nat)) :
    Mach × EngCmd × GatStop :=
  match s.rows.find? (fun r => r.1 == p.2) with
  | some r =>
    (m, x.withSearch { s with qs := evalCand m c x.w x.desc s.cols s.qs p r.2.1 r.2.2, batch := ps }, .go)
  | none =>
    match fetchCand e c x.w x.desc p.2 m with
    | (m1, .stop y, _) => (m1, x, y)
    | (m1, .ok r, norm) =>
      (m1, x.withSearch { s with rows := s.rows ++ [(p.2, if r.poison then none else some r.bytes, norm)] }, .go)

/-- R244 to R247: one step of a `SEARCH`: a candidate fetched or consumed, a batch's pass started, an id tested, a list read, a round
selected, or its end.  -/
def searchStep (e : Env) (m : Mach) (c : Nat) (x : EngCmd) : Mach × EngCmd × GatStop :=
  let w := x.w
  match x.search with
  | none => searchStart m c x
  | some s =>
    match s.batch with
    | p :: ps => if s.holds then candStep e m c x s p ps else openBatch m c x s
    | [] =>
      if batchCloses s then openBatch m c x s
      else
        match s.ids, s.todo with
        | p :: ps, _ =>
          let n := if s.round = 0 then (if scVid64 w then 8 else 4) else dNbrBytes x.desc2
          let r := enumOne c w x.desc2 n m { s with ids := ps } p.1 p.2
          (r.1, if r.2.2 = .go then x.withSearch r.2.1 else x, r.2.2)
        | [], p :: ps =>
          match listOf e c w x.desc2 m p.2 with
          | .inr (m1, y) => (m1, x, y)
          | .inl (m1, some us) => (m1, x.withSearch { s with todo := ps, ids := us.map (fun u => (p.1, u)) }, .go)
          | .inl (m1, none) =>
            (m1, x.withSearch { s with todo := ps, qs := modQuery s.qs p.1 (fun q => { q with nonfinite := true }) }, .go)
        | [], [] =>
          if s.qs.all (fun q => q.stop.isSome) then (m, x, .done)
          else
            let sel := selectAll w 0 s.qs
            (countItems m c (scrJob w) sel.2.length,
              x.withSearch { s with qs := sel.1, round := s.round + 1, todo := sel.2 }, .go)

/-- R260: the pairs of a `SEARCH` that are marked and not consumed. -/
def SearchRun.pairs (s : SearchRun) : List (Nat × Nat) := s.batch ++ s.pend

/-- R248, R260: on resume a `SEARCH` re-issues its pending list first, in the batches of an uninterrupted run, without the array. -/
def SearchRun.reissue (s : SearchRun) : SearchRun := { s with holds := false, rows := [] }

/-! ### `EXPAND` (R249 to R252) -/

/-- R249. -/
def partOf (w : Word) (u : Nat) : Nat := u / 2 ^ exShift w % exParts w

def localIndex (w : Word) (u : Nat) : Nat := u / 2 ^ exShift w / exParts w * 2 ^ exShift w + u % 2 ^ exShift w

def idBytes (w : Word) : Nat := if scVid64 w then 8 else 4

/-- R249: bytes of a message. -/
def messageBytes (w : Word) (payload : Bool) : Nat :=
  if scVid64 w then (if payload then 16 else 8) else if payload then 8 else 4

def message (w : Word) (payload : Bool) (u p : Nat) : List Byte :=
  (leBytes (idBytes w) u ++ (if payload then leBytes 4 p else [])) ++
    (if scVid64 w && payload then leBytes 4 0 else [])

/-- A frontier entry: vertex, segment, source value. -/
def frontierEntry (m : Mach) (c : Nat) (w : Word) (i : Nat) : Nat × Nat × Nat :=
  if exSegments w then
    let a := exFrontier w + 16 * i
    (trayNat m c a 8, trayNat m c (a + 8) 4, trayNat m c (a + 12) 4)
  else
    (trayNat m c (exFrontier w + idBytes w * i) (idBytes w), 0,
      if exPayload w = 0 then 0 else trayNat m c (exSrc w + 4 * i) 4)

def frontierReads (w : Word) (i : Nat) : List (Nat × Nat) :=
  if exSegments w then [(exFrontier w + 16 * i, 16)]
  else (exFrontier w + idBytes w * i, idBytes w) :: (if exPayload w = 0 then [] else [(exSrc w + 4 * i, 4)])

/-- The next entry. -/
def nextEntry (x : EngCmd) : EngCmd := { x with item := x.item + 1, pos := 0, clear := false }

/-- R252: append a message to its partition. -/
def appendMessage (m : Mach) (c : Nat) (x : EngCmd) (u p : Nat) : Mach × EngCmd × GatStop :=
  let w := x.w
  let t := exPart w + 16 * partOf w u
  match trayBad m c [(t, 12)] with
  | some a => (m, x, .tray a)
  | none =>
    let fill := trayNat m c (t + 8) 4
    let sz := messageBytes w (exPayload w != 0)
    let at' := trayNat m c t 4 * 64 + fill * sz
    if trayNat m c (t + 4) 4 ≤ fill then (m, { x with stop := 1 }, .done)
    else if beyondTray at' sz then (m, x, .reject cBounds)
    else
      let m1 := trayWrite m c at' (message w (exPayload w != 0) u p)
      (countItems (trayWrite m1 c (t + 8) (leBytes 4 (fill + 1))) c (scrJob w) 1, { x with pos := x.pos + 1 }, .go)

/-- R261: is some element of an array at the given positions poisoned? Reading ends at one that faults. -/
def listPoison (e : Env) (c base sz : Nat) : List Nat → Mach → Mach × Bool
  | [], m => (m, false)
  | p :: ps, m =>
    match vread e m c (base + p * sz) sz with
    | (m1, .ok _ true) => (m1, true)
    | (m1, .ok _ false) => listPoison e c base sz ps m1
    | (m1, _) => (m1, false)

/-- R261: before the first neighbour of an entry is consumed, the rest of its list is looked at: a poisoned read of it yields no
neighbour at all. -/
def lookAhead (e : Env) (m : Mach) (c : Nat) (x : EngCmd) (lo hi : Nat) : Mach × EngCmd × GatStop :=
  let adj := x.desc
  let ps := (List.range (hi - lo)).map (fun i => lo + i)
  let a := listPoison e c (dNbrBase adj) (dNbrBytes adj) ps m
  let b := if a.2 || exPayload x.w != 2 then a else listPoison e c (dWgtBase adj) (dWgtBytes adj) ps a.1
  (b.1, if b.2 then { nextEntry x with nonfinite := true } else { x with clear := true }, .go)

/-- One neighbour, of the position `o` in the neighbour array. -/
def expandNeighbour (e : Env) (m : Mach) (c : Nat) (x : EngCmd) (o src : Nat) : Mach × EngCmd × GatStop :=
  let w := x.w
  let adj := x.desc
  match readPositions e c (dNbrBase adj) (dNbrBytes adj) [o] m with
  | .inr (m1, g) => (m1, x, .got g)
  | .inl (m1, (ids, bad)) =>
    if bad then (m1, { nextEntry x with nonfinite := true }, .go)
    else
      let u := ids.headD 0
      if isSentinel (dNbrBytes adj) u || decide (dRowCount adj ≤ u) then
        (countItems (countLookup m1 c (exAdj w) false true false) c (scrJob w) 1, { x with pos := x.pos + 1 }, .go)
      else if exPayload w = 2 then
        match readPositions e c (dWgtBase adj) (dWgtBytes adj) [o] m1 with
        | .inr (m2, g) => (m2, x, .got g)
        | .inl (m2, (ws, bad2)) =>
          if bad2 then (m2, { nextEntry x with nonfinite := true }, .go)
          else
            let v := ws.headD 0
            appendMessage m2 c x u (f32mul src (if dWgtFmt adj = 2 then widen 1 v else v))
      else appendMessage m1 c x u src

def expandStep (e : Env) (m : Mach) (c : Nat) (x : EngCmd) : Mach × EngCmd × GatStop :=
  let w := x.w
  let adj := x.desc
  if exCount w ≤ x.item then (m, { x with stop := 0 }, .done)
  else
    match trayBad m c (frontierReads w x.item) with
    | some a => (m, x, .tray a)
    | none =>
      let m0 := trayCount m c (frontierReads w x.item)
      let f := frontierEntry m0 c w x.item
      let n := if exSegments w then 8 else idBytes w
      let t := exThreshold w
      if isSentinel n f.1 || decide (dRowCount adj ≤ f.1) then
        (countLookup m0 c (exAdj w) false true false, nextEntry x, .go)
      else
        match vertexSpan e m0 c adj f.1 with
        | .inr (m1, g) => (m1, x, .got g)
        | .inl (m1, (none, bad)) =>
          (if bad then m1 else countLookup m1 c (exAdj w) false true false,
            { nextEntry x with nonfinite := x.nonfinite || bad }, .go)
        | .inl (m1, (some (a, d), _)) =>
          if !exSegments w && decide (t < d) then
            if exRipCap w ≤ x.next then (m1, { x with stop := 2 }, .done)
            else
              let rip := leBytes 8 f.1 ++ leBytes 4 (ceilDiv d t) ++ leBytes 4 f.2.2
              (trayWrite m1 c (exRip w + 16 * x.next) rip, { nextEntry x with next := x.next + 1 }, .go)
          else
            let lo := if exSegments w then f.2.1 * t else 0
            let hi := if exSegments w then min ((f.2.1 + 1) * t) d else d
            if hi ≤ lo + x.pos then (m1, nextEntry x, .go)
            else if !x.clear then lookAhead e m1 c x (a + lo + x.pos) (a + hi)
            else expandNeighbour e m1 c x (a + lo + x.pos) f.2.2

/-! ### `APPLY` (R253, R254) -/

/-- R254: the new value of a state element; none when it does not change. -/
def applyOp (w : Word) (s p : Nat) : Option Nat :=
  if apOp w = 0 then (if s = 2 ^ 32 - 1 then some (apLevel w) else none)
  else if apOp w = 1 then (if p < s then some p else none)
  else some (f32add s p)

/-- Write back a changed element through the drawer cache, then go on. -/
def applyStore (e : Env) (m : Mach) (c : Nat) (x : EngCmd) (u va v : Nat) : Mach × EngCmd × GatStop :=
  let w := x.w
  match translate e m c va true with
  | (m1, .fault k l) => (m1, x, .put (.fault k l va))
  | (m1, .absent) => (m1, x, .put .absent)
  | (m1, .aperture) => (m1, x, .put (.aperture va))
  | (m1, .beyond) => (m1, x, .put .beyond)
  | (m1, .ok pa dt) =>
    let m2 := drawerWrite e m1 c x.ctx pa dt (leBytes 4 v)
    let y := { x with pos := x.pos + 1 }
    if apOp w = 2 then (m2, y, .go)
    else (trayWrite m2 c (apNext w + x.next * idBytes w) (leBytes (idBytes w) u), { y with next := x.next + 1 }, .go)

def applyStep (e : Env) (m : Mach) (c : Nat) (x : EngCmd) : Mach × EngCmd × GatStop :=
  let w := x.w
  if apInCount w ≤ x.item then (m, { x with stop := if x.stop = 4 then 4 else 0 }, .done)
  else
    let a := apIn w + 16 * x.item
    match trayBad m c [(a, 8)] with
    | some y => (m, x, .tray y)
    | none =>
      let m0 := trayCount m c [(a, 8)]
      if trayNat m0 c (a + 4) 4 ≤ x.pos then (m0, nextEntry x, .go)
      else
        let sz := messageBytes w (apOp w != 0)
        let ma := trayNat m0 c a 4 * 64 + x.pos * sz
        if beyondTray ma sz then (m0, x, .reject cBounds)
        else
          match trayBad m0 c [(ma, sz)] with
          | some y => (m0, x, .tray y)
          | none =>
            let u := trayNat m0 c ma (idBytes w)
            let p := if apOp w = 0 then 0 else trayNat m0 c (ma + idBytes w) 4
            if partOf w u ≠ apPart w then (m0, { x with pos := x.pos + 1, stop := 4 }, .go)
            else
              let va := apState w + 4 * localIndex w u
              match drawerRead e m0 c va 4 with
              | (m1, .ok bs bad) =>
                if bad then (m1, { x with pos := x.pos + 1, nonfinite := true }, .go)
                else
                  match applyOp w (leNat bs) p with
                  | none => (m1, { x with pos := x.pos + 1 }, .go)
                  | some v =>
                    if apOp w ≠ 2 ∧ apNextCap w ≤ x.next then (m1, { x with stop := 3 }, .done)
                    else applyStore e m1 c x u va v
              | (m1, g) => (m1, x, .got g)

/-! ### Running a command -/

/-- At most `n` items from the resume point on. -/
def scrRun (e : Env) (c : Nat) : Nat → Mach → EngCmd → Mach × EngCmd × GatStop
  | 0, m, x => (m, x, .paused)
  | n + 1, m, x =>
    let op := fld x.w 7 0
    match (if op = 0x40 then searchStep e m c x else if op = 0x41 then expandStep e m c x else applyStep e m c x) with
    | (m1, y, .go) => scrRun e c n m1 y
    | r => r

/-- R362: bytes of the state array of an `APPLY` up to the last element that a message of its list names. -/
def applySpan (m : Mach) (c : Nat) (w : Word) : Nat :=
  let sz := messageBytes w (apOp w != 0)
  let ids := (List.range (apInCount w)).flatMap (fun i =>
    let a := trayNat m c (apIn w + 16 * i) 4 * 64
    (List.range (trayNat m c (apIn w + 16 * i + 4) 4)).map (fun j => trayNat m c (a + j * sz) (idBytes w)))
  ((ids.filter (fun u => partOf w u == apPart w)).map (fun u => 4 * (localIndex w u + 1))).foldl max 0

/-- R247, R255, R262: the status word or record, and the signal. A `SEARCH` writes its result blocks first unless it is abandoned; an
`APPLY` writes back its dirty lines, and every line of its state array leaves the cache (R362). -/
def scrStatus (e : Env) (m0 : Mach) (c : Nat) (x : EngCmd) (abandoned late : Bool) : Mach :=
  let op := fld x.w 7 0
  let m := if op = 0x42 then flushOwner e m0 c x.ctx (apState x.w) (applySpan m0 c x.w)
    else if op = 0x40 then
      match x.search with
      | some s => scribble (if abandoned then m0 else putResults c x.w 0 s.qs m0) c x
      | none => m0
    else m0
  let st := statusWord { done := !abandoned, sat := x.sat, inexact := x.inexact, nonfinite := x.nonfinite,
                         abandoned := abandoned, resumed := x.resumed, late := late, stamp := strokeAt e.k (dieOf c) }
  let rest := if op = 0x40 then [] else leBytes 4 x.stop ++ leBytes 4 x.item ++ leBytes 4 x.pos
  engineSignal (trayWrite m c (scrStatusPtr x.w) (leBytes 4 st ++ rest)) c .scribe (scSignal x.w)
    (scrClamp x.w).1 (scrClamp x.w).2

/-! ### Validation (R236, R238, R240, R250 to R253) -/

def searchRegions (w : Word) (d rows : Nat) : List (Nat × Nat) :=
  [(scQry w, 128 * elemBytes (dFormat d) * dDim d),
   (scEntry w, scQueries w * scEntries w * (if scVid64 w then 8 else 4)),
   (scWork w, visitBytes w rows + unitBytes w d),
   (scOut w, scQueries w * (16 + 16 * scTopk w))]

def searchChecks (e : Env) (m : Mach) (c : Nat) (w : Word) : List (Bool × Nat) :=
  let d := descOn m (dieOf c) (scEmb w)
  let a := descOn m (dieOf c) (scAdj w)
  [ (allOnes 8 (scQueries w) || allOnes 13 (scHeap w) || allOnes 11 (scTopk w) || allOnes 5 (scEntries w) ||
      allOnes 16 (scMaxExpand w), cReservedCount),
    (headBad w [(15, 12), (127, 125), (159, 154), (511, 333)], cBounds),
    (decide (128 < scQueries w) || scHeap w == 0 || decide (4096 < scHeap w) || scTopk w == 0 || decide (1024 < scTopk w) ||
      scEntries w == 0 || decide (16 < scEntries w) || scMaxExpand w == 0, cBounds),
    (dKind d != 1 || !(decide (1 ≤ dFormat d) && decide (dFormat d ≤ 5)), cBounds),
    (dKind a != 2 || dRowCount d != dRowCount a, cBounds),
    (!scL2 w && scNorm w != 0, cBounds),
    (scL2 w && (scNorm w == 0 || scNorm w % 4 != 0), cBounds),
    (decide (3 ≤ dFormat d) && scAnchor w != 0, cBounds),
    (scBitmap w && decide (2 ^ 25 < scQueries w * dRowCount a), cBounds),
    (((scStatus w, 4) :: searchRegions w d (dRowCount a)).any (fun r => beyondTray r.1 r.2), cBounds),
    (anyPair (searchRegions w d (dRowCount a)), cBounds) ] ++
  signalChecks e m (scSignal w) (scrClamp w).1

def expandChecks (e : Env) (m : Mach) (c : Nat) (w : Word) : List (Bool × Nat) :=
  let a := descOn m (dieOf c) (exAdj w)
  let seg := exSegments w
  [ (allOnes 7 (exParts w) || allOnes 16 (exCount w) || allOnes 16 (exRipCap w) || allOnes 32 (fld w 235 204) ||
      allOnes 32 (exStart w), cReservedCount),
    (headBad w [(15, 13), (95, 89), (511, 313)], cBounds),
    (exPayload w == 3 || exParts w == 0 || decide (64 < exParts w) || decide (40 < exShift w), cBounds),
    ((seg || exPayload w == 0) && exSrc w != 0, cBounds),
    (seg && exRip w != 0, cBounds),
    (dKind a != 2, cBounds),
    (exPayload w == 2 && dWgtFmt a == 0, cBounds),
    ([(exFrontier w, exCount w * (if seg then 16 else idBytes w)),
      (exSrc w, if seg || exPayload w == 0 then 0 else 4 * exCount w), (exPart w, 16 * exParts w),
      (exRip w, if seg then 0 else 16 * exRipCap w), (exStatus w, 16)].any (fun r => beyondTray r.1 r.2), cBounds) ] ++
  signalChecks e m (scSignal w) (scrClamp w).1

/-- R253: the input list as it stands: buffer address and count. -/
def applyList (m : Mach) (c : Nat) (w : Word) : List (Nat × Nat) :=
  (List.range (apInCount w)).map (fun i => (trayNat m c (apIn w + 16 * i) 4 * 64, trayNat m c (apIn w + 16 * i + 4) 4))

def applyChecks (e : Env) (m : Mach) (c : Nat) (w : Word) : List (Bool × Nat) :=
  let l := applyList m c w
  [ (allOnes 7 (exParts w) || allOnes 7 (apInCount w) || allOnes 16 (apNextCap w), cReservedCount),
    (headBad w [(15, 12), (75, 70), (95, 89), (127, 122), (511, 288)], cBounds),
    (apOp w == 3 || exParts w == 0 || decide (64 < exParts w) || decide (40 < exShift w), cBounds),
    (decide (exParts w ≤ apPart w) || decide (64 < apInCount w), cBounds),
    (apState w % 4 != 0, cBounds),
    (if apOp w = 0 then allOnes 32 (apLevel w) else apLevel w != 0, cBounds),
    ([(apIn w, 16 * apInCount w), (apNext w, idBytes w * apNextCap w), (apStatus w, 16)].any
      (fun r => beyondTray r.1 r.2), cBounds),
    (l.any (fun p => allOnes 32 p.2), cReservedCount),
    (l.any (fun p => beyondTray p.1 (p.2 * messageBytes w (apOp w != 0))), cBounds) ] ++
  signalChecks e m (scSignal w) (scrClamp w).1

def scrChecks (e : Env) (m : Mach) (c : Nat) (w : Word) : List (Bool × Nat) :=
  let op := fld w 7 0
  if op = 0x40 then searchChecks e m c w else if op = 0x41 then expandChecks e m c w else applyChecks e m c w

/-- The tray ranges that validation itself reads. -/
def scrCheckReads (w : Word) : List (Nat × Nat) := if fld w 7 0 = 0x42 then [(apIn w, 16 * apInCount w)] else []

end Sys2Proof.Machine
end

