-- ==== Sys2Proof/Machine/Engines.lean ====
section
/-! DEFINITION. The queues of the Chisel, the Marquetry engine and the Scribe unit: starting, running, completing and
abandoning their commands (R147, R159, R160, R174, R195, R198, R235, R260, R262, R311). -/

namespace Sys2Proof.Machine

def engQueue (m : Mach) (c : Nat) : Engine → List EngCmd
  | .chisel => (m.core c).vec
  | .marquetry => (m.core c).gat
  | .scribe => (m.core c).scr
  | _ => []

def setEngQueue (m : Mach) (c : Nat) (q : List EngCmd) : Engine → Mach
  | .chisel => m.modCore c (fun x => { x with vec := q })
  | .marquetry => m.modCore c (fun x => { x with gat := q })
  | .scribe => m.modCore c (fun x => { x with scr := q })
  | _ => m

/-- A command as it enters a queue. -/
def engCmd (e : Env) (c k : Nat) (w : Word) (bound : List Bound) : EngCmd :=
  { ctx := k, w := w, stroke := strokeAt e.k (dieOf c), started := false, sat := false, inexact := false,
    nonfinite := false, resumed := false, bound := bound, item := 0,
    pos := if fld w 7 0 = 0x41 then exStart w else 0, acc := [], stop := 0, next := 0,
    clear := false, search := none }

/-- R185, R324: a merge command starts only while no other context holds the merge table, and after a session that its context has
saved is back in it. -/
def mayStart (m : Mach) (c : Nat) (x : EngCmd) : Bool :=
  let op := fld x.w 7 0
  if op = 0x33 ∨ op = 0x34 then
    (m.core c).merge.all (fun s => s.ctx == x.ctx) && !((m.ctx c x.ctx).saved.any (fun v => v.merge.isSome))
  else true

/-- The head of a queue starts when it can. -/
def engStart (e : Env) (m : Mach) (c : Nat) (en : Engine) : Mach :=
  match engQueue m c en with
  | [] => m
  | x :: xs =>
    if x.started || !coreClocked e m c || !mayStart m c x then m else setEngQueue m c ({ x with started := true } :: xs) en

def startAll (e : Env) (m : Mach) (c : Nat) : Mach :=
  engStart e (engStart e (engStart e m c .chisel) c .marquetry) c .scribe

/-- A command of the Marquetry engine or the Scribe unit at its start: nothing of it has been done. -/
def engFresh (x : EngCmd) : Bool :=
  x.item == 0 && x.stop == 0 && x.next == 0 && x.acc.isEmpty && x.search.isNone &&
    x.pos == (if fld x.w 7 0 = 0x41 then exStart x.w else 0)

/-- R358, R388: the overlay headers of the tables are read; one that is poisoned poisons the rows that need it. -/
def readOverlays (e : Env) (c : Nat) : List Nat → Mach → Mach × GatStop
  | [], m => (m, .go)
  | d :: ds, m =>
    if dOverlay d then
      match drawerRead e m c (dOverlayPtr d) 64 with
      | (m1, .ok _ _) => readOverlays e c ds m1
      | (m1, g) => (m1, .header g)
    else readOverlays e c ds m

/-- R203, R388: at its start a command reads the descriptors, map headers and overlay headers of its tables; a read that fails stops it
there. -/
def engBegin (e : Env) (m : Mach) (c : Nat) (x : EngCmd) : Mach × GatStop :=
  if !engFresh x then (m, .go)
  else
    match readBound e c x.bound m with
    | (m1, .ok) => readOverlays e c (x.bound.map (fun b => b.desc)) m1
    | (m1, .poison) => (m1, .reject cBounds)
    | (m1, .stop g) => (m1, .header g)

/-- At most `n` steps of a command. -/
def engRun (e : Env) (m : Mach) (c : Nat) (en : Engine) (n : Nat) (x : EngCmd) : Mach × EngCmd × GatStop :=
  match en with
  | .chisel =>
    let r := vecRun c n m x
    (r.1, r.2.1, match r.2.2 with
      | .go => .go
      | .done => .done
      | .paused => .paused
      | .tray a => .tray a
      | .softmax => .reject 0x10)
  | en =>
    match n, engBegin e m c x with
    | 0, _ => (m, x, .paused)
    | n + 1, (m1, .go) => if en = .marquetry then gatRun e c (n + 1) m1 x else scrRun e c (n + 1) m1 x
    | _, (m1, y) => (m1, x, y)

/-- The status of a command that completes or is abandoned, and its signal. -/
def engStatus (e : Env) (m : Mach) (c : Nat) (en : Engine) (x : EngCmd) (abandoned late : Bool) : Mach :=
  match en with
  | .chisel => vecStatus e m c x abandoned late
  | .marquetry => gatStatus e m c x abandoned late
  | _ => scrStatus e m c x abandoned late

/-- R387: the number of an engine as the source of a translation fault. -/
def engSource : Engine → Nat
  | .marquetry => 2
  | .scribe => 3
  | _ => 4

/-- R328, R356, R531: why a command stops, as its context meets it. -/
def engFail (e : Env) (m : Mach) (c : Nat) (en : Engine) (x : EngCmd) : GatStop → Mach
  | .tray a => failTray e m c x.ctx a
  | .header .beyond => failCtx e m c x.ctx (opcodeFamily (fld x.w 7 0)) cBounds
  | .got g => gotFault e m c x.ctx (engSource en) 0 g
  | .header g => gotFault e m c x.ctx 1 0 g
  | .put p => putFault e m c x.ctx (engSource en) 0 p
  | .reject code => failCtx e m c x.ctx (opcodeFamily (fld x.w 7 0)) code
  | _ => m

/-- Commands of a context in a queue. -/
def engIssued (m : Mach) (c k : Nat) (en : Engine) : Nat := ((engQueue m c en).filter (fun x => x.ctx == k)).length

/-- R389: work of a context that stands in its save area and is not complete. -/
def savedOpen (v : Saved) : Bool :=
  v.streaming.isSome || v.rePreload.isSome || !v.withdrawnArray.isEmpty || !v.withdrawnChisel.isEmpty ||
    !v.withdrawnMarquetry.isEmpty || !v.withdrawnScribe.isEmpty || v.chisel.isSome || v.marquetry.isSome || v.scribe.isSome ||
    v.streams.any (fun p => p.2.active)

/-- R317: nothing of the context is incomplete in an engine or saved by one. A persistent stream is complete once its pass has
ended. -/
def enginesIdle (m : Mach) (c k : Nat) : Bool :=
  arrayIdle m c k && engIssued m c k .chisel == 0 && engIssued m c k .marquetry == 0 && engIssued m c k .scribe == 0 &&
    !((m.core c).streams.any (fun p => p.2.ctx == k && p.2.active)) && !((m.ctx c k).saved.any savedOpen)

/-- R160, R198, R262, R327: the commands of context `k` are abandoned, each with its status and signal; what the running one has done
by then is a free prefix of its work, and those behind it have done nothing (notes/assumptions/30). -/
def abandonEngine (e : Env) (m : Mach) (c k : Nat) (late : Bool) (en : Engine) : Mach :=
  let one (a : Mach) (x : EngCmd) : Mach :=
    if x.ctx ≠ k then a
    else if x.started then
      let r := engRun e (freeStep a) c en (freeNow a % 65536) x
      engStatus e r.1 c en r.2.1 true late
    else engStatus e a c en x true late
  let m1 := (engQueue m c en).foldl one m
  engStart e (setEngQueue m1 c ((engQueue m1 c en).filter (fun x => x.ctx != k)) en) c en

end Sys2Proof.Machine
end

