-- ==== Sys2Proof/Machine/Contexts.lean ====
section
/-! DEFINITION. How a context's work ends: cancel, DROP, kill, reset or a fault, its records, and acting on the faults that a
command has met (R295, R296, R327, R328, R336, R433, R434, R541). -/

namespace Sys2Proof.Machine

/-! ### Saved streams (R295, R303) -/

/-- R295: a stream that stands in the save area of context `k` is cancelled from there. Its slot may hold another stream meanwhile,
and it moves no further byte. -/
def cancelSaved (e : Env) (c k : Nat) (x : StreamCancel) (m : Mach) (p : Nat × Stream) : Mach :=
  let other := m.stream? c p.1
  let m0 := m.modCtx c k (fun y => { y with saved := y.saved.map (fun v =>
    { v with streams := v.streams.filter (fun q => !(q.1 == p.1 && q.2.gen == p.2.gen)) }) })
  let m1 := cancelSequence e (m0.setStream c p.1 { p.2 with late := p.2.late || x.drop, faulted := true }) c p.1 0 x
  match other with
  | some s => m1.setStream c p.1 s
  | none => m1

/-- The streams in a core's slots that satisfy `f`, over all cores: core and slot. -/
def liveWhere (m : Mach) (f : Nat → Stream → Bool) : List (Nat × Nat) :=
  m.cores.flatMap (fun p => (p.2.streams.filter (fun s => f p.1 s.2)).map (fun s => (p.1, s.1)))

/-- The saved streams that satisfy `f`: core, context, slot, stream. -/
def savedWhere (m : Mach) (f : Nat → Stream → Bool) : List (Nat × Nat × Nat × Stream) :=
  m.cores.flatMap (fun p => p.2.ctxs.flatMap (fun k =>
    (((k.2.saved.map (fun v => v.streams)).getD []).filter (fun s => f p.1 s.2)).map (fun s => (p.1, k.1, s.1, s.2))))

/-- R295: every stream that satisfies `f` is cancelled, in its slot or in the save area. -/
def cancelWhere (e : Env) (m : Mach) (f : Nat → Stream → Bool) (x : StreamCancel) : Mach :=
  (savedWhere m f).foldl (fun a s => cancelSaved e s.1 s.2.1 x a (s.2.2.1, s.2.2.2))
    ((liveWhere m f).foldl (fun a s => markCancel a s.1 s.2 x) m)

/-! ### Rails of a context that is killed or reset -/

/-- A stream of core `home` names rail `r` of core `c` as a target, and is not one of context (c, k). -/
def namesRail (c r k home : Nat) (s : Stream) : Bool :=
  stDstKind s.w == 0 && stRail s.w == r && (stTargets s.w).contains c && !(home == c && s.ctx == k)

/-- R301: a handle is released without having been popped. -/
def loseEntry (m : Mach) (x : Entry) : Mach :=
  match x.origin with
  | none => m
  | some o =>
    if x.h.buffer = 255 ∨ x.generated then m
    else
      let m1 := addEvicted m o
      if x.spent ∨ x.h.length = 0 then m1 else spendTag (addWasted m1 o x.h.length) o x.h.tag

/-- R295, R301, R327: a rail is unbound: its handles and buffers are released, and the streams that target it are cancelled. -/
def unbindRail (e : Env) (m : Mach) (c k r : Nat) : Mach :=
  let p := (m.rail c r).pool
  let m1 := (m.rail c r).entries.foldl loseEntry m
  let m2 := m1.modRail c r (fun _ => { Rail.reset with pool := p })
  let m3 := m2.modPool c p (fun x => { x with used := x.used.filter (fun u => u.2 != r) })
  wakeRails e (cancelWhere e m3 (namesRail c r k) { drop := false, quiet := [(c, k)], fenced := [], unbound := [(c, r)] }) c

/-- R286, R327: a context that becomes FREE leaves its rails, as consumer and as producer. -/
def leaveRails (e : Env) (m : Mach) (c k : Nat) : Mach :=
  let mine := ((m.core c).rails.filter (fun r => r.2.consumer == some k)).map (fun r => r.1)
  let m1 := mine.foldl (fun a r => unbindRail e a c k r) m
  m1.modCore c (fun x => { x with rails := x.rails.map (fun r =>
    (r.1, if r.2.prodContext == some k then { r.2 with prodContext := none } else r.2)) })

/-- The buffers in a context's handle slots return to their pools. -/
def dropSlots (e : Env) (m : Mach) (c k : Nat) : Mach :=
  let hs := (m.ctx c k).hslots
  let m1 := m.modCtx c k (fun x => { x with hslots := [] })
  hs.foldl (fun a h => releaseBuffer e a c h.2.rail h.2.h.buffer) m1

/-- The buffers of handles that a context's work has pushed and nobody has popped return to their pools (R52). -/
def dropPushed (e : Env) (m : Mach) (c k : Nat) : Mach :=
  let mine (x : Entry) : Bool := x.maker == some (k, (m.ctx c k).workStroke)
  (m.core c).rails.foldl (fun a r =>
    let gone := r.2.entries.filter mine
    let a1 := a.modRail c r.1 (fun y =>
      { y with entries := y.entries.filter (fun x => !mine x), consumed := y.consumed + BitVec.ofNat 32 gone.length })
    gone.foldl (fun b x => releaseBuffer e b c r.1 x.h.buffer) a1) m

/-! ### Saved work (R112) -/

/-- R111, R112, R160, R198, R262, R327: what the save area holds is discarded: each command issued and not complete is abandoned with
its status and signal. -/
def discardSaved (e : Env) (m : Mach) (c k : Nat) (x : StreamCancel) : Mach :=
  match (m.ctx c k).saved with
  | none => m
  | some v =>
    let m1 := match v.tile with
      | some t => abandonTile e m c t x.drop
      | none => m
    let m2 := v.withdrawnArray.foldl (abandonPass e c x.drop) m1
    let stat (en : Engine) (a : Mach) (q : EngCmd) : Mach := engStatus e a c en q true x.drop
    let m3 := (v.chisel.toList ++ v.withdrawnChisel).foldl (stat .chisel) m2
    let m4 := (v.marquetry.toList ++ v.withdrawnMarquetry).foldl (stat .marquetry) m3
    let m5 := (v.scribe.toList ++ v.withdrawnScribe).foldl (stat .scribe) m4
    (v.streams.foldl (cancelSaved e c k x) m5).modCtx c k (fun y => { y with saved := none })

/-! ### The end of work -/

/-- R442: the STREAM status of an end. -/
def endStatus : EndKind → Nat
  | .cancel => 1
  | .drop => 1
  | .recover => 1
  | .fault => 2
  | .kill => 3
  | .reset => 3

/-- R429, R431 to R434, R541: the records of ended work, once no stream of it is left. -/
def closeWork (e : Env) (m : Mach) (c k : Nat) (kind : EndKind) : Mach :=
  let x := m.ctx c k
  let m0 := finishRequests e m c k (decide (kind ≠ .drop)) (decide (kind = .drop))
  let m1 := if kind = .fault ∨ kind = .recover then m0 else endComing e m0 c k (decide (kind = .drop))
  let m2 := if x.running then streamRecord e m1 c k (endStatus kind) else m1
  let m3 := m2.modCtx c k (fun y =>
    { y with
      subHead := if kind = .kill ∨ kind = .reset then y.subTail else if y.running then y.subHead + 1 else y.subHead,
      running := false, pos := 0, half := false, late := false, workOpen := false, yielded := false, ending := none })
  let m4 := finishAction e m3 c k 0
  if kind = .reset then m4.modCtx c k (fun y => { Ctx.reset with stamp := y.stamp }) else m4

/-- The records of a context whose work has ended wait for the last of its streams. -/
def tryClose (e : Env) (m : Mach) (c k : Nat) : Mach :=
  match (m.ctx c k).ending with
  | none => m
  | some kind => if (m.core c).streams.any (fun p => p.2.ctx == k) then m else closeWork e m c k kind

def endState : EndKind → CState
  | .cancel => .idle
  | .drop => .idle
  | .recover => .idle
  | .fault => .faulted
  | .kill => .free
  | .reset => .free

/-- R327: the work of context `k` of core `c` ends. -/
def endWork (e : Env) (m0 : Mach) (c k : Nat) (kind : EndKind) : Mach :=
  let m := match (m0.ctx c k).ending with
    | some old => closeWork e m0 c k old
    | none => m0
  let drop := decide (kind = .drop)
  let quiet := if kind = .fault then [] else [(c, k)]
  let cancel : StreamCancel := { drop := drop, quiet := quiet, fenced := [], unbound := [] }
  let m1 := abandonArray e m c k drop
  let m2 := abandonEngine e (abandonEngine e (abandonEngine e m1 c k drop .chisel) c k drop .marquetry) c k drop .scribe
  let m3 := discardSaved e m2 c k cancel
  let m4 := m3.modCore c (fun x => { x with merge := x.merge.filter (fun s => s.ctx != k) })
  let mine := ((m4.core c).streams.filter (fun p => p.2.ctx == k)).map (fun p => p.1)
  let m5 := mine.foldl (fun a s => markCancel a c s cancel) m4
  let m5b := dropSlots e (leaveWaits m5 c k) c k
  let m6 := if drop then dropPushed e m5b c k else m5b
  let m7 := if kind = .kill ∨ kind = .reset then leaveRails e m6 c k else m6
  let b := if kind = .cancel ∨ kind = .drop ∨ kind = .recover then (m7, []) else breakClamps m7 c k
  let m8 := b.2.foldl (fun a j => failCtx e a c j famClamp 0x13) b.1
  let m9 := m8.modCtx c k (fun x =>
    { x with loops := [], patches := [], intake := [], early := [], waitCmd := none, fault := none, faultAtFetch := false,
             saving := [], ending := some kind, held := x.held && !(kind == .kill || kind == .reset) })
  let m10 := setState e m9 c k (endState kind) .none 0
  tryClose e (startAll e (arrayAdvance e m10 c) c) c k

/-- The faults a command has met are acted on in order, those that they cause after them. A context whose work has ended
meets no further fault (R328). -/
def settleGo (e : Env) : Nat → Mach → Mach
  | 0, m => m
  | n + 1, m =>
    match m.due with
    | [] => m
    | d :: ds =>
      let m1 := { m with due := ds }
      let raise (m : Mach) : Mach :=
        if !d.write then m
        else if d.record.family = famMemory ∧ d.record.code = 0x13 then noteTray e d.core (raiseFault m (dieOf d.core) d.record)
        else raiseFault m (dieOf d.core) d.record
      match (m1.ctx d.core d.ctx).state with
      | .free => settleGo e n m1
      | .faulted => settleGo e n m1
      | .idle => settleGo e n (raise m1)
      | _ => settleGo e n (endWork e (raise m1) d.core d.ctx .fault)

def settle (e : Env) (m : Mach) : Mach := settleGo e (2 ^ 20) m

/-- With nothing to act on, settling changes nothing. -/
theorem settle_nil (e : Env) (m : Mach) (h : m.due = []) : settle e m = m := by
  unfold settle
  show settleGo e (2 ^ 20 - 1 + 1) m = m
  rw [settleGo, h]

end Sys2Proof.Machine
end

