-- ==== Sys2Proof/Machine/Preempt.lean ====
section
/-! DEFINITION. Waiting for units, pre-emption, the save area, restore and the retry after a repaired mapping (R105, R107 to
R109, R311, R313 to R325, R389, R390). -/

namespace Sys2Proof.Machine

/-! ### Waits with causes UNIT and IDLE_FENCE -/

/-- Contexts other than `k` of a list. -/
def others (k : Nat) (l : List Nat) : List Nat := l.filter (fun j => j != k)

/-- R185: the contexts that hold the merge table: that of the session, or of a `MERGE` on its way to start one. -/
def mergeHolder (m : Mach) (c : Nat) : List Nat :=
  match (m.core c).merge with
  | some s => [s.ctx]
  | none => ((m.core c).gat.filter (fun x => fld x.w 7 0 == 0x33)).map (fun x => x.ctx)

/-- R246, R262: a `SEARCH` that will run passes. -/
def searchPasses (w : Word) : Bool := fld w 7 0 == 0x40 && scQueries w != 0

/-- R313: whom a command of an engine finds in its way: the array's holders, queued commands, the merge table's holder. -/
def inTheWay (m : Mach) (c k : Nat) (w : Word) : List Nat :=
  let op := fld w 7 0
  others k <|
    if op / 16 = 1 then arrayHolders m c
    else if op / 16 = 2 then (m.core c).vec.map (fun x => x.ctx)
    else if op = 0x33 ∨ op = 0x34 then mergeHolder m c ++ (m.core c).gat.map (fun x => x.ctx)
    else if op / 16 = 3 then (m.core c).gat.map (fun x => x.ctx)
    else if searchPasses w then arrayHolders m c ++ (m.core c).scr.map (fun x => x.ctx)
    else if op / 16 = 4 then (m.core c).scr.map (fun x => x.ctx)
    else []

/-- R105, R185: those in the way that must let go before the command can be placed. -/
def mustLeave (m : Mach) (c k : Nat) (w : Word) : List Nat :=
  let op := fld w 7 0
  others k (if op / 16 = 1 ∨ searchPasses w then arrayHolders m c else if op = 0x33 ∨ op = 0x34 then mergeHolder m c else [])

def outranks (m : Mach) (c k j : Nat) : Bool := decide ((m.ctx c j).rank < (m.ctx c k).rank)

/-- R311: the issue window of the command's engine is full. -/
def windowFull (m : Mach) (c k : Nat) (w : Word) : Bool :=
  let op := fld w 7 0
  if op / 16 = 1 then decide (4 ≤ arrayIssued m c k)
  else if op / 16 = 2 then decide (4 ≤ engIssued m c k .chisel)
  else if op / 16 = 3 then decide (4 ≤ engIssued m c k .marquetry)
  else if op / 16 = 4 then decide (4 ≤ engIssued m c k .scribe)
  else false

/-- R499: with ARRAY 0 admitted no pass starts. -/
def needsClass (w : Word) : Bool := searchPasses w || (fld w 7 0 == 0x10 && !psEmpty w)

/-- R303, R390: a stream of the context still waits to retake the slot. -/
def slotAwaited (m : Mach) (c k slot : Nat) : Bool := (m.ctx c k).saved.any (fun v => v.streams.any (fun p => p.1 == slot))

/-- R308: a command waits with cause UNIT. -/
def unitBlocked (m : Mach) (c k : Nat) (w : Word) : Bool :=
  let op := fld w 7 0
  if op = 0x50 then (m.stream? c (stSlot w)).any (fun s => s.ctx != k)
  else if op = 0x51 then (m.stream? c (fld w 67 64)).any (fun s => s.rearmHeld.isSome) || slotAwaited m c k (fld w 67 64)
  else if op = 0x53 then slotAwaited m c k (fld w 67 64)
  else
    windowFull m c k w || (needsClass w && arrayClass m c == 0) ||
      (mustLeave m c k w).any (fun j => !outranks m c k j)

/-- R324: what a saved context must have free before it is restored. -/
def restoreBlocked (m : Mach) (c k : Nat) : Bool :=
  match (m.ctx c k).saved with
  | none => false
  | some v =>
    ((v.tile.isSome || v.raw.isSome || v.rePreload.isSome || !v.withdrawnArray.isEmpty) &&
      (arrayHolders m c).any (fun j => j != k)) ||
    (v.merge.isSome && (mergeHolder m c).any (fun j => j != k)) ||
    v.streams.any (fun p => (m.stream? c p.1).isSome)

/-- R317, R326: the earlier commands of a context are complete; for `STOP`, its tile has drained too. -/
def fenceMet (m : Mach) (c k : Nat) : Bool := enginesIdle m c k

/-- The cause of a waiting or saved context of core `c` is met. -/
def unitMet (m : Mach) (c k : Nat) : Bool :=
  let x := m.ctx c k
  match x.cause with
  | .unit => !(x.waitCmd.any (fun w => unitBlocked m c k w)) && (x.state != .saved || !restoreBlocked m c k)
  | .idleFence => fenceMet m c k
  | _ => false

/-- R314: those whose pre-emption is in progress keep their state. -/
def wakeCore (e : Env) (m : Mach) (c : Nat) : Mach :=
  wakeAll e c ((List.range 16).filter (fun k =>
    ((m.ctx c k).state == .waiting || (m.ctx c k).state == .saved) && (m.ctx c k).saving.isEmpty && unitMet m c k)) m

/-- R437: the value of a patch for a batch of `n` requests. -/
def patchValue (n : Nat) (p : PlanPatch) : IntakePatch :=
  { offset := p.offset, bit := p.bit, width := p.width,
    value := if p.form = 0 then n else if p.form = 1 then min (n - 128 * p.arg) 128 else n * p.arg }

/-- R52, R436, R440: the context can start its next stroke's work: nothing of an earlier one is open, its batch record is
written and its half is outside the boundary window. -/
def mayBegin (e : Env) (m : Mach) (c k : Nat) : Bool :=
  let x := m.ctx c k
  coreIn e m c && !windowAt e.k (dieOf c) && !x.workOpen && x.ending.isNone && x.saving.isEmpty &&
    !(x.state == .free || x.state == .faulted || x.state == .faultWait) && x.coming.head?.any (fun w => w.ready)

/-- R436, R440: the block of a stroke's work starts at command 0; with SKIP_EMPTY and no request the context yields at once. -/
def beginWork (e : Env) (m : Mach) (c k : Nat) : Mach :=
  match (m.ctx c k).coming with
  | [] => m
  | w :: ws =>
    let skip := w.block.skip && w.requests.isEmpty
    let m1 := m.modCtx c k (fun x =>
      { x with coming := ws, workOpen := true, workStroke := w.stroke, workRing := w.ring, requests := w.requests,
               late := w.late, yielded := skip, base := w.block.base, length := w.block.length, cx6 := w.block.cx6, pos := 0, half := false,
               loops := [], patches := [], early := [], waitCmd := none,
               intake := w.block.patches.map (patchValue w.requests.length) })
    let m2 := dropStreamLines e m1 c w.block.base (w.block.length * (if w.block.cx6 then 32 else 64))
    let x := m2.ctx c k
    if x.state = .saved then setState e m2 c k .saved (if skip then .boundary else savedCause x) 0
    else if skip then setState e m2 c k .waiting .boundary 0
    else setState e m2 c k .ready .none 0

/-- Every serving context of a core that can starts its next work. -/
def beginCore (e : Env) (m : Mach) (c : Nat) : Mach :=
  (List.range 16).foldl (fun a k => if mayBegin e a c k then beginWork e a c k else a) m

/-- Every context whose engine, window, slot or fence has come free becomes able to go on, and work that can start starts. -/
def wakeUnits (e : Env) (m : Mach) : Mach :=
  (m.cores.map (fun p => p.1)).foldl (fun a c => beginCore e (wakeCore e a c) c) m

/-! ### The save area (R320 to R322) -/

/-- R320, R321: the tray address of a part. -/
def partAt (x : Ctx) (off : Nat) : Nat := x.saveBase + (if x.arrayBit then off else off - 0x81000)

/-- R102: the group and column of a physical column of a tile; none outside its enabled cells. -/
def cellAt (t : Tile) (i p : Nat) : Option Cell :=
  let wd := 256 / t.f
  if i < t.m ∧ p % wd < t.n then t.cells[(p / wd * t.m + i) * t.n + p % wd]? else none

/-- R84, R96, R103, R108: the image of a cell that the tile does not enable. It holds zero but inside the rectangle of the preload in
group 0, where the source value stands unconverted (R122): of a RAW128 source its copy, of another a free value. -/
def idleCellBytes (kind : Nat) (t : Tile) (i p : Nat) : List Byte :=
  let w := t.pre.w
  if plKind w ≠ 0 ∧ p < 256 / t.f ∧ i < plRows w ∧ p < plCols w then
    if plFmt w = 4 then leBytes 16 (t.pre.values.getD (i * plCols w + p) 0)
    else (List.range 16).map (fun b => Config.freeByte kind ((256 * i + p) * 16 + b))
  else leBytes 16 0

/-- R113, R320: the 128-bit image of a cell as spilled. -/
def cellBytes (kind : Nat) (t : Tile) (i p : Nat) : List Byte :=
  match cellAt t i p with
  | some x => leBytes 16 (if x.poison then poisonImage else image 128 x.acc)
  | none => idleCellBytes kind t i p

/-- R126: cells that a tile does not enable are not poisoned. -/
def poisonByte (t : Tile) (n : Nat) : Byte :=
  BitVec.ofNat 8 (((List.range 8).map (fun b =>
    2 ^ b * bit ((cellAt t ((8 * n + b) / 256) ((8 * n + b) % 256)).any (fun x => x.poison)))).sum)

/-- R108: the spill of a tile. -/
def spillTile (m : Mach) (c : Nat) (x : Ctx) (t : Tile) : Mach :=
  let m1 := (List.range 128).foldl (fun a i =>
    trayWrite a c (partAt x (4096 * i)) ((List.range 256).flatMap (fun p => cellBytes (16 + m.free) t i p))) (freeStep m)
  trayWrite m1 c (partAt x 0x80000) ((List.range 4096).map (poisonByte t))

/-- Bytes of the save area that no rule gives, as free values of their own (notes/assumptions/3). -/
def saveFree (m : Mach) (c : Nat) (x : Ctx) (off n : Nat) : Mach :=
  if n = 0 then m else trayWrite (freeStep m) c (partAt x off) (freeBytes (16 + m.free) n)

/-- Listed bytes of a part of `size` bytes; the rest of the part is free. -/
def savePart (m : Mach) (c : Nat) (x : Ctx) (off size : Nat) (bs : List Byte) : Mach :=
  saveFree (trayWrite m c (partAt x off) bs) c x (off + bs.length) (size - bs.length)

/-- R287, R320: the words of the handle slots; those of empty slots are free. -/
def saveHandles (m : Mach) (c : Nat) (x : Ctx) : Mach :=
  (List.range 8).foldl (fun a i =>
    match x.hslots.find? (fun p => p.1 == i) with
    | some p => trayWrite a c (partAt x (0x9AD40 + 8 * i)) (leBytes 8 (handleWord p.2.h))
    | none => saveFree a c x (0x9AD40 + 8 * i) 8) m

/-- The images of one engine's withdrawn commands. -/
def saveImages (m : Mach) (c : Nat) (x : Ctx) (slot : Nat) (ws : List Word) : Mach :=
  trayWrite m c (partAt x (0x9A800 + 256 * slot)) ((ws.take 4).flatMap (fun w => leBytes 64 w.toNat))

/-- A 64-byte record of a unit, whose layout no rule gives. -/
def withRecord (m : Mach) (c : Nat) (x : Ctx) (on : Bool) (off : Nat) : Mach := if on then saveFree m c x off 64 else m

/-- R260: the marked and unconsumed pairs of a saved `SEARCH`. -/
def savedPairs (v : Saved) : List (Nat × Nat) := (v.scribe.bind (fun q => q.search)).elim [] SearchRun.pairs

/-- R159: the lane partials of a saved vector command. -/
def savedLanes (v : Saved) : List (BitVec 32) := v.chisel.elim [] (fun q => q.acc)

/-- R260, R320: the bytes of pairs (q, u), 16 each. -/
def pairBytes (ps : List (Nat × Nat)) : List Byte := ps.flatMap (fun p => leBytes 8 p.1 ++ leBytes 8 p.2)

/-- R195, R320: the partial accumulator of a saved bag. -/
def savedBag (v : Saved) : List (BitVec 32) := v.marquetry.elim [] (fun q => q.acc)

/-- FP32 values in the tray. -/
def laneBytes (ps : List (BitVec 32)) : List Byte := ps.flatMap (fun a => leBytes 4 a.toNat)

/-- R320: every part but the context record, as far as there is state for it. -/
def saveParts (m : Mach) (c k : Nat) : Mach :=
  let x := m.ctx c k
  match x.saved with
  | none => m
  | some v =>
    let m1 := match v.tile with
      | some t => if x.arrayBit then withRecord (spillTile m c x t) c x true 0x9AD80 else m
      | none => m
    let m2 := match v.merge with
      | some s => savePart m1 c x 0x81000 65536 (s.tags.flatMap (leBytes 8))
      | none => m1
    let m3 := trayWrite m2 c (partAt x 0x99000) (laneBytes (savedBag v))
    let m4 := trayWrite m3 c (partAt x 0x91000) (pairBytes (savedPairs v))
    let m5 := if (savedLanes v).isEmpty then m4 else savePart m4 c x 0x9A000 1024 (laneBytes (savedLanes v))
    let m6 := withRecord (withRecord (withRecord m5 c x v.chisel.isSome 0x9ADC0) c x v.marquetry.isSome 0x9AE00) c x
      v.scribe.isSome 0x9AE40
    let m7 := v.streams.foldl (fun a p => saveFree a c x (0x9A400 + 64 * p.1) 64) m6
    let m8 := saveImages (saveImages (saveImages (saveImages m7 c x 0 (v.withdrawnArray.map (fun q => q.w))) c x 1
      (v.withdrawnChisel.map (fun q => q.w))) c x 2 (v.withdrawnMarquetry.map (fun q => q.w))) c x 3
      (v.withdrawnScribe.map (fun q => q.w))
    let m9 := match x.waitCmd with
      | some w => trayWrite m8 c (partAt x 0x9AD00) (leBytes 64 w.toNat)
      | none => m8
    if x.hslots.isEmpty then m9 else saveHandles m9 c x

/-- R322: the VALID word. -/
def validWord (x : Ctx) (v : Saved) : Nat :=
  bit v.tile.isSome + 2 * bit v.merge.isSome + 4 * bit (!(savedPairs v).isEmpty) +
    8 * bit (!(savedBag v).isEmpty) + 16 * bit (!(savedLanes v).isEmpty) + 32 * bit x.waitCmd.isSome +
    64 * bit x.fault.isSome

def loopBytes (ls : List LoopLevel) : List Byte :=
  (List.range 4).flatMap (fun i =>
    match ls[i]? with
    | some l => leBytes 4 l.start ++ leBytes 4 l.stop ++ leBytes 4 l.remaining ++ leBytes 4 0
    | none => leBytes 16 0)

/-- R322: WITHDRAWN and STREAMS. -/
def withdrawnWord (v : Saved) : Nat :=
  min 4 v.withdrawnArray.length + 16 * min 4 v.withdrawnChisel.length + 256 * min 4 v.withdrawnMarquetry.length +
    4096 * min 4 v.withdrawnScribe.length

def streamsWord (v : Saved) : Nat := v.streams.foldl (fun a p => a ||| 2 ^ p.1) 0

def Saved.empty : Saved :=
  { tile := none, raw := none, streaming := none, rePreload := none, withdrawnArray := [], withdrawnChisel := [],
    withdrawnMarquetry := [], withdrawnScribe := [], chisel := none, marquetry := none, scribe := none, merge := none,
    streams := [] }

/-- R322: the context record of a SAVED context. -/
def contextRecord (e : Env) (c : Nat) (x : Ctx) : List Byte :=
  let v := x.saved.getD Saved.empty
  leBytes 4 (stateObject x) ++ leBytes 4 (validWord x v) ++ leBytes 8 x.pos ++ loopBytes x.loops ++
    (match x.fault with
      | some r => faultBytes r
      | none => leBytes 32 0) ++
    leBytes 2 (withdrawnWord v) ++ leBytes 2 (streamsWord v) ++ leBytes 4 x.causeDetail ++
    leBytes 8 (strokeAt e.k (dieOf c)) ++ leBytes 128 0

/-! ### Pre-emption -/

/-- R308, R314: the cause that a context shows when it becomes SAVED: that of its wait unless it has been met. Its own engine work no
longer keeps it waiting (notes/assumptions/25). -/
def causeAtSave (m : Mach) (c k : Nat) : Cause × Nat :=
  let x := m.ctx c k
  if x.state = .waiting ∧ !x.met ∧ !unitMet m c k then (x.cause, x.causeDetail)
  else if x.fault.isSome then (.fault, 0) else (.none, 0)

/-- R314 step 5, R323: the last engine has saved, and the whole area is written. Before that nothing of it is, so a kill during a spill
leaves the area as it was (R112 does not say how much of it a stopped spill has written; DESIGN CHOICE, notes/assumptions/65). -/
def finishSave (e : Env) (m : Mach) (c k : Nat) : Mach :=
  let q := causeAtSave m c k
  let m1 := saveParts m c k
  let m2 := setState e m1 c k .saved q.1 q.2
  let x := m2.ctx c k
  let m3 := trayWrite m2 c (partAt x 0x9AC00) (contextRecord e c x)
  if x.pendAction.any (fun a => a.1 == .preempt) then finishAction e m3 c k 0 else m3

/-- R314, R316: the pre-emption of a context whose engines have all saved ends. -/
def trySaved (e : Env) (m : Mach) (c k : Nat) : Mach :=
  if (m.ctx c k).saving.isEmpty then finishSave e m c k else m

/-- The engines of core `c` that have started work of context `k` to save. -/
def engineHas (m : Mach) (c k : Nat) (en : Engine) : Bool :=
  let a := m.arr c
  match en with
  | .array =>
    a.streaming.any (fun s => s.cmd.ctx == k) || a.active.any (fun t => t.ctx == k) || a.activeRaw.any (fun p => p.ctx == k) ||
      a.draining.any (fun t => t.ctx == k)
  | .batten => (m.core c).streams.any (fun p => p.2.ctx == k)
  | x => ((engQueue m c x).head?).any (fun q => q.started && q.ctx == k)

/-- R314 step 1: the commands of a context that have not started leave an engine's queue. -/
def withdrawQueue (m : Mach) (c k : Nat) (en : Engine) : Mach × List EngCmd :=
  let q := engQueue m c en
  (setEngQueue m c (q.filter (fun x => x.ctx != k || x.started)) en, q.filter (fun x => x.ctx == k && !x.started))

/-- R313, R314: the pre-emption of context `k` begins. -/
def preemptBegin (e : Env) (m : Mach) (c k : Nat) : Mach :=
  let x := m.ctx c k
  let live := x.state == .ready || x.state == .running || x.state == .waiting || x.state == .faultWait
  if !live || !x.saving.isEmpty then m
  else
    let a := m.arr c
    let v0 := x.saved.getD Saved.empty
    let re := (a.preload.filter (fun p => p.ctx == k)).map (fun p =>
      ({ ctx := k, w := p.w, stroke := strokeAt e.k (dieOf c) } : ArrCmd))
    let qc := withdrawQueue m c k .chisel
    let qm := withdrawQueue qc.1 c k .marquetry
    let qs := withdrawQueue qm.1 c k .scribe
    let freeMerge := !engineHas m c k .marquetry && (m.core c).merge.any (fun s => s.ctx == k)
    let v : Saved := { v0 with
      rePreload := re.orElse (fun _ => v0.rePreload),
      withdrawnArray := v0.withdrawnArray ++ a.queue.filter (fun q => q.ctx == k),
      withdrawnChisel := v0.withdrawnChisel ++ qc.2, withdrawnMarquetry := v0.withdrawnMarquetry ++ qm.2,
      withdrawnScribe := v0.withdrawnScribe ++ qs.2,
      merge := if freeMerge then (m.core c).merge else v0.merge }
    let m1 := qs.1.modArr c (fun y =>
      { y with queue := y.queue.filter (fun q => q.ctx != k), preload := y.preload.filter (fun p => p.ctx != k) })
    let m2 := if freeMerge then setMerge m1 c none else m1
    let ens := [Engine.array, .chisel, .marquetry, .scribe, .batten].filter (fun en => engineHas m2 c k en)
    let m3 := m2.modCtx c k (fun y => { y with saved := some v, saving := ens, met := false })
    let m4 := if x.state = .running then setState e m3 c k .ready .none 0 else m3
    trySaved e (startAll e (arrayAdvance e m4 c) c) c k

/-- Lower-ranked contexts in the way are pre-empted. -/
def preemptLower (e : Env) (c k : Nat) : List Nat → Mach → Mach
  | [], m => m
  | j :: js, m => preemptLower e c k js (if outranks m c k j then preemptBegin e m c j else m)

def modSaved (m : Mach) (c k : Nat) (f : Saved → Saved) : Mach :=
  m.modCtx c k (fun x => { x with saved := some (f (x.saved.getD Saved.empty)) })

/-- R106, R107, R108: the array stops at the slice boundary that `n` more slices per group reach, swaps and spills; a drain in progress
has to complete first. A set that `SWAP` has made active and that no pass has streamed into stays as it was loaded, is not spilled and
leaves VALID bit 0 clear: R107's table does not name it (DESIGN CHOICE, notes/assumptions/65). -/
def saveArray (e : Env) (m : Mach) (c k n : Nat) : Mach × Bool :=
  let a := m.arr c
  if a.draining.isSome then (m, false)
  else
    match a.streaming, a.active with
    | some s, some t =>
      let w := s.cmd.w
      let hi := min (psShare w) (s.streamed + toBoundary w n)
      match trayBad m c (passReads w s.streamed hi) with
      | some y => (failTray e m c k y, false)
      | none =>
        let r := streamOn m c s hi t
        (modSaved (r.1.modArr c (fun y => { y with streaming := none, active := none })) c k (fun v =>
          { v with tile := some r.2, streaming := some { s with streamed := hi } }), true)
    | _, some t => (modSaved (m.modArr c (fun y => { y with active := none })) c k (fun v => { v with tile := some t }), true)
    | _, none =>
      (modSaved (m.modArr c (fun y => { y with activeRaw := none })) c k (fun v => { v with raw := a.activeRaw }), true)

/-- The parts of the saved work that belong to one engine. -/
def parkHead (m : Mach) (c k : Nat) (en : Engine) (x : EngCmd) : Mach :=
  modSaved m c k (fun v =>
    match en with
    | .chisel => { v with chisel := some x }
    | .marquetry => { v with marquetry := some x }
    | _ => { v with scribe := some x })

/-- The head of a queue leaves it. -/
def popHead (e : Env) (m : Mach) (c : Nat) (en : Engine) : Mach :=
  engStart e (setEngQueue m c (engQueue m c en).tail en) c en

/-- R195, R318, R389: a Marquetry engine that saves also saves the merge session its context holds, and empties the table. -/
def saveMerge (m : Mach) (c k : Nat) (en : Engine) : Mach :=
  match (m.core c).merge with
  | some s => if en = .marquetry ∧ s.ctx = k then setMerge (modSaved m c k (fun v => { v with merge := some s })) c none else m
  | none => m

/-- R389: an engine of context `k` has faulted: it saves its command, and it is released. -/
def parkFaulted (e : Env) (m : Mach) (c k : Nat) (en : Engine) (x : EngCmd) : Mach :=
  let q := withdrawQueue m c k en
  let m1 := parkHead q.1 c k en x
  let m2 := modSaved m1 c k (fun v =>
    match en with
    | .chisel => { v with withdrawnChisel := v.withdrawnChisel ++ q.2 }
    | .marquetry => { v with withdrawnMarquetry := v.withdrawnMarquetry ++ q.2 }
    | _ => { v with withdrawnScribe := v.withdrawnScribe ++ q.2 })
  let m3 := saveMerge (if en = .scribe then flushOwner e m2 c k 0 0 else m2) c k en
  popHead e (saveParts m3 c k) c en

/-- R147, R163, R235: the head of a queue has run to its end, or to what stops it. -/
def engineEnds (e : Env) (m : Mach) (c : Nat) (en : Engine) : Mach :=
  match engQueue m c en with
  | [] => m
  | x :: xs =>
    if !x.started || !coreClocked e m c || (m.ctx c x.ctx).saving.contains en then m
    else
      let r := engRun e m c en (2 ^ 64) x
      let y := r.2.1
      let m1 := setEngQueue r.1 c (y :: xs) en
      match r.2.2 with
      | .done => popHead e (engStatus e m1 c en y false (lateWork m1 c y.ctx)) c en
      | .got (.fault k l va) => parkFaulted e (engFail e m1 c en y (.got (.fault k l va))) c y.ctx en y
      | .header (.fault k l va) => parkFaulted e (engFail e m1 c en y (.header (.fault k l va))) c y.ctx en y
      | .put (.fault k l va) => parkFaulted e (engFail e m1 c en y (.put (.fault k l va))) c y.ctx en y
      | s => engFail e m1 c en y s

/-- R159, R195, R260: an engine brings its running command to a safe point `n` steps on. A command that ends by then is
complete. -/
def saveEngine (e : Env) (m : Mach) (c k : Nat) (en : Engine) (n : Nat) : Mach × Bool :=
  match engQueue m c en with
  | [] => (m, true)
  | x :: xs =>
    let r := engRun e m c en n x
    let y := r.2.1
    let m1 := setEngQueue r.1 c (y :: xs) en
    match r.2.2 with
    | .done => (popHead e (engStatus e m1 c en y false (lateWork m1 c k)) c en, true)
    | .paused => (popHead e (parkHead m1 c k en y) c en, true)
    | .got (.fault a b va) => (popHead e (parkHead (engFail e m1 c en y (.got (.fault a b va))) c k en y) c en, true)
    | .header (.fault a b va) => (popHead e (parkHead (engFail e m1 c en y (.header (.fault a b va))) c k en y) c en, true)
    | .put (.fault a b va) => (popHead e (parkHead (engFail e m1 c en y (.put (.fault a b va))) c k en y) c en, true)
    | s => (engFail e m1 c en y s, false)

/-- A stream leaves its slot for the save area; bytes it has read and not delivered are read again, and wasted unless a fault stopped
it (R301, R303, R304). -/
def shelveStream (m : Mach) (c k slot : Nat) (x : Stream) : Mach :=
  let lost := x.reads && !x.faulted && !x.flight.isEmpty
  let m1 := if lost then addWasted m (c, slot, x.gen) x.flight.length else m
  let y := { (m1.stream? c slot).getD x with flight := [] }
  modSaved (m1.dropStream c slot) c k (fun v => { v with streams := v.streams ++ [(slot, y)] })

/-- R303: every stream of the context moves `n` pieces on at most and leaves its slot. -/
def saveStreams (e : Env) (m : Mach) (c k n : Nat) : Mach :=
  let slots := ((m.core c).streams.filter (fun p => p.2.ctx == k && p.2.cancel.isNone)).map (fun p => p.1)
  slots.foldl (fun a s =>
    let r := match a.stream? c s with
      | some x =>
        if x.active && !x.faulted && coreClocked e a c && !guidedHeld e c x then streamRun e c s n a else (a, .blocked)
      | none => (a, .blocked)
    let b := streamFault e r.1 c s k r.2
    match b.stream? c s with
    | some x => shelveStream b c k s x
    | none => b) m

/-- R315, R318: engine `en` finishes saving for the context that waits for it. -/
def engineSaves (e : Env) (m : Mach) (c : Nat) (en : Engine) (n : Nat) : Mach :=
  match (List.range 16).find? (fun k => (m.ctx c k).saving.contains en) with
  | none => m
  | some k =>
    let r := match en with
      | .array => saveArray e m c k n
      | .batten =>
        if (m.core c).streams.any (fun p => p.2.ctx == k && p.2.cancel.isSome) then (m, false) else (saveStreams e m c k n, true)
      | x => saveEngine e m c k x n
    if !r.2 then r.1
    else
      let m1 := saveMerge (if en = .scribe then flushOwner e r.1 c k 0 0 else r.1) c k en
      let m2 := m1.modCtx c k (fun x => { x with saving := x.saving.filter (fun y => y != en) })
      trySaved e (startAll e (arrayAdvance e m2 c) c) c k

/-! ### Restore and retry -/

/-- A command that goes on from its record. -/
def fromRecord (x : EngCmd) : EngCmd :=
  { x with started := false, resumed := true, clear := false, search := x.search.map SearchRun.reissue }

/-- R320: the tray ranges of the save area that a restore reads. -/
def savedReads (x : Ctx) (v : Saved) : List (Nat × Nat) :=
  (if v.tile.isSome && x.arrayBit then [(partAt x 0, 0x81000)] else []) ++
    (v.merge.map (fun s => (partAt x 0x81000, 8 * s.tags.length))).toList ++
    [(partAt x 0x91000, 16 * (savedPairs v).length), (partAt x 0x99000, 4 * (savedBag v).length),
     (partAt x 0x9A000, 4 * (savedLanes v).length)] ++
    [(0, v.withdrawnArray.length), (1, v.withdrawnChisel.length), (2, v.withdrawnMarquetry.length),
     (3, v.withdrawnScribe.length)].map (fun q => (partAt x (0x9A800 + 256 * q.1), 64 * min 4 q.2)) ++
    (if x.waitCmd.isSome then [(partAt x 0x9AD00, 64)] else []) ++
    x.hslots.map (fun p => (partAt x (0x9AD40 + 8 * p.1), 8))

/-- R109, R320: a tile as the save area gives it. -/
def readTile (m : Mach) (c : Nat) (x : Ctx) (t : Tile) : Tile :=
  let wd := 256 / t.f
  let cell (g i j : Nat) : Cell :=
    let n := 256 * i + (g * wd + j)
    let v := trayNat m c (partAt x (16 * n)) 16
    if v = poisonImage ∨ natBit (trayNat m c (partAt x (0x80000 + n / 8)) 1) (n % 8) then { acc := 0, poison := true }
    else { acc := signed 128 v, poison := false }
  { t with cells := (List.range t.f).flatMap (fun g => (List.range t.m).flatMap (fun i => (List.range t.n).map (cell g i))) }

/-- Words of a part of the save area. -/
def readWords (m : Mach) (c : Nat) (x : Ctx) (off size n : Nat) : List Nat :=
  (List.range n).map (fun i => trayNat m c (partAt x (off + size * i)) size)

/-- The first four withdrawn images of an engine as the save area gives them. -/
def readImages (m : Mach) (c : Nat) (x : Ctx) (slot : Nat) (ws : List Word) : List Word :=
  (readWords m c x (0x9A800 + 256 * slot) 64 (min 4 ws.length)).map (BitVec.ofNat 512) ++ ws.drop 4

def setWords (qs : List EngCmd) (ws : List Word) : List EngCmd := (qs.zip ws).map (fun p => { p.1 with w := p.2 })

/-- R260: a search whose marked pairs are those of the list. -/
def SearchRun.withPairs (s : SearchRun) (ps : List (Nat × Nat)) : SearchRun :=
  { s with batch := ps.take s.batch.length, pend := ps.drop s.batch.length }

/-- R319, R320: the saved work as the save area gives it; what no rule places there is as it was (notes/assumptions/3). -/
def readSaved (m : Mach) (c : Nat) (x : Ctx) (v : Saved) : Saved :=
  let lanes (off : Nat) (q : EngCmd) : EngCmd :=
    { q with acc := (readWords m c x off 4 q.acc.length).map (BitVec.ofNat 32) }
  let pairs := (readWords m c x 0x91000 16 (savedPairs v).length).map (fun p => (p % 2 ^ 64, p / 2 ^ 64))
  { v with
    tile := v.tile.map (fun t => if x.arrayBit then readTile m c x t else t),
    merge := v.merge.map (fun s => { s with tags := readWords m c x 0x81000 8 s.tags.length }),
    chisel := v.chisel.map (lanes 0x9A000), marquetry := v.marquetry.map (lanes 0x99000),
    scribe := v.scribe.map (fun q => { q with search := q.search.map (fun s => s.withPairs pairs) }),
    withdrawnArray := (v.withdrawnArray.zip (readImages m c x 0 (v.withdrawnArray.map (fun q => q.w)))).map (fun p =>
      { p.1 with w := p.2 }),
    withdrawnChisel := setWords v.withdrawnChisel (readImages m c x 1 (v.withdrawnChisel.map (fun q => q.w))),
    withdrawnMarquetry := setWords v.withdrawnMarquetry (readImages m c x 2 (v.withdrawnMarquetry.map (fun q => q.w))),
    withdrawnScribe := setWords v.withdrawnScribe (readImages m c x 3 (v.withdrawnScribe.map (fun q => q.w))) }

/-- R317, R320: the pending command and the handles of a restored context as the save area gives them. -/
def readIssue (m : Mach) (c : Nat) (x : Ctx) : Ctx :=
  { x with
    waitCmd := x.waitCmd.map (fun _ => BitVec.ofNat 512 (trayNat m c (partAt x 0x9AD00) 64)),
    hslots := x.hslots.map (fun p => (p.1, { p.2 with h := handleOf (trayNat m c (partAt x (0x9AD40 + 8 * p.1)) 8) })) }

/-- R324 steps 4 and 5, R390: Chisel, Marquetry and Scribe commands go back into their queues. -/
def requeue (e : Env) (m : Mach) (c k : Nat) (v : Saved) : Mach :=
  let put (m : Mach) (en : Engine) (h : Option EngCmd) (ws : List EngCmd) : Mach :=
    engStart e (setEngQueue m c (engQueue m c en ++ h.toList.map fromRecord ++ ws) en) c en
  let m0 := m.modCtx c k (fun x => { x with saved := x.saved.map (fun y =>
    { y with chisel := none, marquetry := none, scribe := none, withdrawnChisel := [], withdrawnMarquetry := [],
             withdrawnScribe := [] }) })
  put (put (put m0 .chisel v.chisel v.withdrawnChisel) .marquetry v.marquetry v.withdrawnMarquetry) .scribe
    v.scribe v.withdrawnScribe

/-- R309, R310: the sequencer turns to context `k`. -/
def chooseCtx (e : Env) (m : Mach) (c k : Nat) : Mach :=
  let m1 := ((List.range 16).filter (fun j => j != k && (m.ctx c j).state == .running)).foldl
    (fun a j => setState e a c j .ready .none 0) m
  let m2 := if (m1.ctx c k).state = .running then m1 else setState e m1 c k .running .none 0
  m2.modCore c (fun x => { x with lastChosen := k })

/-- A saved stream in its slot again (R303). -/
def unshelve (c : Nat) (m : Mach) (p : Nat × Stream) : Mach :=
  m.setStream c p.1 { p.2 with resumed := p.2.active || p.2.resumed, faulted := false }

/-- R109, R303, R319, R324: the work of a SAVED context goes back into the engines from its save area, and the context runs. An
uncorrectable word of what is read ends its work (R356). -/
def restoreCtx (e : Env) (m0 : Mach) (c k : Nat) : Mach :=
  match (m0.ctx c k).saved with
  | none => chooseCtx e m0 c k
  | some v0 =>
    let rs := savedReads (m0.ctx c k) v0
    match trayBad m0 c rs with
    | some a => failTray e m0 c k a
    | none =>
      let m := trayCount m0 c rs
      let v := readSaved m c (m.ctx c k) v0
      let m1 := m.modArr c (fun a =>
        { a with active := (v.tile.map (fun t => { t with resumed := true })).orElse (fun _ => a.active),
                 activeRaw := v.raw.orElse (fun _ => a.activeRaw),
                 streaming := v.streaming.orElse (fun _ => a.streaming),
                 queue := a.queue ++ v.rePreload.toList ++ v.withdrawnArray })
      let m2 := if v.merge.isSome then setMerge m1 c v.merge else m1
      let m3 := v.streams.foldl (unshelve c) m2
      let m4 := (requeue e m3 c k v).modCtx c k (fun x => { readIssue m c x with saved := none })
      chooseCtx e (startAll e (arrayAdvance e m4 c) c) c k

/-- R390: every faulted engine of the context retries from its resume point. Streams and a merge session wait until their slots and
the table are free. While a pre-emption is in progress the work stays saved. -/
def retryFaulted (e : Env) (m : Mach) (c k : Nat) : Mach :=
  let clear (s : Stream) : Stream := if s.ctx = k then { s with faulted := false } else s
  let m1 := (m.modCtx c k (fun x => { x with fault := none, faultAtFetch := false })).modCore c (fun x =>
    x.mapStreams (fun _ s => clear s))
  match (m1.ctx c k).state with
  | .saved => if (m1.ctx c k).cause = .fault then setState e m1 c k .saved .none 0 else m1
  | .faultWait =>
    let m2 := setState e m1 c k .ready .none 0
    match (m2.ctx c k).saved with
    | some v =>
      if !(m2.ctx c k).saving.isEmpty then m2
      else
        let rs := savedReads { m2.ctx c k with waitCmd := none, hslots := [] } v
        match trayBad m2 c rs with
        | some a => failTray e m2 c k a
        | none => requeue e (trayCount m2 c rs) c k (readSaved (trayCount m2 c rs) c ((trayCount m2 c rs).ctx c k) v)
    | none => m2
  | _ => m1

/-! ### What follows a command -/

/-- R389: the context's streams have stopped at a translation fault and wait to be saved. -/
def parks (m : Mach) (c k : Nat) : Bool :=
  (m.ctx c k).fault.isSome && (m.core c).streams.any (fun p => p.2.ctx == k && p.2.faulted && p.2.cancel.isNone)

/-- R303, R304, R389: the Batten engine saves the streams of a context that has faulted, and their slots are free. -/
def parkStreams (c k : Nat) (m : Mach) : Mach :=
  let mine := (m.core c).streams.filter (fun p => p.2.ctx == k && p.2.cancel.isNone)
  saveParts (mine.foldl (fun a p => shelveStream a c k p.1 p.2) m) c k

/-- R390: the context runs on while parts of its work wait to go back. -/
def Ctx.retakes (x : Ctx) : Bool :=
  x.saved.isSome && x.saving.isEmpty && (x.state == .ready || x.state == .running || x.state == .waiting)

/-- R303, R318, R390: the streams whose slots are free, and the merge session once the table is, go back. -/
def retake (c k : Nat) (m : Mach) : Mach :=
  match (m.ctx c k).saved with
  | none => m
  | some v =>
    let back := v.streams.filter (fun p => (m.stream? c p.1).isNone)
    let m1 := back.foldl (unshelve c) m
    let merge := v.merge.isSome && (m1.core c).merge.isNone
    let m2 := if merge then setMerge m1 c v.merge else m1
    let v1 : Saved := { v with streams := v.streams.filter (fun p => (m.stream? c p.1).isSome),
                               merge := if merge then none else v.merge }
    m2.modCtx c k (fun x => { x with saved := if v1 = Saved.empty then none else some v1 })

/-- The contexts of every core that satisfy `f`. -/
def ctxsWhere (m : Mach) (f : Nat → Nat → Bool) : List (Nat × Nat) :=
  m.cores.flatMap (fun p => ((List.range 16).filter (f p.1)).map (fun k => (p.1, k)))

/-- Faults met are acted on, faulted streams saved, parts of saved work that have room put back, and the Batten engines go on; again
while that has met another fault. -/
def quiesce (e : Env) : Nat → Mach → Mach
  | 0, m => m
  | n + 1, m =>
    let m1 := settle e m
    let m2 := (ctxsWhere m1 (parks m1)).foldl (fun a p => parkStreams p.1 p.2 a) m1
    let m3 := (ctxsWhere m2 (fun c k => (m2.ctx c k).retakes)).foldl (fun a p => retake p.1 p.2 a) m2
    let m4 := pumpAll e m3
    if m4.due.isEmpty && (ctxsWhere m4 (parks m4)).isEmpty then m4 else quiesce e n m4

/-- What follows every command that can move work: faults met are acted on, engines go on, and waits that have ended are over. -/
def finish (e : Env) (m : Mach) : Mach := wakeUnits e (quiesce e 2048 m)

end Sys2Proof.Machine
end

