-- ==== Sys2Proof/Machine/Sequencer.lean ====
section
/-! DEFINITION. The sequencer: who issues, the checks at the fetch position, patches, the compatibility limits, and placing a
command in its engine's queue (R50, R281, R292, R310 to R314, R326, R429, R432, R437, R530). -/

namespace Sys2Proof.Machine

/-! ### Who issues (R310) -/

/-- R309, R432, R436: the context has commands to issue: a stroke's work, or a command stream. -/
def Ctx.hasWork (x : Ctx) : Bool := if x.serving then x.workOpen else x.running

/-- A context that the sequencer may choose. -/
def choosable (x : Ctx) : Bool :=
  !x.held && x.saving.isEmpty && ((x.state == .ready && x.hasWork) || (x.state == .saved && x.cause == .none))

/-- The highest rank among contexts. -/
def topRank (x : Core) (ks : List Nat) : Nat := ks.foldl (fun r k => max r (x.ctx k).rank) 0

/-- R310: the best of the choosable contexts whose rank is at least `low`. -/
def bestOf (x : Core) (low : Nat) : Option Nat :=
  let ks := (List.range 16).filter (fun k => choosable (x.ctx k) && decide (low ≤ (x.ctx k).rank))
  nextInTurn x.lastChosen (ks.filter (fun k => (x.ctx k).rank == topRank x ks))

/-- R310: the context that issues. A RUNNING one goes on until a context of higher rank becomes READY. -/
def sequencerChoice (e : Env) (m : Mach) (c : Nat) : Option Nat :=
  if !coreClocked e m c then none
  else
    let x := m.core c
    match (List.range 16).find? (fun k => (x.ctx k).state == .running) with
    | none => bestOf x 0
    | some r =>
      if (List.range 16).any (fun k => choosable (x.ctx k) && (x.ctx k).state == .ready && decide ((x.ctx r).rank < (x.ctx k).rank))
      then bestOf x ((x.ctx r).rank + 1) else some r

/-- The context is able to issue and is the one that does. -/
def issues (e : Env) (m : Mach) (c k : Nat) : Bool :=
  ((m.ctx c k).state == .running || (m.ctx c k).state == .ready) && sequencerChoice e m c == some k

/-! ### Patches -/

/-- R292: add modulo 2^19 to the 19-bit field at `b`. -/
def railPatch (w : Word) (b v : Nat) : Word :=
  BitVec.ofNat 512 (setBits w.toNat b 19 (fld w (b + 18) b + v))

/-- R292: the patches that are due, and those that wait on. -/
def applyPatches : List Patch → Word → Word
  | [], w => w
  | p :: ps, w => applyPatches ps (if p.ahead = 1 then railPatch w p.bit p.value else w)

/-- R292: a patch is still to change the next command. -/
def patchDue (x : Ctx) : Bool := x.waitCmd.isNone && x.patches.any (fun p => p.ahead == 1)

def laterPatches (ps : List Patch) : List Patch :=
  (ps.filter (fun p => p.ahead != 1)).map (fun p => { p with ahead := p.ahead - 1 })

/-- R291: AHEAD and BIT of the three patches of a take or pop. -/
def rlPatches (w : Word) : List (Nat × Nat) :=
  [(fld w 195 192, fld w 204 196), (fld w 208 205, fld w 217 209), (fld w 221 218, fld w 230 222)]

/-- R292: the patches of a take or pop of a buffer at tray address `a`. -/
def newPatches (w : Word) (a : Nat) : List Patch :=
  ((rlPatches w).filter (fun p => p.1 != 0)).map (fun p => { ahead := p.1, bit := p.2, value := a / 64 })

/-- R437: the intake patches of the command at `pos`. -/
def intakePatches (pos : Nat) : List IntakePatch → Word → Word
  | [], w => w
  | p :: ps, w =>
    intakePatches pos ps (if p.offset = pos then BitVec.ofNat 512 (setBits w.toNat p.bit p.width p.value) else w)

/-- R437: a value does not fit its field. -/
def intakeTooWide (x : Ctx) : Bool := x.intake.any (fun p => p.offset == x.pos && decide (2 ^ p.width ≤ p.value))

/-- The dispatched instance of the command at the position, and the context with its patches counted. A command that waits is
executed again as it was dispatched. -/
def dispatched (x : Ctx) (w : Word) : Ctx × Word :=
  match x.waitCmd with
  | some v => (x, v)
  | none => ({ x with patches := laterPatches x.patches }, applyPatches x.patches (intakePatches x.pos x.intake w))

/-! ### The compatibility decoder (R429) -/

/-- R429: a CX6 device address has 48 bits. -/
def longAddress (w : Word) : Bool :=
  let op := fld w 7 0
  let wide (n : Nat) : Bool := decide (2 ^ 48 ≤ n)
  (op == 0x50 && (wide (stListAddr w) || wide (stDstAddr w))) ||
    (op == 0x51 && (wide (fld w 127 76) || wide (fld w 179 128) || wide (fld w 231 180) || wide (fld w 283 232)))

/-- R429: a CX6 command names clamps 0 to 1,023. -/
def longClamp (w : Word) : Bool :=
  let op := fld w 7 0
  let far (n : Nat) : Bool := decide (1023 < n)
  if op / 16 = 1 then op == 0x10 && psSignal w && far (psClampIndex w)
  else if op / 16 = 2 then vcSignal w && far (vcClampIndex w)
  else if op / 16 = 3 then gtSignal w && far (gatClamp w).2
  else if op = 0x50 then stSignal w && far (stClampIndex w)
  else decide (0x60 ≤ op) && decide (op ≤ 0x65) && far (fld w 75 64)

/-- R429: FOLD_LIMIT of a CX6 pass is forced to 0. -/
def cx6Word (w : Word) : Word := if fld w 7 0 = 0x10 then BitVec.ofNat 512 (setBits w.toNat 113 2 0) else w

/-- R429: a native command that no CX6 command decodes to. -/
def cx6Bad (w : Word) : Bool :=
  let op := fld w 7 0
  let cx6Array (f : Nat) : Bool := f == 0 || f == 5 || f == 8
  op / 16 == 4 || (decide (0x32 ≤ op) && decide (op ≤ 0x34)) ||
    (op == 0x10 && (!cx6Array (psAFmt w) || !cx6Array (psBFmt w) || !(psOut w == 0 || psOut w == 1 || psOut w == 5))) ||
    (op == 0x50 && (stPersist w || stGuided w)) ||
    (decide (0x60 ≤ op) && decide (op ≤ 0x65) && decide (4095 < fld w 111 96)) || longAddress w || longClamp w ||
    ((op == 0x68 || op == 0x6A) && (fld w 195 192 != 0 || fld w 208 205 != 0 || fld w 221 218 != 0))

/-! ### What executing a command comes to -/

/-- The end of an issue. -/
inductive Issue where
  /-- the command has been taken, and issue goes on at the next one -/
  | taken
  /-- issue goes on at a position with the loops given -/
  | jump (pos : Nat) (loops : List LoopLevel)
  /-- the command waits and is executed again -/
  | wait (cause : Cause) (detail : Nat)
  /-- rejected at validation with a code of its family (R530) -/
  | reject (code : Nat)
  /-- a fault of another family -/
  | fault (family code detail addr : Nat)
  /-- an uncorrectable tray error at an address that validation reads -/
  | tray (addr : Nat)
  /-- the command has set the context's state itself -/
  | self
  deriving DecidableEq, Repr, Inhabited

/-- The context past the command at its position. A CX6 pass with bias stands at one position and is taken as a `PRELOAD` of kind BIAS
and the `PASS` after it (R429; notes/assumptions/43). -/
def Ctx.past (x : Ctx) (w : Word) : Ctx :=
  if x.cx6 && !x.half && fld w 7 0 == 0x11 && plKind w == 1 then { x with half := true, waitCmd := none }
  else x.advanceTo (x.pos + 1)

/-- What becomes of the context. -/
def issueEnds (e : Env) (m : Mach) (c k : Nat) (w : Word) : Issue → Mach
  | .taken => m.modCtx c k (fun x => x.past w)
  | .jump p ls => m.modCtx c k (fun x => ({ x with loops := ls } : Ctx).advanceTo p)
  | .wait cause detail => setState e (m.modCtx c k (fun x => { x with waitCmd := some w })) c k .waiting cause detail
  | .reject code => failCtx e m c k (opcodeFamily (fld w 7 0)) code
  | .fault fam code detail addr => failCtxAt e m c k fam code detail addr 0
  | .tray a => failTray e m c k a
  | .self => m

/-- What a command of one kind does when it is executed. -/
abbrev Run := Env → Mach → Nat → Nat → Word → Mach × Issue

/-- Opcodes that name a command. -/
def opcodeKnown (op : Nat) : Bool :=
  (decide (0x10 ≤ op) && decide (op ≤ 0x13)) || (decide (0x20 ≤ op) && decide (op ≤ 0x27)) ||
    (decide (0x30 ≤ op) && decide (op ≤ 0x34)) || (decide (0x40 ≤ op) && decide (op ≤ 0x42)) ||
    (decide (0x50 ≤ op) && decide (op ≤ 0x53)) || (decide (0x60 ≤ op) && decide (op ≤ 0x65)) ||
    (decide (0x68 ≤ op) && decide (op ≤ 0x6D)) || (decide (0x70 ≤ op) && decide (op ≤ 0x74))

/-- R292, R429, R437: the command at the position of a context as it is executed. -/
def issueWord (x : Ctx) (w : Word) : Word := if x.cx6 then cx6Word (dispatched x w).2 else (dispatched x w).2

/-- The command at the position of a context that issues, with its patches. -/
def issueRun (run : Run) (c k : Nat) (w : Word) (e : Env) (m : Mach) : Mach :=
  let x := m.ctx c k
  let wide := x.waitCmd.isNone && intakeTooWide x
  let v := issueWord x w
  let m1 := m.modCtx c k (fun _ => (dispatched x w).1)
  let r : Mach × Issue :=
    if !opcodeKnown (fld v 7 0) then (m1, .reject cIllegalOpcode)
    else if x.cx6 && cx6Bad v then (m1, .fault famHost 0x12 0 0)
    else if wide then (m1, .reject cBounds)
    else run e m1 c k v
  issueEnds e r.1 c k v r.2

/-- R311, R432: one issue of the sequencer. `op` is the opcode the command is of. When the context does not issue, or its
command at the position is another, nothing happens. -/
def issue (op : Nat) (run : Run) (c k : Nat) (w : Word) (e : Env) (m : Mach) : Mach :=
  let x := m.ctx c k
  let v := x.waitCmd.getD w
  if !issues e m c k || (opcodeKnown (fld v 7 0) && fld v 7 0 != op) then m
  else
    let m1 := chooseCtx e m c k
    if x.length ≤ x.pos then finish e (failCtx e m1 c k famHost 0x13)
    else finish e (issueRun run c k w e m1)

/-! ### Loops and the look-ahead (R281, R282, R326) -/

def ctCount (w : Word) : Nat := fld w 95 64
def ctBody (w : Word) : Nat := fld w 111 96

def controlChecks (w : Word) : List (Bool × Nat) :=
  let op := fld w 7 0
  [ (op == 0x71 && (allOnes 32 (ctCount w) || allOnes 16 (ctBody w)), cReservedCount),
    (headBad w [(15, 8), (511, 112)], cBounds),
    (if op = 0x71 then ctBody w == 0 else ctCount w != 0 || ctBody w != 0, cBounds) ]

/-- R326: the body of a loop at the position ends inside the innermost live loop, and at most four loops are live. -/
def loopFits (x : Ctx) (body : Nat) : Bool :=
  decide (x.loops.length < 4) && x.loops.getLast?.all (fun l => decide (x.pos + 1 + body ≤ l.stop))

/-- R326: why a `LOOP` at the position is rejected. -/
def loopChecks (x : Ctx) (w : Word) : List (Bool × Nat) := controlChecks w ++ [(!loopFits x (ctBody w), cBounds)]

/-- R326: where a `LOOP` at the position leads, and the loops that are live there. -/
def loopTo (x : Ctx) (w : Word) : Nat × List LoopLevel :=
  if ctCount w = 0 then (x.pos + 1 + ctBody w, x.loops)
  else (x.pos + 1, x.loops ++ [{ start := x.pos + 1, stop := x.pos + 1 + ctBody w, remaining := ctCount w }])

/-- R282: the command carries MARK and has not completed; a `STREAM` dispatched early completes when its pass is over. -/
def markedOpen (m : Mach) (c : Nat) (w : Word) : Bool :=
  flag w 16 && (fld w 7 0 != 0x50 || (m.stream? c (stSlot w)).any (fun s => s.w == w && s.active))

/-- R281: the look-ahead passes over the command `v` at the position of a context: the context past it, and whether `v` is a marked
command that has not completed. It stops before a wait, yield or stop, before a command that a patch has still to change, before a
`STREAM` not dispatched yet, and before a `LOOP` that will be rejected. -/
def lookOver (m : Mach) (c : Nat) (x : Ctx) (v : Word) : Option (Ctx × Bool) :=
  let d := dispatched x v
  let op := fld d.2 7 0
  let stops := decide (x.length ≤ x.pos) || patchDue x || op == 0x62 || (decide (0x72 ≤ op) && decide (op ≤ 0x74)) ||
    (op == 0x50 && !x.early.contains d.2) || (op == 0x71 && (firstBad (loopChecks x d.2)).isSome)
  if stops then none
  else
    let y : Ctx := { d.1 with
      early := if op = 0x50 then d.1.early.erase d.2 else d.1.early,
      patches := d.1.patches ++ (if op = 0x68 ∨ op = 0x6A then newPatches d.2 0 else []) }
    let z := if op = 0x71 then ({ y with loops := (loopTo x d.2).2 } : Ctx).advanceTo (loopTo x d.2).1 else y.past d.2
    some (z, markedOpen m c d.2)

/-- R281, R282: the look-ahead over the commands of `path`, the first of them at the position: the context as the last one finds it,
that command as it will be dispatched, and whether a marked command before it has not completed. -/
def lookAlong (m : Mach) (c : Nat) : List Word → Ctx → Bool → Option (Ctx × Word × Bool)
  | [], _, _ => none
  | [w], x, marked => if x.length ≤ x.pos ∨ patchDue x then none else some (x, (dispatched x w).2, marked)
  | v :: ws, x, marked =>
    match lookOver m c x v with
    | none => none
    | some r => lookAlong m c ws r.1 (marked || r.2)

/-! ### Commands of the four engines -/

/-- R308, R313: the command waits for its unit, or lower-ranked contexts in its way are pre-empted. -/
def forUnit (e : Env) (m : Mach) (c k : Nat) (w : Word) (place : Mach → Mach) : Mach × Issue :=
  if unitBlocked m c k w then (m, .wait .unit 0)
  else (place (preemptLower e c k (inTheWay m c k w).eraseDups m), .taken)

/-- R81 to R94, R100, R105. -/
def runArray : Run := fun e m c k w =>
  match firstBad (arrayChecks e m c k w) with
  | some code => (m, .reject code)
  | none =>
    forUnit e m c k w (fun m1 =>
      arrayAdvance e ((notePreloaded m1 c k w).modArr c (fun a =>
        { a with queue := a.queue ++ [{ ctx := k, w := w, stroke := strokeAt e.k (dieOf c) }] })) c)

/-- R147, R163, R235: a command joins the queue of its engine, with the table versions it binds (R68). -/
def placeIn (e : Env) (c k : Nat) (w : Word) (en : Engine) (slots : List Nat) (m : Mach) : Mach :=
  engStart e (setEngQueue m c (engQueue m c en ++ [engCmd e c k w (slots.map (bindSlot m c))]) en) c en

/-- R142 to R158. -/
def runVector : Run := fun e m c k w =>
  match firstBad (vecChecks e m w) with
  | some code => (m, .reject code)
  | none => forUnit e m c k w (placeIn e c k w .chisel [])

/-- R50: a table-reading command in steps 2 to 9 of a boundary window. -/
def heldByWindow (e : Env) (c : Nat) : Bool := windowAt e.k (dieOf c)

/-- R162 to R188. `MERGE_FLUSH` reads no table. -/
def runGather : Run := fun e m c k w =>
  match trayBad m c (gatCheckReads w) with
  | some a => (m, .tray a)
  | none =>
    match firstBad (gatChecks e m c k w) with
    | some code => (m, .reject code)
    | none =>
      if fld w 7 0 ≠ 0x34 ∧ heldByWindow e c then (m, .wait .boundary 0)
      else forUnit e m c k w (placeIn e c k w .marquetry [gtTable w])

/-- R238 to R254. -/
def runTraversal : Run := fun e m c k w =>
  match trayBad m c (scrCheckReads w) with
  | some a => (m, .tray a)
  | none =>
    match firstBad (scrChecks e m c w) with
    | some code => (m, .reject code)
    | none =>
      if heldByWindow e c then (m, .wait .boundary 0)
      else
        let op := fld w 7 0
        forUnit e m c k w (placeIn e c k w .scribe
          (if op = 0x40 then [scEmb w, scAdj w] else if op = 0x41 then [exAdj w] else []))

/-- R363: the parity of line `n` of the drawer cache is found bad `steps` steps into the `APPLY` that runs. -/
def applyParity (e : Env) (m : Mach) (c steps n : Nat) : Mach :=
  match (m.core c).scr with
  | [] => m
  | x :: xs =>
    if fld x.w 7 0 != 0x42 || !x.started || !coreClocked e m c || (m.ctx c x.ctx).saving.contains .scribe then m
    else
      match engRun e m c .scribe steps x with
      | (m1, y, .paused) => parityFails e (setEngQueue m1 c (y :: xs) .scribe) c n
      | _ => m

/-- R81. -/
def execPass (c k : Nat) (w : Word) : State → Host.Outcome State Fault Refusal := liftM (issue 0x10 runArray c k w)
/-- R83. -/
def execPreload (c k : Nat) (w : Word) : State → Host.Outcome State Fault Refusal := liftM (issue 0x11 runArray c k w)
/-- R93. -/
def execSwap (c k : Nat) (w : Word) : State → Host.Outcome State Fault Refusal := liftM (issue 0x12 runArray c k w)
/-- R94. -/
def execDrain (c k : Nat) (w : Word) : State → Host.Outcome State Fault Refusal := liftM (issue 0x13 runArray c k w)
/-- R148. -/
def execElem (c k : Nat) (w : Word) : State → Host.Outcome State Fault Refusal := liftM (issue 0x20 runVector c k w)
/-- R150. -/
def execReduce (c k : Nat) (w : Word) : State → Host.Outcome State Fault Refusal := liftM (issue 0x21 runVector c k w)
/-- R152. -/
def execNorm (c k : Nat) (w : Word) : State → Host.Outcome State Fault Refusal := liftM (issue 0x22 runVector c k w)
/-- R154. -/
def execSmaxBlock (c k : Nat) (w : Word) : State → Host.Outcome State Fault Refusal := liftM (issue 0x23 runVector c k w)
/-- R155. -/
def execSmaxMerge (c k : Nat) (w : Word) : State → Host.Outcome State Fault Refusal := liftM (issue 0x24 runVector c k w)
/-- R155. -/
def execSmaxFinal (c k : Nat) (w : Word) : State → Host.Outcome State Fault Refusal := liftM (issue 0x25 runVector c k w)
/-- R156. -/
def execWideAdd (c k : Nat) (w : Word) : State → Host.Outcome State Fault Refusal := liftM (issue 0x26 runVector c k w)
/-- R157. -/
def execConvert (c k : Nat) (w : Word) : State → Host.Outcome State Fault Refusal := liftM (issue 0x27 runVector c k w)
/-- R175. -/
def execGather (c k : Nat) (w : Word) : State → Host.Outcome State Fault Refusal := liftM (issue 0x30 runGather c k w)
/-- R170. -/
def execPool (c k : Nat) (w : Word) : State → Host.Outcome State Fault Refusal := liftM (issue 0x31 runGather c k w)
/-- R181. -/
def execSample (c k : Nat) (w : Word) : State → Host.Outcome State Fault Refusal := liftM (issue 0x32 runGather c k w)
/-- R186. -/
def execMerge (c k : Nat) (w : Word) : State → Host.Outcome State Fault Refusal := liftM (issue 0x33 runGather c k w)
/-- R188. -/
def execMergeFlush (c k : Nat) (w : Word) : State → Host.Outcome State Fault Refusal := liftM (issue 0x34 runGather c k w)
/-- R244. -/
def execSearch (c k : Nat) (w : Word) : State → Host.Outcome State Fault Refusal := liftM (issue 0x40 runTraversal c k w)
/-- R252. -/
def execExpand (c k : Nat) (w : Word) : State → Host.Outcome State Fault Refusal := liftM (issue 0x41 runTraversal c k w)
/-- R254. -/
def execApply (c k : Nat) (w : Word) : State → Host.Outcome State Fault Refusal := liftM (issue 0x42 runTraversal c k w)

/-! ### What the engines report -/

/-- R88. -/
def execPassFill (c : Nat) : State → Host.Outcome State Fault Refusal := liftM (fun e m => finish e (passFillM e m c))
/-- R87. -/
def execPassStreamingEnd (c : Nat) : State → Host.Outcome State Fault Refusal :=
  liftM (fun e m => finish e (startAll e (passEndM e m c) c))
/-- R89. -/
def execPreloadLoadEnd (c : Nat) : State → Host.Outcome State Fault Refusal :=
  liftM (fun e m => finish e (preloadEndM e m c))
/-- R91. -/
def execTileDrainEnd (c : Nat) : State → Host.Outcome State Fault Refusal :=
  liftM (fun e m => finish e (startAll e (drainEndM e m c) c))
/-- R147. -/
def execVectorCommandEnd (c : Nat) : State → Host.Outcome State Fault Refusal :=
  liftM (fun e m => finish e (engineEnds e m c .chisel))
/-- R163. -/
def execGatherCommandEnd (c : Nat) : State → Host.Outcome State Fault Refusal :=
  liftM (fun e m => finish e (engineEnds e m c .marquetry))
/-- R235. -/
def execTraversalCommandEnd (x : TraversalEnd) : State → Host.Outcome State Fault Refusal :=
  liftM (fun e m =>
    let m1 := x.parity.elim m (fun q => applyParity e m x.core q.1 q.2)
    finish e (if m1.due.length = m.due.length then arrayAdvance e (engineEnds e m1 x.core .scribe) x.core else m1))
/-- R315. -/
def execEngineSaveEnd (c : Nat) (en : Engine) (n : Nat) : State → Host.Outcome State Fault Refusal :=
  liftM (fun e m => finish e (engineSaves e m c en n))

end Sys2Proof.Machine
end

