-- ==== Sys2Proof/Machine/StreamCmds.lean ====
section
/-! DEFINITION. The stream commands, early dispatch, and the events of a stream (R268 to R276, R281, R282, R285, R295, R298). -/

namespace Sys2Proof.Machine

/-! ### `STREAM` (R269, R270) -/

/-- R270, R296: what stands in the way of target core `t` with rail `r`. -/
def targetBad (m : Mach) (t r : Nat) : Bool :=
  let x := m.rail t r
  x.consumer.isNone || x.prodIsContext || x.prodStream.isSome

def streamChecks (e : Env) (m : Mach) (c k : Nat) (w : Word) : List (Bool × Nat) :=
  let sk := stSrcKind w
  let dk := stDstKind w
  let d := descOn m (dieOf c) (stTable w)
  [ (allOnes 24 (stBlocks w) || allOnes 24 (stDstBlocks w), cReservedCount),
    (decide (1 < stClass w) ||
      anySet w [(15, 11), (31, 20), (75, 74), (95, 93), (175, 172), (255, 252), (511, 453)], cBounds),
    (stListAddr w % 64 != 0 || (dk == 2 && stDstAddr w % 64 != 0), cBounds),
    (sk == 2 && (stClass w == 0 || !(dKind d == 1 || dKind d == 2)), cBounds),
    (sk != 2 && stTable w != 0, cBounds),
    (if dk = 0 then stTargetBits w == 0 else stRail w != 0 || stTargetBits w != 0, cBounds),
    ((dk == 0 || dk == 3) && stDstAddr w != 0, cBounds),
    (dk != 2 && stDstBlocks w != 0, cBounds),
    (sk != 3 && dk != 3 && stSeed w != 0, cBounds),
    (stGuided w && (dk == 0 || (m.ctx c k).serving || stPersist w), cBounds),
    ((m.stream? c (stSlot w)).any (fun s => s.ctx == k) || slotAwaited m c k (stSlot w), cBounds),
    ((stTargets w).any (fun t => !e.v.hasCore t), cUnitAbsent),
    ((stTargets w).any (fun t => coreFenced m t), cUnitFenced),
    ((stTargets w).any (fun t => targetBad m t (stRail w)), cBounds) ] ++
  signalChecks e m (stSignal w) (stClampCore w)

/-- R273: a pass of a list without blocks ends at once; any other goes on by itself or is found at its end. -/
def beginPass (e : Env) (m : Mach) (c slot : Nat) : Mach :=
  match m.stream? c slot with
  | some s => if s.active && stBlocks s.w == 0 then passEnds e m c slot s else m
  | none => m

/-- R269: the stream takes its slot and names its target rails. -/
def startStream (e : Env) (m : Mach) (c k : Nat) (w : Word) : Mach :=
  let slot := stSlot w
  let s : Stream :=
    { ctx := k, w := w, srcBases := [], dstBases := [], dstBase := stDstAddr w, active := true,
      bound := if stSrcKind w = 2 then some (bindSlot m c (stTable w)) else none,
      stroke := strokeAt e.k (dieOf c), src := ⟨0, 0, 0⟩, dst := ⟨0, 0, 0⟩, gen := (m.core c).streamGen,
      relays := [], filling := [], rearmHeld := none, retirePending := false, cancel := none, tags := 0,
      counts := countsReset, poisoned := false, badWord := 0, resumed := false, late := false, flight := [],
      flightPoison := false, stageAt := 0, staged := 0, faulted := false }
  let m1 := (m.setStream c slot s).modCore c (fun x => { x with streamGen := x.streamGen + 1 })
  let m2 := if stDstKind w = 0 then
      (stTargets w).foldl (fun a t => a.modRail t (stRail w) (fun r => { r with prodStream := some (c, slot) })) m1
    else m1
  beginPass e m2 c slot

/-- R313: all sixteen slots are taken. -/
def slotsFull (m : Mach) (c : Nat) : Bool := decide (16 ≤ (m.core c).streams.length)

/-- R269, R270, R281: a `STREAM` at the position; one dispatched early has been executed already. -/
def runStream : Run := fun e m c k w =>
  let x := m.ctx c k
  if x.early.contains w then (m.modCtx c k (fun y => { y with early := y.early.erase w }), .taken)
  else
    match firstBad (streamChecks e m c k w) with
    | some code => (m, .reject code)
    | none =>
      if stSrcKind w = 2 ∧ heldByWindow e c then (m, .wait .boundary 0)
      else if unitBlocked m c k w then
        let owners := others k ((m.core c).streams.map (fun p => p.2.ctx)).eraseDups
        (if slotsFull m c then preemptLower e c k owners m else m, .wait .unit 0)
      else (startStream e m c k w, .taken)

/-- R281, R282: the sequencer dispatches the `STREAM` at the end of `path` early when nothing stops its look-ahead; streams that stand
before it have been dispatched already, and none that stands behind it has. -/
def earlyM (c k : Nat) (path : List Word) (e : Env) (m : Mach) : Mach :=
  let x := m.ctx c k
  let live := x.state == .running || x.state == .ready || x.state == .waiting
  match lookAlong m c path x false with
  | none => m
  | some (y, w, marked) =>
    if !live || !x.saving.isEmpty || x.held || !coreClocked e m c || fld w 7 0 != 0x50 ||
        decide (65 < path.length) || !y.early.isEmpty || stGuided w || (stClass w == 1 && marked) ||
        (x.cx6 && cx6Bad w) || (m.stream? c (stSlot w)).isSome || (stSrcKind w == 2 && heldByWindow e c) ||
        (firstBad (streamChecks e m c k w)).isSome then m
    else finish e (startStream e (m.modCtx c k (fun z => { z with early := z.early ++ [w] })) c k w)

/-! ### `REARM`, `CANCEL`, `RETIRE` (R275, R276) -/

/-- The persistent stream of a context in a slot. -/
def persistentOf (m : Mach) (c k slot : Nat) : Option Stream :=
  match m.stream? c slot with
  | some s => if s.ctx = k ∧ stPersist s.w ∧ s.cancel.isNone then some s else none
  | none => none

def rearmChecks (m : Mach) (c k : Nat) (w : Word) : List (Bool × Nat) :=
  let op := fld w 7 0
  let bases := anySet w [(127, 76), (179, 128), (231, 180), (283, 232)]
  [ (headBad w [(15, 8), (75, 73), (511, 284)], cBounds),
    (op != 0x51 && (fld w 71 68 != 0 || bases), cBounds),
    (op == 0x53 && flag w 72, cBounds),
    (op != 0x52 && (persistentOf m c k (fld w 67 64)).isNone, cBounds) ]

/-- R276, R279. A `REARM` that starts a pass of a stream with a TABLE source is held in the window as the `STREAM` is (R50 does not
name it; DESIGN CHOICE, notes/assumptions/39). -/
def runRearm : Run := fun e m c k w =>
  let slot := fld w 67 64
  if slotAwaited m c k slot then (m, .wait .unit 0)
  else
    match firstBad (rearmChecks m c k w) with
    | some code => (m, .reject code)
    | none =>
      match persistentOf m c k slot with
      | none => (m, .reject cBounds)
      | some s =>
        if s.active then
          if s.rearmHeld.isSome then (m, .wait .unit 0) else (m.setStream c slot { s with rearmHeld := some w }, .taken)
        else if stSrcKind s.w = 2 ∧ ¬ flag w 72 ∧ heldByWindow e c then (m, .wait .boundary 0)
        else (beginPass e (m.setStream c slot (applyRearm w s)) c slot, .taken)

/-- R275, R295: one stream of the context, or all of them. -/
def runCancel : Run := fun e m c k w =>
  match firstBad (rearmChecks m c k w) with
  | some code => (m, .reject code)
  | none =>
    let one (p : Nat × Stream) : Bool := flag w 72 || p.1 == fld w 67 64
    let x : StreamCancel := { drop := false, quiet := [], fenced := [], unbound := [] }
    let mine := ((m.core c).streams.filter (fun p => p.2.ctx == k && one p)).map (fun p => p.1)
    let saved := (((m.ctx c k).saved.map (fun v => v.streams)).getD []).filter one
    (saved.foldl (cancelSaved e c k x) (mine.foldl (fun a s => markCancel a c s x) m), .taken)

def runRetire : Run := fun e m c k w =>
  let slot := fld w 67 64
  if slotAwaited m c k slot then (m, .wait .unit 0)
  else
    match firstBad (rearmChecks m c k w) with
    | some code => (m, .reject code)
    | none =>
      match persistentOf m c k slot with
      | none => (m, .reject cBounds)
      | some s =>
        if s.active then (m.setStream c slot { s with retirePending := true }, .taken)
        else (freeSlot (endRecord e m c slot s 2 false) c slot s.w, .taken)

/-! ### Events -/

/-- R295: the cancellation sequence of the stream in a slot, if one has been asked for. -/
def cancellationM (c slot inFlight : Nat) (e : Env) (m : Mach) : Mach :=
  match m.stream? c slot with
  | none => m
  | some s =>
    match s.cancel with
    | none => m
    | some x => finish e (tryClose e (cancelSequence e m c slot inFlight x) c s.ctx)

/-- A party of a stalled rail (R298): its stroke, SEQ, core, context and, for a stream, its slot. -/
structure Party where
  stroke : Nat
  seq : Nat
  core : Nat
  ctx : Nat
  slot : Option Nat
  deriving DecidableEq, Repr, Inhabited

/-- R297: the context is descheduled on a rail command. -/
def onRail (m : Mach) (c k : Nat) : Bool :=
  let x := m.ctx c k
  x.state == .waiting && (x.cause == .rail || x.cause == .buffer)

def ctxParty (m : Mach) (c k : Nat) : Party :=
  { stroke := (m.ctx c k).since, seq := fld ((m.ctx c k).waitCmd.getD 0) 63 32, core := c, ctx := k, slot := none }

/-- R285: a filled buffer of a chain waits for a credit or an entry of the next target. -/
def relayWaits (m : Mach) (s : Stream) : Bool :=
  s.relays.any (fun x => ((stTargets s.w)[x.hop + 1]?).any (fun t =>
    !(mayTake m t (stRail s.w) && decide ((m.rail t (stRail s.w)).entries.length < 64))))

/-- R297: the stream waits for a credit or a rail entry. -/
def streamWaits (m : Mach) (s : Stream) : Bool :=
  s.active && !s.faulted && s.cancel.isNone &&
    (relayWaits m s || (s.filling.isEmpty && decide (s.src.blk < stBlocks s.w) && !canFill m s))

/-- R269: the stream delivers to rail `r` of core `t`. -/
def feedsRail (s : Stream) (t r : Nat) : Bool := stDstKind s.w == 0 && stRail s.w == r && (stTargets s.w).contains t

/-- R297, R298: the parties of a rail that is stalled; none when it is not. -/
def railParties (m : Mach) (c r : Nat) : List Party :=
  let x := m.rail c r
  match x.consumer with
  | none => []
  | some k =>
    if !onRail m c k then []
    else
      match x.prodStream with
      | some (pc, slot) =>
        match m.stream? pc slot with
        | some s =>
          if feedsRail s c r && streamWaits m s then
            [ctxParty m c k, { stroke := s.stroke, seq := fld s.w 63 32, core := pc, ctx := s.ctx, slot := some slot }]
          else []
        | none => []
      | none =>
        match x.prodContext with
        | some j => if onRail m c j then [ctxParty m c k, ctxParty m c j] else []
        | none => []

/-- R298: `a` is younger than `b`. -/
def younger (a b : Party) : Bool :=
  if a.stroke ≠ b.stroke then decide (b.stroke < a.stroke)
  else if a.seq ≠ b.seq then precedes32 b.seq a.seq
  else if a.core ≠ b.core then decide (b.core < a.core)
  else decide (b.ctx < a.ctx)

def youngest : List Party → Option Party
  | [] => none
  | p :: ps =>
    match youngest ps with
    | none => some p
    | some q => if younger p q then some p else some q

/-- R298: the verdict over rails whose counts reach the window in one cycle. -/
def deadlockOver (e : Env) (m : Mach) (rails : List (Nat × Nat)) : Mach :=
  match youngest (rails.flatMap (fun r => railParties m r.1 r.2)) with
  | none => m
  | some p =>
    let m1 := match p.slot with
      | some s => markCancel m p.core s { drop := false, quiet := [], fenced := [], unbound := [] }
      | none => m
    finish e (failCtx e m1 p.core p.ctx famClamp 0x11)

/-- R298: each half of a split device has an arbiter of its own. -/
def deadlockM (rails : List (Nat × Nat)) (e : Env) (m : Mach) : Mach :=
  let of (h : Nat) : List (Nat × Nat) := rails.filter (fun r => halfOf e.k (dieOf r.1) == h)
  deadlockOver e (deadlockOver e m (of 0)) (of 1)

/-- R269. -/
def execStream (c k : Nat) (w : Word) : State → Host.Outcome State Fault Refusal := liftM (issue 0x50 runStream c k w)
/-- R276. -/
def execRearm (c k : Nat) (w : Word) : State → Host.Outcome State Fault Refusal := liftM (issue 0x51 runRearm c k w)
/-- R275. -/
def execCancel (c k : Nat) (w : Word) : State → Host.Outcome State Fault Refusal := liftM (issue 0x52 runCancel c k w)
/-- R276. -/
def execRetire (c k : Nat) (w : Word) : State → Host.Outcome State Fault Refusal := liftM (issue 0x53 runRetire c k w)
/-- R281. -/
def execStreamEarlyDispatch (c k : Nat) (next : Word) (between : List Word) (w : Word) : State → Host.Outcome State Fault Refusal :=
  liftM (earlyM c k (next :: (between ++ [w])))
/-- R273. -/
def execStreamPassEnd (c slot : Nat) : State → Host.Outcome State Fault Refusal :=
  liftM (fun e m => finish e (streamPassEndM c slot e m))
/-- R295. -/
def execStreamCancellation (c slot inFlight : Nat) : State → Host.Outcome State Fault Refusal :=
  liftM (cancellationM c slot inFlight)
/-- R285. -/
def execChainRelay (c slot hop : Nat) : State → Host.Outcome State Fault Refusal :=
  liftM (fun e m => finish e (chainRelayM c slot hop e m))
/-- R298. -/
def execRailDeadlock (rails : List (Nat × Nat)) : State → Host.Outcome State Fault Refusal := liftM (deadlockM rails)

end Sys2Proof.Machine
end

