-- ==== Sys2Proof/Machine/Rails.lean ====
section
/-! DEFINITION. The rail commands (R286 to R293, R301). -/

namespace Sys2Proof.Machine

def rlRail (w : Word) : Nat := fld w 68 64
def rlSlot (w : Word) : Nat := fld w 71 69
def rlPool (w : Word) : Nat := fld w 74 72
def rlFloor (w : Word) : Nat := fld w 82 76
def rlProducer (w : Word) : Bool := flag w 83
def rlUnbind (w : Word) : Bool := flag w 84
def rlBase (w : Word) : Nat := fld w 114 96 * 64
def rlSize (w : Word) : Nat := fld w 119 115
def rlCount (w : Word) : Nat := fld w 127 120
def rlLength (w : Word) : Nat := fld w 148 128
def rlLast (w : Word) : Bool := flag w 149
def rlTag (w : Word) : BitVec 32 := BitVec.ofNat 32 (fld w 191 160)

/-- R292: BIT lies in 64 to 493 exactly where AHEAD is not 0. -/
def patchesOk (w : Word) : Bool :=
  (rlPatches w).all (fun p => if p.1 = 0 then p.2 == 0 else decide (64 ≤ p.2) && decide (p.2 ≤ 493))

def rlHead (w : Word) : Bool := headBad w [(15, 8), (75, 75), (95, 85), (159, 150), (511, 231)]

/-- R291: handle slot `i` of a context. -/
def hslotOf (m : Mach) (c k i : Nat) : Option HSlot :=
  ((m.ctx c k).hslots.find? (fun p => p.1 == i)).map (fun p => p.2)

def setSlot (m : Mach) (c k i : Nat) (h : HSlot) : Mach :=
  m.modCtx c k (fun x => { x with hslots := spSet x.hslots i h })

def clearSlot (m : Mach) (c k i : Nat) : Mach :=
  m.modCtx c k (fun x => { x with hslots := spErase x.hslots i })

def addPatches (m : Mach) (c k : Nat) (ps : List Patch) : Mach :=
  m.modCtx c k (fun x => { x with patches := x.patches ++ ps })

/-- R286, R292: the rail takes handles from context `k`. -/
def notProducer (m : Mach) (c k r : Nat) : Bool :=
  let x := m.rail c r
  x.consumer.isNone || !x.prodIsContext || x.prodContext.any (fun j => j != k)

/-- RAIL_STATE (R292). -/
def railState : Issue := .fault famClamp 0x12 0 0

def runTake : Run := fun e m c k w =>
  let r := rlRail w
  match firstBad [(rlHead w || !patchesOk w || notProducer m c k r, cBounds)] with
  | some code => (m, .reject code)
  | none =>
    if (hslotOf m c k (rlSlot w)).isSome then (m, railState)
    else if !mayTake m c r then (m, .wait .buffer r)
    else
      let a := takeBuffer (m.modRail c r (fun x => { x with prodContext := some k })) c r
      let h : Handle := { buffer := a.2, length := 0, last := false, cancelled := false, poisoned := false, tag := 0 }
      let at_ := bufferAddr (m.pool c (m.rail c r).pool) a.2
      (wakeRails e (addPatches (setSlot a.1 c k (rlSlot w) { h := h, taken := true, rail := r }) c k (newPatches w at_)) c,
        .taken)

def runPush : Run := fun e m c k w =>
  let r := rlRail w
  let size := 2 ^ (m.pool c (m.rail c r).pool).sizeLog2
  match firstBad [(rlHead w || notProducer m c k r || decide (size < rlLength w), cBounds)] with
  | some code => (m, .reject code)
  | none =>
    match hslotOf m c k (rlSlot w) with
    | none => (m, railState)
    | some s =>
      if !s.taken || s.rail != r then (m, railState)
      else if 64 ≤ (m.rail c r).entries.length then (m, .wait .rail r)
      else
        let h : Handle := { s.h with length := rlLength w, last := rlLast w, tag := rlTag w }
        (pushHandle e (clearSlot m c k (rlSlot w)) c r 
          { h := h, origin := none, spent := false, generated := false, maker := some (k, (m.ctx c k).workStroke) }, .taken)

/-- R269, R303: the stream that delivers to rail `r` of core `c`, in its slot or in the save area: its core, its slot and itself. -/
def feederOf (m : Mach) (c r : Nat) : Option (Nat × Nat × Stream) :=
  match (m.rail c r).prodStream with
  | some (pc, ps) =>
    ((m.core pc).allStreams.find? (fun p => p.1 == ps && feedsRail p.2 c r)).map (fun p => (pc, p.1, p.2))
  | none => none

/-- R290, R301; `lead` cycles have passed since the push. -/
def runPop (lead : Nat) : Run := fun e m c k w =>
  let r := rlRail w
  match firstBad [(rlHead w || !patchesOk w || (m.rail c r).consumer != some k, cBounds)] with
  | some code => (m, .reject code)
  | none =>
    let waited := (m.ctx c k).waitCmd.isSome
    if (hslotOf m c k (rlSlot w)).isSome then (m, railState)
    else
      match (m.rail c r).entries with
      | [] =>
        let m1 := match feederOf m c r with
          | some (pc, ps, s) => if s.active && !waited then addLate m (pc, ps, s.gen) else m
          | none => m
        (m1, .wait .rail r)
      | x :: xs =>
        let m1 := m.modRail c r (fun y => { y with entries := xs, consumed := y.consumed + 1 })
        let m2 := notePop m1 x (if waited then 0 else lead)
        let at_ := if x.h.buffer = 255 then 0 else bufferAddr (m.pool c (m.rail c r).pool) x.h.buffer
        let m3 := addPatches (setSlot m2 c k (rlSlot w) { h := x.h, taken := false, rail := r }) c k (newPatches w at_)
        (wakeRails e m3 c, .taken)

def runRelease : Run := fun e m c k w =>
  match firstBad [(rlHead w, cBounds)] with
  | some code => (m, .reject code)
  | none =>
    match hslotOf m c k (rlSlot w) with
    | none => (m, railState)
    | some s => (releaseBuffer e (clearSlot m c k (rlSlot w)) c s.rail s.h.buffer, .taken)

/-- R292: what forbids a `RAIL_SET`. -/
def railBusy (m : Mach) (c k r : Nat) : Bool :=
  let x := m.rail c r
  x.consumer.any (fun j => j != k) || !x.entries.isEmpty || x.prodStream.isSome || (m.pool c x.pool).used.any (fun u => u.2 == r)

def runRailSet : Run := fun e m c k w =>
  let r := rlRail w
  let p := rlPool w
  let floors := (((railsOf m c p).filter (fun q => q.1 != r)).map (fun q => q.2.floor)).sum
  match firstBad
    [ (rlFloor w == 127, cReservedCount),
      (rlHead w || decide (64 < rlFloor w) || railBusy m c k r, cBounds),
      (!rlUnbind w && decide ((m.pool c p).count < floors + rlFloor w), cBounds) ] with
  | some code => (m, .reject code)
  | none =>
    let x : Rail := if rlUnbind w then Rail.reset
      else { Rail.reset with consumer := some k, pool := p, floor := rlFloor w, prodIsContext := rlProducer w }
    (wakeRails e (m.modRail c r (fun _ => x)) c, .taken)

def runPoolSet : Run := fun _ m c _ w =>
  let p := rlPool w
  let n := rlCount w
  match firstBad
    [ (n == 255, cReservedCount),
      (rlHead w || n == 0 || decide (128 < n) || decide (rlSize w < 12) || decide (20 < rlSize w), cBounds),
      (!(railsOf m c p).isEmpty || beyondTray (rlBase w) (n * 2 ^ rlSize w), cBounds) ] with
  | some code => (m, .reject code)
  | none => (m.modPool c p (fun _ => { base := rlBase w, sizeLog2 := rlSize w, count := n, used := [] }), .taken)

/-- R288. -/
def execRailTake (c k : Nat) (w : Word) : State → Host.Outcome State Fault Refusal := liftM (issue 0x68 runTake c k w)
/-- R290. -/
def execRailPush (c k : Nat) (w : Word) : State → Host.Outcome State Fault Refusal := liftM (issue 0x69 runPush c k w)
/-- R290. -/
def execRailPop (c k : Nat) (w : Word) (lead : Nat) : State → Host.Outcome State Fault Refusal :=
  liftM (issue 0x6A (runPop lead) c k w)
/-- R290. -/
def execRailRelease (c k : Nat) (w : Word) : State → Host.Outcome State Fault Refusal := liftM (issue 0x6B runRelease c k w)
/-- R293. -/
def execRailSet (c k : Nat) (w : Word) : State → Host.Outcome State Fault Refusal := liftM (issue 0x6C runRailSet c k w)
/-- R291. -/
def execPoolSet (c k : Nat) (w : Word) : State → Host.Outcome State Fault Refusal := liftM (issue 0x6D runPoolSet c k w)

end Sys2Proof.Machine
end

