-- ==== Sys2Proof/Machine/Control.lean ====
section
/-! DEFINITION. The control commands and the clamp commands (R326, R329 to R338). -/

namespace Sys2Proof.Machine

/-! ### Clamp commands (R330) -/

def clFence (w : Word) : Bool := flag w 8
def clConsume (w : Word) : Bool := flag w 9
def clRemote (w : Word) : Bool := flag w 10
def clIndex (w : Word) : Nat := fld w 75 64
def clCore (w : Word) : Nat := fld w 81 76
def clDevice (w : Word) : Nat := fld w 111 96
def clValue (w : Word) : Nat := fld w 191 128
def clDst (w : Word) : Nat := fld w 210 192 * 64

/-- R330: the rules of the fields. -/
def clampChecks (c : Nat) (w : Word) : List (Bool × Nat) :=
  let op := fld w 7 0
  let v := clValue w
  [ ((op == 0x60 || op == 0x62 || op == 0x63) && allOnes 64 v, cReservedCount),
    (headBad w [(15, 11), (95, 82), (127, 112), (511, 211)], cBounds),
    ((clFence w || clRemote w) && op != 0x61, cBounds),
    (clConsume w && op != 0x62, cBounds),
    (op != 0x61 && clCore w != c, cBounds),
    (if clRemote w then decide (8191 < clDevice w) else clDevice w != 0, cBounds),
    (op == 0x61 && (v == 0 || decide (2 ^ 32 < v)), cBounds),
    ((op == 0x64 || op == 0x65) && v != 0, cBounds),
    (op != 0x64 && clDst w != 0, cBounds) ]

def runClampInit : Run := fun _ m c k w =>
  let x := m.clamp c (clIndex w)
  match firstBad (clampChecks c w ++ [(x.state == .owned, cBounds)]) with
  | some code => (m, .reject code)
  | none =>
    (m.modClamp c (clIndex w) (fun _ => { state := .owned, counter := clValue w, owner := k, waiters := [] }), .taken)

def runClampSignal : Run := fun e m c k w =>
  match firstBad (clampChecks c w ++
      [(!clRemote w && !e.v.hasCore (clCore w), cUnitAbsent), (!clRemote w && coreFenced m (clCore w), cUnitFenced)]) with
  | some code => (m, .reject code)
  | none =>
    if clFence w && !fenceMet m c k then (m, .wait .idleFence 0)
    else if clRemote w then (sendRemoteSignal e m c k (clDevice w) (clCore w) (clIndex w) (clValue w), .taken)
    else
      (sendSignal m { sender := .context c k, core := clCore w, index := clIndex w, value := clValue w }, .taken)

/-- R335, R336, R338. -/
def runClampWait : Run := fun _ m c k w =>
  let i := clIndex w
  match firstBad (clampChecks c w) with
  | some code => (m, .reject code)
  | none =>
    let x := m.clamp c i
    match x.state with
    | .free => (m, .fault famClamp 0x14 0 0)
    | .broken => (m, .fault famClamp 0x13 0 0)
    | .owned =>
      if clValue w ≤ x.counter then
        (if clConsume w then m.modClamp c i (fun y => { y with counter := y.counter - clValue w }) else m, .taken)
      else
        let me : Waiter := { ctx := k, value := clValue w, consume := clConsume w }
        (m.modClamp c i (fun y => { y with waiters := y.waiters.filter (fun q => q.ctx != k) ++ [me] }), .wait .clamp i)

/-- R338: only the owner of an OWNED clamp. -/
def notOwner (x : Clamp) (k : Nat) : Bool := !(x.state == .owned && x.owner == k)

def runClampSet : Run := fun e m c k w =>
  let i := clIndex w
  match firstBad (clampChecks c w ++ [(notOwner (m.clamp c i) k, cBounds)]) with
  | some code => (m, .reject code)
  | none => (checkWaiters e (m.modClamp c i (fun y => { y with counter := clValue w })) c i, .taken)

def runClampRead : Run := fun _ m c _ w =>
  match firstBad (clampChecks c w) with
  | some code => (m, .reject code)
  | none => (trayWrite m c (clDst w) (clampImage (m.clamp c (clIndex w))), .taken)

def runClampRelease : Run := fun _ m c k w =>
  let i := clIndex w
  let x := m.clamp c i
  match firstBad (clampChecks c w ++ [(notOwner x k || !x.waiters.isEmpty, cBounds)]) with
  | some code => (m, .reject code)
  | none => (m.modClamp c i (fun _ => Clamp.reset), .taken)

/-! ### Control commands (R326) -/

def runNop : Run := fun _ m _ _ w =>
  match firstBad (controlChecks w) with
  | some code => (m, .reject code)
  | none => (m, .taken)

def runLoop : Run := fun _ m c k w =>
  let x := m.ctx c k
  match firstBad (loopChecks x w) with
  | some code => (m, .reject code)
  | none => (m, .jump (loopTo x w).1 (loopTo x w).2)

def runWaitIdle : Run := fun _ m c k w =>
  match firstBad (controlChecks w) with
  | some code => (m, .reject code)
  | none => if fenceMet m c k then (m, .taken) else (m, .wait .idleFence 0)

def runYield : Run := fun e m c k w =>
  match firstBad (controlChecks w) with
  | some code => (m, .reject code)
  | none =>
    let m1 := m.modCtx c k (fun x => { x.advanceTo (x.pos + 1) with yielded := x.serving })
    (setState e m1 c k .waiting .boundary 0, .self)

/-- R93, R95: the active set is drained as if by `DRAIN`. -/
def drainForStop (m : Mach) (c k : Nat) : Mach :=
  m.modArr c (fun a =>
    { a with draining := (a.active.filter (fun t => t.ctx == k)).orElse (fun _ => a.draining), active := a.active.filter (fun t => t.ctx != k),
             activeRaw := a.activeRaw.filter (fun p => p.ctx != k),
             drainCmd := a.drainCmd || a.active.any (fun t => t.ctx == k) })

/-- R432, R442: a batch context's stream ends. -/
def streamDone (e : Env) (m : Mach) (c k : Nat) : Mach :=
  let x := m.ctx c k
  let m1 := if x.running ∧ x.notify then streamRecord e m c k 0 else m
  m1.modCtx c k (fun y =>
    { y with running := false, subHead := if y.running then y.subHead + 1 else y.subHead, pos := 0,
             half := false })

def runStop : Run := fun e m c k w =>
  match firstBad (controlChecks w) with
  | some code => (m, .reject code)
  | none =>
    if !fenceMet m c k then (m, .wait .idleFence 0)
    else if (m.arr c).active.any (fun t => t.ctx == k) then (drainForStop m c k, .wait .idleFence 0)
    else
      let m1 := drainForStop m c k
      let m2 := m1.modCtx c k (fun x =>
        { x with loops := [], patches := [], waitCmd := none, yielded := x.serving })
      let m3 := if (m2.ctx c k).serving then m2 else streamDone e m2 c k
      (setState e m3 c k .idle .none 0, .self)

/-- R326. -/
def execNop (c k : Nat) (w : Word) : State → Host.Outcome State Fault Refusal := liftM (issue 0x70 runNop c k w)
/-- R326. -/
def execLoop (c k : Nat) (w : Word) : State → Host.Outcome State Fault Refusal := liftM (issue 0x71 runLoop c k w)
/-- R326. -/
def execWaitIdle (c k : Nat) (w : Word) : State → Host.Outcome State Fault Refusal := liftM (issue 0x72 runWaitIdle c k w)
/-- R326. -/
def execYield (c k : Nat) (w : Word) : State → Host.Outcome State Fault Refusal := liftM (issue 0x73 runYield c k w)
/-- R326. -/
def execStop (c k : Nat) (w : Word) : State → Host.Outcome State Fault Refusal := liftM (issue 0x74 runStop c k w)
/-- R333. -/
def execClampSignal (c k : Nat) (w : Word) : State → Host.Outcome State Fault Refusal := liftM (issue 0x61 runClampSignal c k w)
/-- R335. -/
def execClampWait (c k : Nat) (w : Word) : State → Host.Outcome State Fault Refusal := liftM (issue 0x62 runClampWait c k w)
/-- R331. -/
def execClampRead (c k : Nat) (w : Word) : State → Host.Outcome State Fault Refusal := liftM (issue 0x64 runClampRead c k w)
/-- R338. -/
def execClampRelease (c k : Nat) (w : Word) : State → Host.Outcome State Fault Refusal := liftM (issue 0x65 runClampRelease c k w)

end Sys2Proof.Machine
end

