-- ==== Sys2Proof/Machine/MemoryCmds.lean ====
section
/-! DEFINITION. Reads, writes and glue operations of HBM, lanes and pairs, page walks, fetches and prefetches of commands (R346,
R360, R363, R366 to R373, R380 to R388). -/

namespace Sys2Proof.Machine

/-! ### Host accesses that are refused once per stroke (R446) -/

def endpoint (m : Mach) (ep : Nat) : Endpoint := if ep = 0 then m.host.ep0 else m.host.ep1

def modEndpoint (m : Mach) (ep : Nat) (f : Endpoint → Endpoint) : Mach :=
  if ep = 0 then { m with host := { m.host with ep0 := f m.host.ep0 } } else { m with host := { m.host with ep1 := f m.host.ep1 } }

/-- R446: HOST_RANGE, once per endpoint and stroke. -/
def hostRange (e : Env) (m : Mach) (ep : Nat) : Mach :=
  if (endpoint m ep).saidRange then m
  else raiseFault (modEndpoint m ep (fun x => { x with saidRange := true })) ep (mkFault e m ep famHost 0x17 0)

/-- R446: UNIT_ABSENT, once per endpoint and stroke. -/
def hostAbsent (e : Env) (m : Mach) (ep : Nat) : Mach :=
  if (endpoint m ep).saidAbsent then m
  else raiseFault (modEndpoint m ep (fun x => { x with saidAbsent := true })) ep (mkFault e m ep famHost cUnitAbsent 0)

/-! ### Granules -/

/-- The memory answers at a physical address: powered, populated, not in self refresh, its region in service. -/
def hbmServes (m : Mach) (pa : Nat) : Bool :=
  m.hbm.on && !m.hbm.selfRefresh && decide (winOf pa ≤ 5) && populated (offOf pa) && !regionFenced m (stackOf pa / 2)

/-- R366: a read failed its check. -/
def checkFails (e : Env) (m : Mach) (pa : Nat) (detect : Bool) : Mach :=
  raiseFault (poisonGranule m (granule pa)) (stackOf pa / 8) (checkFault e m (granule pa) detect)

/-- R368, R369: a corrected error counts in its stack and in its channel; at the threshold of 0x0500.50 the channel pauses and
trains, and its count starts again. -/
def countCorrected (e : Env) (m : Mach) (pa : Nat) : Mach :=
  let ch := channelOf (offOf pa)
  m.modStack (stackOf pa) (fun s =>
    let old := spGet (0, 0) s.chan ch
    let q := inSecond (nsAt e.k (stackOf pa / 8)) old.1 old.2
    if m.hbm.retrainLimit ≤ q.1 then
      { s with corrected := s.corrected + 1, chan := spErase s.chan ch, training := ch :: s.training.filter (fun y => y != ch) }
    else { s with corrected := s.corrected + 1, chan := spSet s.chan ch q })

/-- R366: one granule returns, `symbols` of its 16-bit symbols corrupted. -/
def readReturnM (pa : Nat) (detect : Bool) (symbols : Nat) (e : Env) (m : Mach) : Mach :=
  if !hbmServes m pa then m
  else
    match checkGranule m (granule pa) detect with
    | .poison => m
    | .bad => checkFails e m pa detect
    | .pass =>
      if symbols = 0 then m
      else if detect || decide (2 ≤ symbols) then checkFails e m pa detect
      else countCorrected e m pa

/-- R367: a write reaches the controller. -/
def writeM (pa : Nat) (detect : Bool) (data : List Byte) (e : Env) (m : Mach) : Mach :=
  if hbmServes m pa && decide (winOf pa = 0) then hbmWrite e m pa data detect else m

/-- R12, R380, R381, R385, R446: a glue write of window `w` by a writer; a part without the adders refuses it wherever it goes. -/
def glueM (w : Nat) (src : Writer) (off : Nat) (detect : Bool) (data : List Byte) (e : Env) (m : Mach) : Mach :=
  let pa := w * 2 ^ 40 + off % 2 ^ 40
  if !(m.hbm.on && !m.hbm.selfRefresh) then m
  else if !e.v.train then
    match src with
    | .context c k => finish e (failCtx e m c k famMemory cUnitAbsent)
    | .host ep => hostAbsent e m ep
    | .peer o => refuseWrite e m (stackOf pa / 8) o off
  else if !hbmServes m pa then m
  else if !glueAligned w pa data.length then
    match src with
    | .context c k => finish e (failCtxAt e m c k famMemory 0x15 0 pa 0)
    | .host ep => hostRange e m ep
    | .peer o => refuseWrite e m (stackOf pa / 8) o off
  else hbmGlue e m w pa data detect

/-! ### Lanes, pairs and evacuation (R369 to R375) -/

/-- R369, R370: a channel pauses and trains. -/
def retrainM (s ch : Nat) (_ : Env) (m : Mach) : Mach :=
  if m.hbm.on && decide (s < 16) && decide (ch < 32) then
    m.modStack s (fun x => { x with training := ch :: x.training.filter (fun y => y != ch) })
  else m

/-- R369: every channel of every stack trains, or has trained. -/
def trainStacks (on : Bool) (m : Mach) : Mach :=
  (List.range 16).foldl (fun a s => a.modStack s (fun x => { x with training := if on then List.range 32 else [] })) m

/-- R28, R371, R373, R375, R532: a pair is fenced, the first of its stack with relief, the others without. The second one's record is
STACK_EXHAUSTED; a further one's is PAIR_FENCED, since STACK_EXHAUSTED names the second (notes/assumptions/38). -/
def fencePair (e : Env) (m : Mach) (s ch cause : Nat) : Mach :=
  let x := m.stack s
  let fenced (y : Mach) : Mach := raiseFault y (s / 8) { mkFault e y (s / 8) famMemory 0x16 1 with detail := s * 32 + ch + 65536 * cause }
  if x.pairA = ch ∨ x.pairB = ch ∨ x.more.contains ch then m
  else if x.pairA = 255 then fenced (m.modStack s (fun y => { y with pairA := ch, evacuating := decide (cause ≠ 1) }))
  else if x.pairB = 255 then
    raiseFault (m.modStack s (fun y => { y with pairB := ch })) (s / 8)
      { mkFault e m (s / 8) famMemory 0x17 1 with detail := s + 256 * ch }
  else fenced (m.modStack s (fun y => { y with more := y.more ++ [ch] }))

/-- R369, R371: training ends with `failing` lanes and `spares` redundant ones. -/
def retrainEndM (s ch failing spares cause : Nat) (e : Env) (m : Mach) : Mach :=
  if !(m.hbm.on && (m.stack s).training.contains ch) then m
  else
    let m1 := m.modStack s (fun x => { x with training := x.training.filter (fun y => y != ch) })
    if failing ≤ spares then m1.modStack s (fun x => { x with remapped := min 255 (x.remapped + failing) })
    else fencePair e m1 s ch cause

/-- R366, R371: a granule that fails its check in the copy, under the attribute of its last write. One that holds the poison code
already has been reported. -/
def evacuated (e : Env) (m : Mach) (g : Nat) : Mach :=
  if m.side g = .poison then m else checkFails e m (64 * g) (m.side g == .detect)

/-- R371: the copy has ended; granules that failed their check in it hold the poison code. -/
def evacuationM (pair : Nat) (lost : List Nat) (e : Env) (m : Mach) : Mach :=
  let s := pair / 32
  let x := m.stack s
  if !(m.hbm.on && x.evacuating && x.pairA == pair % 32) then m
  else
    let mine := lost.filter (fun g => stackOf (64 * g) == s && channelOf (offOf (64 * g)) == pair % 32)
    mine.foldl (evacuated e) (m.modStack s (fun y => { y with evacuating := false }))

/-! ### Fetches (R360 to R363, R388, R432) -/

/-- R429: bytes of a command in the stream. -/
def Ctx.step (x : Ctx) : Nat := if x.cx6 then 32 else 64

/-- R366: why a fetch of the granule at `pa` ends the context's work. -/
def fetchPoison (e : Env) (m : Mach) (c k pa : Nat) (detect : Bool) : Mach :=
  match checkGranule m (granule pa) detect with
  | .pass => m
  | .poison => failCtxAt e m c k famMemory 0x11 1 (plainOf pa) 0
  | .bad =>
    failCtxAt e (poisonGranule m (granule pa)) c k famMemory (if detect then 0x12 else 0x11) 0 (plainOf pa) 0

/-- R388: the sequencer fetches `n` bytes of one granule at a device virtual address; the bytes, when it can. -/
def seqFetch (e : Env) (m : Mach) (c k va : Nat) (n : Nat) : Mach × Option (List Byte) :=
  match translate e m c va false with
  | (m1, .fault kd l) => (transFault e m1 c k kd l va false 0 0, none)
  | (m1, .absent) => (failCtx e m1 c k famMemory cUnitAbsent, none)
  | (m1, .aperture) => (failCtxAt e m1 c k famLink 0x14 0 va 2, none)
  | (m1, .beyond) => (failCtx e m1 c k famHost cBounds, none)
  | (m1, .ok pa d) =>
    let cached := (m1.core c).drawer.any (fun l => l.line == plainOf pa / 128) ||
      (m1.core c).side.any (fun l => l.line == plainOf pa / 128)
    if !cached && checkGranule m1 (granule pa) d != .pass then (fetchPoison e m1 c k pa d, none)
    else
      let r := drawerLine e m1 c pa d
      (r.1, some ((r.2.1.data.drop (pa % 128)).take n))

/-- R388, R432: the fetch of the command at POSITION. -/
def fetchM (c k : Nat) (parity : Option Nat) (e : Env) (m : Mach) : Mach :=
  let x := m.ctx c k
  if !issues e m c k then m
  else
    let m0 := match parity with
      | some n => parityFails e m c n
      | none => m
    if x.length ≤ x.pos then finish e (failCtx e m0 c k famHost 0x13)
    else finish e (seqFetch e m0 c k (x.base + x.step * x.pos) x.step).1

/-- R366: the granules of a line that the sequencer fetches ahead for context `k`: a failed check writes the record that names the
context. -/
def prefetchGranules (e : Env) (c k : Nat) (detect : Bool) : List Nat → Mach → Mach × Bool
  | [], m => (m, false)
  | g :: gs, m =>
    match checkGranule m g detect with
    | .pass => prefetchGranules e c k detect gs m
    | .poison => ((prefetchGranules e c k detect gs m).1, true)
    | .bad =>
      let r := { ctxFault e m c k famMemory (if detect then 0x12 else 0x11) with addr := 64 * g }
      ((prefetchGranules e c k detect gs (raiseFault (poisonGranule m g) (dieOf c) r)).1, true)

/-- R360: a line for the side buffer, unless it is cached. -/
def prefetchLine (e : Env) (m : Mach) (c k va : Nat) : Mach :=
  match translate e m c va false with
  | (m1, .ok pa d) =>
    let n := plainOf pa / 128
    if (m1.core c).drawer.any (fun l => l.line == n) || (m1.core c).side.any (fun l => l.line == n) then m1
    else
      let r := prefetchGranules e c k d [2 * n, 2 * n + 1] m1
      if r.2 then r.1
      else
        r.1.modCore c (fun x =>
          { x with side := ({ line := n, data := memRead m1.hbm.cells (128 * n) 128, dirty := false, owner := 255, detect := d } ::
            x.side).take 16 })
  | (m1, _) => m1

/-- R360: the next two lines of a READY or RUNNING context's command stream, as far as it has them. -/
def prefetchM (c k : Nat) (e : Env) (m : Mach) : Mach :=
  let x := m.ctx c k
  if !(coreClocked e m c && (x.state == .ready || x.state == .running)) then m
  else
    let line := (x.base + x.step * x.pos) / 128
    let ahead (n : Nat) (y : Mach) : Mach := if 128 * n < x.base + x.step * x.length then prefetchLine e y c k (128 * n) else y
    ahead (line + 2) (ahead (line + 1) m)

/-- R388, R389: what a fault of a walk for SOURCE stops: the streams of the context, or the engine whose command it has started. A
read through the drawer cache (SOURCE 1) is the stream's whose slot is given, or else of a descriptor or header. -/
def walkStops (e : Env) (m : Mach) (c k source slot : Nat) : Mach :=
  let runs (en : Engine) : Option EngCmd := (engQueue m c en).head?.filter (fun x => x.started && x.ctx == k)
  let park (en : Engine) : Mach := (runs en).elim m (parkFaulted e m c k en)
  if source = 4 ∨ (source = 1 ∧ (m.stream? c slot).any (fun s => s.ctx == k)) then stopStreams m c k
  else if source = 2 ∨ (source = 1 ∧ (runs .marquetry).isSome) then park .marquetry
  else if source = 3 ∨ source = 1 then park .scribe
  else m

/-- R346, R386 to R389: a walk for an access of a context's engine. -/
def walkM (c k va : Nat) (write : Bool) (source slot : Nat) (e : Env) (m : Mach) : Mach :=
  if !coreClocked e m c then m
  else
    match translate e m c va write with
    | (m1, .ok _ _) => m1
    | (m1, .aperture) => m1
    | (m1, .beyond) => finish e (failCtx e m1 c k (sourceFamily source) cBounds)
    | (m1, .absent) => finish e (failCtx e m1 c k famMemory cUnitAbsent)
    | (m1, .fault kd l) => finish e (walkStops e (transFault e m1 c k kd l va write source slot) c k source slot)

/-- R366. -/
def execHbmReadReturn (pa : Nat) (detect : Bool) (symbols : Nat) : State → Host.Outcome State Fault Refusal :=
  liftM (readReturnM pa detect symbols)
/-- R367. -/
def execHbmWrite (pa : Nat) (detect : Bool) (data : List Byte) : State → Host.Outcome State Fault Refusal :=
  liftM (writeM pa detect data)
/-- R380. -/
def execAddFp32 (src : Writer) (off : Nat) (detect : Bool) (data : List Byte) : State → Host.Outcome State Fault Refusal :=
  liftM (glueM 1 src off detect data)
/-- R380. -/
def execAddBf16 (src : Writer) (off : Nat) (detect : Bool) (data : List Byte) : State → Host.Outcome State Fault Refusal :=
  liftM (glueM 2 src off detect data)
/-- R380. -/
def execAddInt32 (src : Writer) (off : Nat) (detect : Bool) (data : List Byte) : State → Host.Outcome State Fault Refusal :=
  liftM (glueM 3 src off detect data)
/-- R380. -/
def execAddInt64 (src : Writer) (off : Nat) (detect : Bool) (data : List Byte) : State → Host.Outcome State Fault Refusal :=
  liftM (glueM 4 src off detect data)
/-- R380. -/
def execMaxInt64 (src : Writer) (off : Nat) (detect : Bool) (data : List Byte) : State → Host.Outcome State Fault Refusal :=
  liftM (glueM 5 src off detect data)
/-- R369. -/
def execChannelRetrain (s ch : Nat) : State → Host.Outcome State Fault Refusal := liftM (retrainM s ch)
/-- R371. -/
def execChannelRetrainEnd (s ch failing spares cause : Nat) : State → Host.Outcome State Fault Refusal :=
  liftM (retrainEndM s ch failing spares cause)
/-- R371. -/
def execPairEvacuationEnd (pair : Nat) (lost : List Nat) : State → Host.Outcome State Fault Refusal :=
  liftM (evacuationM pair lost)
/-- R388. -/
def execSequencerFetch (c k : Nat) (parity : Option Nat) : State → Host.Outcome State Fault Refusal :=
  liftM (fetchM c k parity)
/-- R360. -/
def execCommandPrefetch (c k : Nat) : State → Host.Outcome State Fault Refusal := liftM (prefetchM c k)
/-- R346. -/
def execPageWalk (c k va : Nat) (write : Bool) (source slot : Nat) : State → Host.Outcome State Fault Refusal :=
  liftM (walkM c k va write source slot)

end Sys2Proof.Machine
end

