-- ==== Sys2Proof/Machine/Submit.lean ====
section
/-! DEFINITION. Host register writes and their refusals, context blocks, actions, submissions, restore (R305, R306, R324, R390,
R422 to R434). -/

namespace Sys2Proof.Machine

/-! ### Registers of BAR0 and their refusals (R423 to R427, R563) -/

def cAttachOrder : Nat := 0x11
def cDoorbellRange : Nat := 0x14

/-- R426: offsets. -/
def compOff (r reg : Nat) : Nat := 0x1000 + 32 * r + reg
def intakeOff (i reg : Nat) : Nat := 0x10000 + 64 * i + reg
def planOff (c reg : Nat) : Nat := 0x100000 + 0x1000 * c + reg
def ctxOff (c k reg : Nat) : Nat := 0x100100 + 0x1000 * c + 0x80 * k + reg

/-- R425: a refused register write: a host-family record with the offset, and REFUSAL latches both. -/
def refuse (e : Env) (m : Mach) (ep off code : Nat) : Mach :=
  raiseFault (modEndpoint m ep (fun x => { x with refusalOffset := off, refusalCode := code })) ep
    { mkFault e m ep famHost code 0 with detail := off }

/-- R423, R537: die `d` is reached through endpoint `ep`. -/
def reaches (e : Env) (m : Mach) (ep d : Nat) : Bool := !dieFenced m ep && (!e.k.split || ep == d)

/-- R423: HALF_UNREACHABLE, once per endpoint and stroke. -/
def halfUnreachable (e : Env) (m : Mach) (ep : Nat) : Mach :=
  if (endpoint m ep).saidHalf then m
  else raiseFault (modEndpoint m ep (fun x => { x with saidHalf := true })) ep (mkFault e m ep famHost 0x10 0)

/-- R423, R427: a write to BAR0 that concerns die `d` reaches the device and is applied. An untrained endpoint does not answer,
and in recovery-listen only BAR2 is served. -/
def barWrite (ep off d : Nat) (f : Env → Mach → Mach) (e : Env) (m : Mach) : Mach :=
  let x := endpoint m ep
  if !x.trained || x.attach == 5 then m
  else if x.attach < 3 then refuse e m ep off cAttachOrder
  else if !reaches e m ep d then halfUnreachable e m ep
  else f e m

/-- R13, R433, R536: a write to a register block of core `c`. -/
def coreWrite (ep off c : Nat) (f : Env → Mach → Mach) (e : Env) (m : Mach) : Mach :=
  if 64 ≤ c then barWrite ep off ep (fun e m => refuse e m ep off cBounds) e m
  else
    barWrite ep off (dieOf c) (fun e m =>
      if !e.v.hasCore c then refuse e m ep off cUnitAbsent
      else if coreFenced m c then refuse e m ep off cUnitFenced
      else f e m) e m

/-- A write to the block of context `k` of core `c`. -/
def ctxWrite (ep c k reg : Nat) (f : Env → Mach → Mach) : Env → Mach → Mach :=
  coreWrite ep (ctxOff c k reg) c (fun e m => if k < 16 then f e m else refuse e m ep (ctxOff c k reg) cBounds)

/-! ### The context descriptor (R305, R306, R438, R439) -/

/-- R305: the named bits. -/
def descriptorMask (v : Nat) : Nat := natBits v 3 0 + natBits v 31 16 * 2 ^ 16 + natBits v 50 32 * 2 ^ 32

def configured (x : Ctx) : Bool := x.state != .free

/-- R320, R321: bytes of the save area. -/
def saveBytes (x : Ctx) : Nat := if x.arrayBit then 634880 else 106496

/-- R438: the context that consumes intake ring `i`. -/
def consumerOf (m : Mach) (i : Nat) : Option (Nat × Nat) :=
  (m.cores.flatMap (fun p => (List.range 16).map (fun k => (p.1, k)))).find? (fun q =>
    let x := m.ctx q.1 q.2
    configured x && x.serving && x.ring == i)

/-- R439: first byte and length of the batch region. -/
def batchRegion (d : IntakeDesc) : Nat × Nat := (d.reqBase * 64, 64 + d.cap * 2 ^ d.entryLog2)

/-- R439: the batch region of a descriptor suits a context. -/
def regionFits (d : IntakeDesc) (x : Ctx) : Bool :=
  !beyondTray (batchRegion d).1 (batchRegion d).2 &&
    !overlaps (batchRegion d).1 (batchRegion d).2 x.saveBase (saveBytes x)

/-- R305, R306, R438, R439: the descriptor of `x` suits context `k` of core `c`. -/
def descriptorOk (m : Mach) (c k : Nat) (x : Ctx) : Bool :=
  !beyondTray x.saveBase (saveBytes x) &&
    (List.range 16).all (fun j =>
      j == k || !configured (m.ctx c j) ||
        !overlaps x.saveBase (saveBytes x) (m.ctx c j).saveBase (saveBytes (m.ctx c j))) &&
    (if x.serving then
      decide (1 ≤ x.ring) && decide (x.ring ≤ 1024) && (consumerOf m x.ring).all (fun q => q == (c, k)) &&
        (!(m.intake x.ring).desc.enable || regionFits (m.intake x.ring).desc x)
    else x.ring == 0)

/-- R305, R431: registers of a block that are accepted only while the context is FREE or IDLE. -/
def idleOnly (m : Mach) (c k : Nat) : Bool := (m.ctx c k).state == .free || (m.ctx c k).state == .idle

def descriptorM (ep c k v : Nat) : Env → Mach → Mach :=
  ctxWrite ep c k 0x00 (fun e m =>
    let d := BitVec.ofNat 64 (descriptorMask v)
    if !idleOnly m c k || !descriptorOk m c k { m.ctx c k with descriptor := d } then refuse e m ep (ctxOff c k 0) cBounds
    else
      let m1 := m.modCtx c k (fun x => { x with descriptor := d })
      finish e (if (m.ctx c k).state = .free then setState e m1 c k .idle .none 0 else m1))

/-! ### Submissions (R430 to R432) -/

/-- R430: a doorbell whose new tail goes back or runs more than the ring's size ahead of its head. -/
def doorbellBad (old head tail log2 : Nat) : Bool := precedes32 tail old || decide (2 ^ log2 < diff32 head tail)

def subTailM (ep c k tail : Nat) : Env → Mach → Mach :=
  ctxWrite ep c k 0x14 (fun e m =>
    let x := m.ctx c k
    if x.serving then refuse e m ep (ctxOff c k 0x14) cBounds
    else if doorbellBad x.subTail.toNat x.subHead.toNat tail x.subSize then
      refuse e m ep (ctxOff c k 0x14) cDoorbellRange
    else m.modCtx c k (fun y => { y with subTail := BitVec.ofNat 32 tail }))

/-- R431, R432: the code of a broken entry. -/
def entryBad (m : Mach) (b : List Byte) : Option Nat :=
  let n (lo k : Nat) : Nat := leNat ((b.drop lo).take k)
  if n 8 4 = 2 ^ 32 - 1 then some cReservedCount
  else if 1 < n 12 1 ∨ (n 12 1 = 1 ∧ m.host.compat = false) ∨ n 8 4 = 0 ∨ n 0 8 % 64 ≠ 0 ∨ 2 ^ 52 ≤ n 0 8 ∨ n 14 2 ≠ 0 ∨
      n 24 40 ≠ 0 ∨ 1 < n 13 1 then some cBounds
  else none

/-- R388, R432: the sequencer reads an entry, which the drawer cache does not hold (R358). -/
def entryFetch (e : Env) (m : Mach) (c k va : Nat) : Mach × Option (List Byte) :=
  match translate e m c va false with
  | (m1, .fault kd l) => (transFault e m1 c k kd l va false 0 0, none)
  | (m1, .absent) => (failCtx e m1 c k famMemory cUnitAbsent, none)
  | (m1, .aperture) => (failCtxAt e m1 c k famLink 0x14 0 va 2, none)
  | (m1, .beyond) => (failCtx e m1 c k famHost cBounds, none)
  | (m1, .ok pa d) =>
    if checkGranule m1 (granule pa) d != .pass then (fetchPoison e m1 c k pa d, none)
    else (m1, some (memRead m1.hbm.cells (plainOf pa) 64))

/-- R432: the context, READY, holds the stream of the entry; one that breaks a rule ends FAULTED. -/
def startEntry (e : Env) (m : Mach) (c k : Nat) (b : List Byte) : Mach :=
  let n (lo j : Nat) : Nat := leNat ((b.drop lo).take j)
  let m1 := m.modCtx c k (fun x =>
    { x with running := true, base := n 0 8, length := n 8 4, cx6 := n 12 1 == 1, notify := n 13 1 % 2 == 1, token := n 16 8,
             pos := 0, half := false, loops := [], patches := [], intake := [], early := [], waitCmd := none })
  match entryBad m b with
  | some code => failCtx e m1 c k famHost code
  | none => dropStreamLines e m1 c (n 0 8) (n 8 4 * (if n 12 1 = 1 then 32 else 64))

/-- R432: the context takes the entry at its head. A read that fails leaves it in FAULT_WAIT, or ends the stream. -/
def takeEntry (e : Env) (m : Mach) (c k : Nat) : Mach :=
  let x := m.ctx c k
  let m1 := setState e m c k .ready .none 0
  match entryFetch e m1 c k (x.subBase + 64 * (x.subHead.toNat % 2 ^ x.subSize)) with
  | (m2, some b) => startEntry e m2 c k b
  | (m2, none) =>
    if (m2.ctx c k).state = .faultWait then m2
    else m2.modCtx c k (fun y => { y with running := true, token := 0, notify := false, pos := 0, half := false })

/-- R432: a batch context that has no stream and an entry to take. -/
def entryPending (x : Ctx) : Bool := !x.serving && !x.running && x.ending.isNone && x.subHead != x.subTail

def takeM (c k : Nat) (e : Env) (m : Mach) : Mach :=
  let x := m.ctx c k
  if coreClocked e m c && (x.state == .idle || x.state == .ready) && entryPending x then finish e (takeEntry e m c k) else m

/-! ### Actions (R433, R434) -/

/-- R433: the state in which an action is legal. -/
def actionLegal (x : Ctx) : Action → Bool
  | .preempt => !x.serving && x.state != .free
  | .release => x.held
  | .cancel => x.state != .free
  | .kill => x.state != .free
  | .reset => true
  | .resume => x.state == .faultWait || (x.state == .saved && x.fault.isSome)

/-- R434: an action that is pending and gives way to a KILL or RESET. -/
def supersedes (new old : Action) : Bool :=
  (new == .kill || new == .reset) && (old == .preempt || old == .cancel || old == .resume)

/-- R390, R432: the repair report. The context becomes READY; one whose entry could not be read reads it again, and one that has
nothing to issue is not chosen until it has (notes/assumptions/25). -/
def resumeCtx (e : Env) (m : Mach) (c k : Nat) : Mach :=
  let m1 := retryFaulted e m c k
  let x := m1.ctx c k
  if x.state == .ready && entryPending x then takeEntry e m1 c k else m1

/-- What an action does. Those that end at once complete here; a PREEMPT in progress, and ended work whose streams are still
being cancelled, complete later. -/
def runAction (e : Env) (m : Mach) (c k : Nat) : Action → Mach
  | .preempt =>
    let m1 := m.modCtx c k (fun x => { x with held := true })
    match (m1.ctx c k).state with
    | .idle => finishAction e m1 c k 0
    | .saved => finishAction e m1 c k 0
    | .faulted => finishAction e m1 c k 0
    | _ => preemptBegin e m1 c k
  | .release => finishAction e (m.modCtx c k (fun x => { x with held := false })) c k 0
  | .cancel => endWork e m c k .cancel
  | .kill => endWork e m c k .kill
  | .reset => endWork e m c k .reset
  | .resume => finishAction e (resumeCtx e m c k) c k 0

/-- R434: the action is pending, for the completion ring that COMP names now. -/
def setAction (m : Mach) (c k : Nat) (a : Action) : Mach :=
  m.modCtx c k (fun x => { x with pendAction := some (a, x.comp) })

/-- R327: work whose end still waits for its streams is closed before another action follows. -/
def closeOld (e : Env) (m : Mach) (c k : Nat) : Mach :=
  match (m.ctx c k).ending with
  | some kind => closeWork e m c k kind
  | none => m

def actionM (ep c k : Nat) (a : Action) : Env → Mach → Mach :=
  ctxWrite ep c k 0x20 (fun e m =>
    let x := m.ctx c k
    if !actionLegal x a then refuse e m ep (ctxOff c k 0x20) cBounds
    else
      match x.pendAction with
      | none => finish e (runAction e (setAction (closeOld e m c k) c k a) c k a)
      | some (old, _) =>
        if supersedes a old then
          finish e (runAction e (setAction (closeOld e (finishAction e m c k 1) c k) c k a) c k a)
        else refuse e m ep (ctxOff c k 0x20) cBounds)

/-! ### Restore (R309, R324) -/

/-- R309, R324: a SAVED context that the sequencer chooses is restored, or waits for a unit. -/
def ctxRestoreM (c k : Nat) (e : Env) (m : Mach) : Mach :=
  let x := m.ctx c k
  if x.state ≠ .saved ∨ sequencerChoice e m c ≠ some k then m
  else if restoreBlocked m c k then setState e m c k .saved .unit 0
  else
    let m1 := restoreCtx e m c k
    if x.serving ∨ x.running then finish e m1
    else if entryPending x then finish e (takeEntry e m1 c k)
    else finish e (setState e m1 c k .idle .none 0)

/-- R324. -/
def execContextRestore (c k : Nat) : State → Host.Outcome State Fault Refusal := liftM (ctxRestoreM c k)
/-- R305. -/
def execContextDescriptor (ep c k v : Nat) : State → Host.Outcome State Fault Refusal := liftM (descriptorM ep c k v)
/-- R432. -/
def execSubTail (ep c k tail : Nat) : State → Host.Outcome State Fault Refusal := liftM (subTailM ep c k tail)
/-- R432. -/
def execSubmissionTake (c k : Nat) : State → Host.Outcome State Fault Refusal := liftM (takeM c k)
/-- R433. -/
def execPreempt (ep c k : Nat) : State → Host.Outcome State Fault Refusal := liftM (actionM ep c k .preempt)
/-- R433. -/
def execRelease (ep c k : Nat) : State → Host.Outcome State Fault Refusal := liftM (actionM ep c k .release)
/-- R327, R433. -/
def execContextCancel (ep c k : Nat) : State → Host.Outcome State Fault Refusal := liftM (actionM ep c k .cancel)
/-- R327, R433. -/
def execKill (ep c k : Nat) : State → Host.Outcome State Fault Refusal := liftM (actionM ep c k .kill)
/-- R433. -/
def execReset (ep c k : Nat) : State → Host.Outcome State Fault Refusal := liftM (actionM ep c k .reset)
/-- R390, R433. -/
def execResume (ep c k : Nat) : State → Host.Outcome State Fault Refusal := liftM (actionM ep c k .resume)

end Sys2Proof.Machine
end

