-- ==== Sys2Proof/Machine/Serving.lean ====
section
/-! DEFINITION. Intake rings and their batches, stroke work, plan doorbells, completion rings (R53 to R57, R430, R435 to R444). -/

namespace Sys2Proof.Machine

/-! ### Intake rings (R430, R438, R439, R563) -/

/-- R438: the fields of the three words of DESC. -/
def intakeFields (w0 w1 w2 : Nat) : IntakeDesc :=
  { enable := natBit w0 0, fill := natBit w0 1, drop := natBit w0 2, ageLimit := natBits w0 7 4, sizeLog2 := natBits w0 12 8,
    entryLog2 := natBits w0 19 16, comp := natBits w0 25 20, cap := natBits w0 47 32, base := natBits w1 51 0,
    reqBase := natBits w2 18 0 }

/-- R423: the die that a ring belongs to: that of its consuming core, else that of the endpoint. -/
def ringDie (m : Mach) (ep i : Nat) : Nat := ((consumerOf m i).map (fun q => dieOf q.1)).getD ep

/-- A write to the registers of intake ring `i`. -/
def intakeWrite (ep i reg : Nat) (f : Env → Mach → Mach) (e : Env) (m : Mach) : Mach :=
  barWrite ep (intakeOff i reg) (ringDie m ep i) (fun e m =>
    if 1 ≤ i ∧ i ≤ 1024 then f e m else refuse e m ep (intakeOff i reg) cBounds) e m

/-- R430, R53: new requests have age 0. -/
def intakeTailM (ep i tail : Nat) : Env → Mach → Mach :=
  intakeWrite ep i 0x18 (fun e m =>
    let x := m.intake i
    if doorbellBad x.tail.toNat x.head.toNat tail x.desc.sizeLog2 then refuse e m ep (intakeOff i 0x18) cDoorbellRange
    else
      m.modIntake i (fun y =>
        { y with tail := BitVec.ofNat 32 tail, ages := y.ages ++ List.replicate (diff32 y.tail.toNat tail) 0 }))

/-- R56, R438, R439: why a DESC write is refused while ENABLE reads 0. -/
def intakeBad (m : Mach) (i : Nat) (d : IntakeDesc) : Option Nat :=
  if d.ageLimit = 15 then some cReservedCount
  else if d.ageLimit = 0 ∨ d.sizeLog2 < 6 ∨ 16 < d.sizeLog2 ∨ d.entryLog2 < 6 ∨ 12 < d.entryLog2 ∨ d.base % 4096 ≠ 0 then
    some cBounds
  else if !d.enable then none
  else if d.cap = 65535 then some cReservedCount
  else if d.cap = 0 ∨ min (2 ^ d.sizeLog2) 65534 < d.cap then some cBounds
  else
    match consumerOf m i with
    | none => some cBounds
    | some q => if regionFits d (m.ctx q.1 q.2) then none else some cBounds

/-- R439, R563: the words at +0x08 and +0x10 are held; the word at +0x00 applies all three. -/
def intakeDescM (ep i word v : Nat) : Env → Mach → Mach :=
  intakeWrite ep i (8 * word) (fun e m =>
    let x := m.intake i
    if word = 1 then m.modIntake i (fun y => { y with word1 := v % 2 ^ 64 })
    else if word = 2 then m.modIntake i (fun y => { y with word2 := v % 2 ^ 64 })
    else if word ≠ 0 then refuse e m ep (intakeOff i (8 * word)) cBounds
    else
      let d := intakeFields v x.word1 x.word2
      if x.desc.enable then
        if d = { x.desc with enable := false } then m.modIntake i (fun y => { y with disabling := true })
        else refuse e m ep (intakeOff i 0) cBounds
      else
        match intakeBad m i d with
        | some code => refuse e m ep (intakeOff i 0) code
        | none => m.modIntake i (fun y => { y with desc := d }))

/-! ### The batch copy (R440) -/

/-- The entries of a batch, read one by one: requests with their tokens and the bytes as they are copied. -/
def readEntries (e : Env) (c : Nat) (d : IntakeDesc) : Nat → Nat → Mach → Mach × Option (List Request × List Byte) × Nat
  | _, 0, m => (m, some ([], []), 0)
  | p, n + 1, m =>
    let va := d.base + p % 2 ^ d.sizeLog2 * 2 ^ d.entryLog2
    match vread e m c va (2 ^ d.entryLog2) with
    | (m1, .ok bytes bad) =>
      let b := if bad then List.replicate (2 ^ d.entryLog2) 0xFF#8 else bytes
      match readEntries e c d (p + 1) n m1 with
      | (m2, some (qs, bs), a) => (m2, some ({ token := leNat (b.take 8), poisoned := bad } :: qs, b ++ bs), a)
      | other => other
    | (m1, .fault _ _ v) => (m1, none, v)
    | (m1, .aperture v) => (m1, none, v)
    | (m1, .absent) => (m1, none, va)
    | (m1, .beyond) => (m1, none, va)

/-- R440: the 64-byte batch record. -/
def batchRecord (y : Copy) (n oldest : Nat) (left : Bool) : List Byte :=
  leBytes 8 y.stroke ++ leBytes 4 y.first ++ leBytes 4 n ++ leBytes 1 (min oldest 255) ++ leBytes 1 (bit left) ++ leBytes 46 0

/-- The requests of a finished copy belong to the context's work of that stroke, or end with it. -/
def deliverBatch (e : Env) (m : Mach) (i : Nat) (y : Copy) (qs : List Request) : Mach :=
  if y.ended = 0 then
    let m1 := m.modCtx y.core y.ctx (fun x => { x with coming := x.coming.map (fun w =>
      if w.stroke = y.stroke ∧ w.ring = i then { w with requests := qs, ready := true } else w) })
    if y.late then m1.modIntake i (fun z => { z with late := z.late + BitVec.ofNat 64 qs.length }) else m1
  else
    let m1 := requestRecords e y.core y.ctx i (y.ended == 1) (y.ended == 2) y.late qs m
    if y.ended = 2 then m1.modIntake i (fun z => { z with dropped := z.dropped + BitVec.ofNat 64 qs.length }) else m1

/-- R440: RING_FAULT of a batch copy. -/
def ringFault (e : Env) (m : Mach) (c k va : Nat) : Mach :=
  let r := ctxFault e m c k famHost 0x15
  raiseFault m (dieOf c) { r with addr := va % 2 ^ 52, level := 0, flags := r.flags + 2 }

/-- R440: the copy of ring `i` ends. One that meets a translation fault takes no request; neither do the copies behind it. -/
def copyEndM (i : Nat) (e : Env) (m : Mach) : Mach :=
  let x := m.intake i
  match x.copies with
  | [] => m
  | y :: ys =>
    let put (m : Mach) (a : Nat) (b : List Byte) : Mach := if coreIn e m y.core then trayWrite m y.core a b else m
    let at_ := x.desc.reqBase * 64
    match readEntries e y.core x.desc y.first y.ages.length m with
    | (m1, some (qs, bytes), _) =>
      let m2 := put (put m1 (at_ + 64) bytes) at_ (batchRecord y qs.length (y.ages.headD 0) y.leftOver)
      let m3 := m2.modIntake i (fun z =>
        { z with copies := ys, head := z.head + BitVec.ofNat 32 qs.length, taken := z.taken + BitVec.ofNat 64 qs.length,
                 leftOver := z.leftOver + BitVec.ofNat 64 (bit y.leftOver) })
      finish e (deliverBatch e m3 i y qs)
    | (m1, none, va) =>
      let back := (y.ages ++ ys.flatMap (fun z => z.ages)).map (fun a => a + 1)
      let left := y.leftOver || !back.isEmpty
      let m2 := put (ringFault e m1 y.core y.ctx va) at_ (batchRecord y 0 0 left)
      let m3 := m2.modIntake i (fun z =>
        { z with copies := ys.map (fun c => { c with ages := [], first := y.first }), ages := back ++ z.ages,
                 leftOver := z.leftOver + BitVec.ofNat 64 (bit left) })
      finish e (deliverBatch e m3 i y [])

/-! ### Stroke work (R441) -/

/-- R441: the work is complete: the context has yielded or stopped and nothing it issued is incomplete. -/
def workComplete (m : Mach) (c k : Nat) : Bool :=
  let x := m.ctx c k
  x.serving && x.workOpen && x.yielded && x.saving.isEmpty && enginesIdle m c k && x.saved.all (fun v => !savedOpen v)

def workCompleteM (c k : Nat) (e : Env) (m : Mach) : Mach :=
  if !workComplete m c k then m
  else
    finish e ((finishRequests e m c k false false).modCtx c k (fun x =>
      { x with workOpen := false, late := false, intake := [] }))

/-! ### Plan doorbells (R430, R435) -/

def planTailM (ep c tail : Nat) : Env → Mach → Mach :=
  coreWrite ep (planOff c 0x0C) c (fun e m =>
    let x := m.core c
    if doorbellBad x.planTail.toNat x.planHead.toNat tail x.planSize then refuse e m ep (planOff c 0x0C) cDoorbellRange
    else m.modCore c (fun y => { y with planTail := BitVec.ofNat 32 tail }))

/-! ### Completion rings (R442 to R444) -/

/-- A write to the registers of completion ring `r`. -/
def compWrite (ep r reg : Nat) (f : Env → Mach → Mach) : Env → Mach → Mach :=
  barWrite ep (compOff r reg) ep (fun e m => if r < 64 then f e m else refuse e m ep (compOff r reg) cBounds)

def completionHeadM (ep r head : Nat) : Env → Mach → Mach :=
  compWrite ep r 0x0C (fun _ m => drainStore r 1024 (m.setComp r { m.compRing r with head := BitVec.ofNat 32 head }))

/-- R444: the moderation interval of ring `r` on endpoint `ep` ends. -/
def moderationEndM (ep r : Nat) (_ : Env) (m : Mach) : Mach :=
  let x := m.compRing r
  if ep = 0 then
    let m1 := m.setComp r { x with running0 := false, held0 := false }
    if x.running0 && x.held0 then ringVector m1 r 0 else m1
  else
    let m1 := m.setComp r { x with running1 := false, held1 := false }
    if x.running1 && x.held1 then ringVector m1 r 1 else m1

/-- R430. -/
def execIntakeTail (ep i tail : Nat) : State → Host.Outcome State Fault Refusal := liftM (intakeTailM ep i tail)
/-- R439. -/
def execIntakeDesc (ep i word v : Nat) : State → Host.Outcome State Fault Refusal := liftM (intakeDescM ep i word v)
/-- R440. -/
def execIntakeBatchCopyEnd (i : Nat) : State → Host.Outcome State Fault Refusal := liftM (copyEndM i)
/-- R441. -/
def execStrokeWorkComplete (c k : Nat) : State → Host.Outcome State Fault Refusal := liftM (workCompleteM c k)
/-- R435. -/
def execPlanTail (ep c tail : Nat) : State → Host.Outcome State Fault Refusal := liftM (planTailM ep c tail)
/-- R443. -/
def execCompletionHead (ep r head : Nat) : State → Host.Outcome State Fault Refusal := liftM (completionHeadM ep r head)
/-- R444. -/
def execMsixModerationEnd (ep r : Nat) : State → Host.Outcome State Fault Refusal := liftM (moderationEndM ep r)

end Sys2Proof.Machine
end

