-- ==== Sys2Proof/Machine/DictBase.lean ====
section
/-! DEFINITION. What every dictionary write shares: its path, its result, who may write, the flash-store check (R448 to R455,
R457 to R461, R485, R502, R517). -/

namespace Sys2Proof.Machine

/-! ### Result codes (R454) -/

def rOk : Nat := 0
def rBounds : Nat := 1
def rReservedCount : Nat := 2
def rNotLead : Nat := 3
def rLeaderless : Nat := 4
def rHoldupLow : Nat := 5
def rUnitAbsent : Nat := 6
def rBusy : Nat := 7
def rUnreachable : Nat := 8
def rSequence : Nat := 9
def rTimeout : Nat := 10
def rNoGauge : Nat := 11

/-! ### CAN FD frames (R458 to R461) -/

/-- R458: the gauge that holds the wedge answers on N, the other on N + 1. -/
def nodeOf (m : Mach) (g : Nat) : Nat := m.mgmt.node + (if m.mgmt.holder = some g then 0 else 1)

/-- R476: both gauges respond, and each can reach the other. -/
def bothTalk (m : Mach) : Bool := m.mgmt.contact && m.mgmt.g0.alive && m.mgmt.g1.alive

/-- R459: a frame of a gauge; a gauge that is bus-off sends none (R553). -/
def sendCan (m : Mach) (g fn : Nat) (data : List Byte) : Mach :=
  if (gaugeOf m g).busOff then m else pushCan m { ident := fn * 128 + nodeOf m g, data := data }

/-- R460: a RESPONSE. -/
def responseBytes (op txn idx sub result : Nat) (tail : List Byte) : List Byte :=
  padTo 64 (leBytes 1 (op ||| 128) ++ leBytes 1 txn ++ leBytes 2 idx ++ leBytes 1 sub ++ leBytes 1 result ++ leBytes 2 0 ++ tail)

/-- R461: a gauge answers a request and remembers it with its response. -/
def respond (m : Mach) (g op txn idx sub result : Nat) (tail : List Byte) : Mach :=
  let b := responseBytes op txn idx sub result tail
  sendCan (modGauge m g (fun x => { x with lastRequest := some (op, txn, idx, sub), lastResponse := b })) g 5 b

/-- R461: the request repeats the one that the gauge answered last. -/
def repeated (m : Mach) (g op txn idx sub : Nat) : Bool := (gaugeOf m g).lastRequest == some (op, txn, idx, sub)

/-- The gauge answers requests on the bus; of a stopped device only STATUS frames are left (R538). -/
def onBus (m : Mach) (g : Nat) : Bool := decide (g < 2) && (gaugeOf m g).alive && !(gaugeOf m g).busOff && !m.power.stopped

/-! ### Results of a write -/

/-- R448, R454: the result of a write, to the client that sent it. -/
def dictResult (via : Via) (idx sub code : Nat) (m : Mach) : Mach :=
  match via with
  | .window ep =>
    modEndpoint m ep (fun x =>
      { x with resultCount := x.resultCount + 1, resultCode := code,
               resultObject := if code = 0 then x.resultObject else idx * 256 + sub })
  | .can g txn => respond m g 2 txn idx sub code []

/-- The gauge that a write reaches. -/
def viaGauge : Via → Nat
  | .window ep => ep
  | .can g _ => g

/-- R517: the objects served in recovery-listen. -/
def servedInRecovery (idx sub : Nat) : Bool :=
  idx == 0x0100 || (idx == 0x0200 && decide (7 ≤ sub) && decide (sub ≤ 10)) || idx == 0x0700 || idx == 0x0B00 || idx == 0x0F00

/-- R513, R517: gauge `g` runs in recovery-listen. -/
def inRecovery (m : Mach) (g : Nat) : Bool := m.mgmt.bootState == 2 || (gaugeOf m g).recovery != 0

/-- R453: the fault-clearing objects. -/
def isClearObject (idx sub : Nat) : Bool := idx == 0x0700 && (sub == 0x10 || sub == 0x11)

/-- R450, R453, R517: why a gauge refuses a write before it looks at the value; `wedge` when the object needs the wedge. -/
def writeBarred (m : Mach) (g idx sub : Nat) (wedge : Bool) : Option Nat :=
  if m.mgmt.leaderless && !isClearObject idx sub then some rLeaderless
  else if inRecovery m g && !servedInRecovery idx sub then some rBounds
  else if wedge && !(gaugeOf m g).lead then some rNotLead
  else none

/-! ### Registers that each half keeps without contact (R451) -/

/-- A write of an RW register by gauge `g`, carried to the other copy while the gauges have contact. -/
def rwWrite (m : Mach) (g key v : Nat) (f : Mach → Mach) : Mach :=
  let m1 := if apartRegs m && (g == 1 || m.mgmt.contact) then modGauge m 1 (fun x => { x with rwCopy := spSet x.rwCopy key v }) else m
  if apartRegs m && g == 1 && !m.mgmt.contact then m1 else f m1

/-- R451: the nonce and the controls of the copies through the window, as gauge `y` holds them. -/
def ownRegs (y x : Gauge) : Gauge :=
  { x with nonce := y.nonce, domTarget := y.domTarget, domBuffer := y.domBuffer, domLength := y.domLength }

/-- R451: an RW object that lies in the gauges: a write is carried to the other one while they have contact. -/
def writeOwn (g : Nat) (f : Gauge → Gauge) (m : Mach) : Mach :=
  let m1 := modGauge m g f
  if m.mgmt.contact then modGauge m1 (1 - g) f else m1

/-! ### Flash stores (R452, R502) -/

/-- R502: what one store needs of the bank, mJ: 12 W for 0.02 s or for 0.4 s. -/
def storeCost : Store → Nat
  | .block _ _ => 4800
  | .eraseBlock0 => 4800
  | _ => 240

/-- R502: E_req of a new store, mJ. -/
def storeNeeds (m : Mach) (s : Store) : Nat := 250 + (m.mgmt.stores.map storeCost).sum + storeCost s

/-- R502: the bank holds enough energy for a new store. -/
def bankHolds (m : Mach) (s : Store) : Bool := decide (storeNeeds m s ≤ m.power.energy)

/-- R489: the record of an input loss, which every other pending store goes before. -/
def isPowerLoss : Store → Bool
  | .log r => r.family == famPower && r.code == 0x10
  | _ => false

/-- R452, R489: stores are taken in order; on hold-up energy the POWER_LOSS record stays the last. -/
def pushStore (m : Mach) (s : Store) : Mach :=
  let q := m.mgmt.stores
  let q1 := if m.power.onHoldup then q.filter (fun x => !isPowerLoss x) ++ [s] ++ q.filter isPowerLoss else q ++ [s]
  { m with mgmt := { m.mgmt with stores := q1 } }

/-- R502: a store refused for want of energy. -/
def countHoldupLow (m : Mach) : Mach := { m with power := { m.power with holdupLow := m.power.holdupLow + 1 } }

/-- R452, R502: a store that the lead gauge is asked for; BUSY with 16 pending, HOLDUP_LOW for want of energy. -/
def askStore (m : Mach) (s : Store) : Nat × Mach :=
  if 16 ≤ m.mgmt.stores.length then (rBusy, m)
  else if bankHolds m s then (rOk, pushStore m s) else (rHoldupLow, m)

/-- R448, R450, R453, R460, R461, R485, R517: a write whose value the gauge looks at: its path answers, the request is new, and nothing
bars it. -/
def writeHeard (m : Mach) (via : Via) (idx sub : Nat) (wedge : Bool) : Bool :=
  (writeBarred m (viaGauge via) idx sub wedge).isNone &&
    match via with
    | .window ep => (endpoint m ep).trained && (gaugeOf m ep).alive
    | .can g txn => onBus m g && !repeated m g 2 txn idx sub

/-- The effect of a write on the stroke clock and the machine, with its result code. -/
abbrev DictRun := Variant → Strokes → Mach → Nat × Strokes × Mach

/-- R448, R453 to R455, R461, R485: a write of an object through a path. A refused one changes nothing but the result. -/
def dictWrite (via : Via) (idx sub : Nat) (wedge : Bool) (f : DictRun) (v : Variant) (k : Strokes) (m : Mach) :
    Strokes × Mach :=
  let g := viaGauge via
  let run : Strokes × Mach :=
    match writeBarred m g idx sub wedge with
    | some code => (k, dictResult via idx sub code m)
    | none =>
      let r := f v k m
      if r.1 = 0 then (r.2.1, dictResult via idx sub 0 r.2.2)
      else (k, dictResult via idx sub r.1 (if r.1 = rHoldupLow then countHoldupLow m else m))
  match via with
  | .window ep =>
    if !(endpoint m ep).trained then (k, m)
    else if !(gaugeOf m ep).alive then (k, dictResult via idx sub rNoGauge m)
    else run
  | .can g txn =>
    if !onBus m g then (k, m)
    else if repeated m g 2 txn idx sub then (k, sendCan m g 5 (gaugeOf m g).lastResponse)
    else run

/-- A write whose effect leaves the stroke clock alone. -/
def onMach (f : Env → Mach → Nat × Mach) : DictRun := fun v k m =>
  let r := f { v := v, k := k } m
  (r.1, k, r.2)

/-- The same for a command that is such a write. -/
def dictM (via : Via) (idx sub : Nat) (wedge : Bool) (f : Env → Mach → Nat × Mach) (e : Env) (m : Mach) : Mach :=
  (dictWrite via idx sub wedge (onMach f) e.v e.k m).2

end Sys2Proof.Machine
end

