-- ==== Sys2Proof/Machine/Records.lean ====
section
/-! DEFINITION. Delivery, holding and clearing of fault records, the flash log, STATUS frames, bus-off recovery (R463, R464,
R527, R528, R533, R534, R553). -/

namespace Sys2Proof.Machine

/-- R546: the device mode. -/
def deviceMode (e : Env) (m : Mach) : Nat :=
  if m.mgmt.leaderless then 2 else if e.k.split || dieFenced m 0 || dieFenced m 1 then 1 else 0

/-- R478: the role of a gauge. -/
def roleOf (m : Mach) (g : Nat) : Nat := if (gaugeOf m g).lead then 0 else if bothTalk m then 1 else 2

/-- R478: the lead as gauge `g` knows it. -/
def leadKnown (m : Mach) (g : Nat) : Nat :=
  if (gaugeOf m g).lead then g
  else if bothTalk m then (if m.mgmt.g0.lead then 0 else if m.mgmt.g1.lead then 1 else 0xFF) else 0xFF

/-! ### The flash log (R534) -/

def needsLog (r : FaultRec) : Bool :=
  decide (3 ≤ r.level) || r.family == famPower || r.family == famManagement || r.family == famBoot

/-- The lead gauge is reached from gauge `g`. -/
def leadReached (m : Mach) (g : Nat) : Bool := (gaugeOf m g).lead || (bothTalk m && (m.mgmt.g0.lead || m.mgmt.g1.lead))

/-- R452, R534: whether the record goes into the log, when it is marked STORED; one that the hold-up check refuses, or that meets 16
pending stores, is counted in 0x0700.09. With `forced` no check is made (R489). -/
def logRecord (forced : Bool) (m : Mach) (g : Nat) (r : FaultRec) : Mach × FaultRec × Bool :=
  if !forced && (!needsLog r || !leadReached m g) then (m, r, false)
  else
    let s := { r with flags := r.flags + 8 }
    if forced || (decide (m.mgmt.stores.length < 16) && bankHolds m (.log s)) then (m, s, true)
    else
      let m1 := countHoldupLow m
      ({ m1 with faults := { m1.faults with notLogged := m1.faults.notLogged + 1 } }, r, false)

/-! ### Fault rings (R528) -/

/-- R528: a ring may be written: it has a base and room, and the gauge's endpoint carries the write. -/
def ringWritable (m : Mach) (g : Nat) : Bool :=
  (endpoint m g).trained && decide (ringBase m g ≠ 0) &&
    decide (diff32 (ringHead m g) (faultRing m g).tail.toNat < 2 ^ ringLog2 m g)

/-- R528: a record goes into ring `g`, and vector 0 of the endpoint is sent. -/
def writeRing (m : Mach) (g : Nat) (r : FaultRec) : Mach :=
  let x := faultRing m g
  let m1 := hostWrite m (ringBase m g + 32 * (x.tail.toNat % 2 ^ ringLog2 m g)) (faultBytes r)
  pushMsix (setFaultRing m1 g { x with tail := x.tail + 1 }) g 0

/-- R528: waiting records are written in order as far as the ring has room. -/
def drainRing (g : Nat) : Nat → Mach → Mach
  | 0, m => m
  | n + 1, m =>
    let x := faultRing m g
    match x.store with
    | [] => m
    | r :: rs => if ringWritable m g then drainRing g n (writeRing (setFaultRing m g { x with store := rs }) g r) else m

/-- R533: the held set keeps the newest 1,024 and counts all. -/
def holdRecord (x : FaultRing) (r : FaultRec) : FaultRing :=
  { x with held := (x.held ++ [r]).drop (x.held.length + 1 - 1024), heldCount := x.heldCount + 1 }

/-- R322: the record that a context keeps takes its SEQUENCE, in its save area too. -/
def tellContext (m : Mach) (old new : FaultRec) : Mach :=
  let x := m.ctx old.core old.ctx
  if old.core < 64 ∧ x.fault = some old then
    let m1 := m.modCtx old.core old.ctx (fun y => { y with fault := some new })
    if x.state = .saved then trayWrite m1 old.core (partAt x 0x9AC50) (faultBytes new) else m1
  else m

/-- R464, R538: the FAULT frame, at most 200 in a second, none once the device has stopped. -/
def sendFault (m : Mach) (g : Nat) (r : FaultRec) : Mach :=
  let x := faultRing m g
  if m.power.stopped then m
  else if x.framesThisSecond < 200 then
    sendCan (setFaultRing m g { x with framesThisSecond := x.framesThisSecond + 1 }) g 1 (faultBytes r)
  else { m with faults := { m.faults with canLimited := m.faults.canLimited + 1 } }

/-- R527, R528: a record enters its ring or the store of 256; one that finds the store full takes no SEQUENCE and is not held. -/
def enterRing (m0 : Mach) (g : Nat) (r : FaultRec) : Mach × FaultRec :=
  let m := drainRing g 256 m0
  let x := faultRing m g
  let s := { r with seq := (x.tail.toNat + x.store.length) % 2 ^ 32 }
  if x.store.isEmpty && ringWritable m g then (writeRing (setFaultRing m g (holdRecord x s)) g s, s)
  else if x.store.length < 256 then (setFaultRing m g { holdRecord x s with store := x.store ++ [s] }, s)
  else ({ m with faults := { m.faults with notWritten := m.faults.notWritten + 1 } }, r)

/-- R528, R534: gauge `g` delivers a record to its ring, the log and the bus. -/
def deliverRec (forced : Bool) (m : Mach) (g : Nat) (r : FaultRec) : Mach :=
  let a := logRecord forced m g r
  let b := enterRing a.1 g a.2.1
  let m1 := if a.2.2 then pushStore b.1 (.log b.2) else b.1
  sendFault (tellContext m1 r b.2) g b.2

/-- R528: gauge `g` delivers its oldest detected record. -/
def deliverM (g : Nat) (_ : Env) (m : Mach) : Mach :=
  let x := faultRing m g
  if !(gaugeOf m g).alive || decide (2 ≤ g) then m
  else
    match x.raised with
    | [] => m
    | r :: rs => deliverRec false (setFaultRing m g { x with raised := rs }) g r

/-- A write through gauge `g` reaches the gauge of ring `ring`. -/
def ringReached (m : Mach) (g ring : Nat) : Bool := !apartRegs m || m.mgmt.contact || g == ring

/-- R528: 0x0700.04 and .05. -/
def ringHeadRun (g ring head : Nat) (_ : Env) (m : Mach) : Nat × Mach :=
  if 2 ≤ ring then (rBounds, m)
  else
    let m1 := rwWrite m g (rwKey 0x0700 (4 + ring)) (head % 2 ^ 32)
      (fun y => setFaultRing y ring { faultRing y ring with head := BitVec.ofNat 32 head })
    (rOk, if ringReached m g ring then drainRing ring 256 m1 else m1)

/-- R528: 0x0700.01 and .02: records that wait for a base are written. -/
def ringBaseRun (g ring base : Nat) (_ : Env) (m : Mach) : Nat × Mach :=
  if base % 4096 ≠ 0 then (rBounds, m)
  else
    let m1 := rwWrite m g (rwKey 0x0700 (1 + ring)) base (fun y => setFaultRing y ring { faultRing y ring with base := base })
    (rOk, if ringReached m g ring then drainRing ring 256 m1 else m1)

/-- R533: SEQUENCE `q` precedes or equals `s`. -/
def clearedBy (s q : Nat) : Bool := precedes32 q s || decide (q % 2 ^ 32 = s % 2 ^ 32)

/-- R533: the records of ring `ring` that have been numbered and not cleared. -/
def clearRun (g ring s : Nat) (_ : Env) (m0 : Mach) : Nat × Mach :=
  let m := rwWrite m0 g (rwKey 0x0700 (0x10 + ring)) (s % 2 ^ 32)
    (fun y => setFaultRing y ring { faultRing y ring with clear := BitVec.ofNat 32 s })
  let x := faultRing m ring
  if 2 ≤ ring then (rBounds, m0)
  else if !ringReached m0 g ring then (rOk, m)
  else
  let kept := x.held.filter (fun r => !clearedBy s r.seq)
  let newest := x.tail.toNat + x.store.length
  let left := if x.heldCount = 0 ∨ clearedBy s (newest + 2 ^ 32 - 1) then 0
    else min x.heldCount (diff32 (s + 1) newest)
  (rOk, setFaultRing m ring { x with held := kept, heldCount := max kept.length left })

/-- R463. -/
def statusBytes (e : Env) (m : Mach) (g : Nat) : List Byte :=
  let st := (endpoint m g).attach
  leBytes 1 (deviceMode e m) ++ leBytes 1 (roleOf m g) ++ leBytes 1 (leadKnown m g) ++ leBytes 1 (bit (st == 3 || st == 4)) ++
    leBytes 4 (strokeAt e.k g) ++ leBytes 4 (faultRing m g).heldCount ++ leBytes 4 0

def statusM (g : Nat) (e : Env) (m : Mach) : Mach :=
  if !(gaugeOf m g).alive || decide (2 ≤ g) then m
  else
    let x := faultRing m g
    let m1 := setFaultRing m g
      (if 9 ≤ x.tenths then { x with tenths := 0, framesThisSecond := 0 } else { x with tenths := x.tenths + 1 })
    sendCan m1 g 2 (statusBytes e m g)

/-- R528. -/
def execFaultRecordDelivery (g : Nat) : State → Host.Outcome State Fault Refusal := liftM (deliverM g)
/-- R528. -/
def execFaultRingHead (via : Via) (ring head : Nat) : State → Host.Outcome State Fault Refusal :=
  liftM (dictM via 0x0700 (0x04 + ring) false (ringHeadRun (viaGauge via) ring head))
/-- R533. -/
def execFaultClear (via : Via) (ring s : Nat) : State → Host.Outcome State Fault Refusal :=
  liftM (dictM via 0x0700 (0x10 + ring) false (clearRun (viaGauge via) ring s))
/-- R463. -/
def execStatusFrame (g : Nat) : State → Host.Outcome State Fault Refusal := liftM (statusM g)
/-- R553: the bus pins are disconnected and the gauge goes bus-off, or it recovers on reconnection. -/
def busOffM (g : Nat) (off : Bool) (_ : Env) (m : Mach) : Mach :=
  if g < 2 then modGauge m g (fun x => { x with busOff := off }) else m

/-- R553. -/
def execBusOffRecovery (x : BusState) : State → Host.Outcome State Fault Refusal := liftM (busOffM x.gauge x.off)

end Sys2Proof.Machine
end

