-- ==== Sys2Proof/Machine/Links.lean ====
section
/-! DEFINITION. Links and the frames that arrive on them (R392 to R414). Collective frames are in Collectives.lean, stroke markers
in Boundary.lean. -/

namespace Sys2Proof.Machine

/-! ### The state of a link -/

/-- The links of a die run: HBM and the base die are out of park and the image has verified (R504, R506, R514). -/
def linksOn (m : Mach) : Bool := m.hbm.on && !m.hbm.selfRefresh

def linkUsable (e : Env) (m : Mach) (n : Nat) : Bool := decide (n < 96) && e.v.hasLink n && linksOn m && !dieFenced m (dieOfLink n)

/-- R398, R399: a link that is not UP. -/
def downLink (x : Link) (state : Nat) : Link :=
  { x with state := state, major := 0, minor := 0, peer := 0xFFFF, peerLink := 127, burst := 0, tries := 0, retry := [] }

/-- A frame that the device itself sends. When the destination has no route the device notes NO_ROUTE once (R409). -/
def sendDevice (e : Env) (m : Mach) (die d : Nat) (p : Payload) : Mach :=
  let known := knownLost m (halfOf e.k die) d
  match sendOrigin e m (halfOf e.k die) d p with
  | (m1, .noRoute) => if known then m1 else raiseFault m1 die (noRouteRecord e m1 die d)
  | (m1, _) => m1

/-- R409: a routed frame that this device had to drop: UNREACHABLE returns to the origin of one in transit, and of its own the
destination is noted, with NO_ROUTE the first time. -/
def frameDropped (e : Env) (die : Nat) (h : FrameHead) (m : Mach) : Mach :=
  let half := halfOf e.k die
  if h.origin ≠ m.fabric.deviceId then sendDevice e m die h.origin (.unreachable h.dest)
  else if knownLost m half h.dest then m
  else raiseFault (noteLost m half h.dest) die (noRouteRecord e m die h.dest)

/-- R413: frames of the retry buffer that are routed take another route, in their order; a one-hop frame is lost. -/
def reroute (e : Env) (die : Nat) : List OutFrame → Mach → Mach
  | [], m => m
  | f :: fs, m =>
    let again : Bool := match f.payload with
      | .marker _ _ => false
      | .slow _ => false
      | _ => true
    let m1 := if !again then m
      else
        match sendRouted e m (halfOf e.k die) { f.head with hops := f.head.hops - 1 } f.payload with
        | (m1, .noRoute) => frameDropped e die f.head m1
        | (m1, _) => m1
    reroute e die fs m1

/-- R413: a link leaves UP. How many of the oldest frames of its retry buffer the peer has acknowledged is free. -/
def leaveUp (e : Env) (m : Mach) (n state : Nat) : Mach :=
  let x := m.link n
  let fs := x.retry.drop (freeNow m % (x.retry.length + 1))
  let m1 := (if x.retry.isEmpty then m else freeStep m).modLink n (fun l => downLink l state)
  if x.state = 2 then reroute e (dieOfLink n) fs m1 else m1

/-- R412: a fence, with its record. -/
def fenceLink (e : Env) (m : Mach) (n code : Nat) : Mach :=
  let m1 := leaveUp e m n 3
  raiseFault m1 (dieOfLink n) (mkFault e m1 (dieOfLink n) famLink code 1)

/-! ### Training (R392 to R395) -/

/-- R392: the minors that the device implements. -/
def ownMinor (major : Nat) : Option Nat := if major = 2 then some 0 else if major = 1 then some 3 else none

/-- R394: the minor that both ends run for a major that both offer. -/
def commonMinor (offers : List (Nat × Nat)) (major : Nat) : Option Nat :=
  match (offers.filter (fun p => p.1 == major)).map (fun p => p.2), ownMinor major with
  | x :: xs, some own => some (min own (xs.foldl max x))
  | _, _ => none

/-- R394: the highest major that both ends offer. -/
def commonVersion (offers : List (Nat × Nat)) : Option (Nat × Nat) :=
  match commonMinor offers 2 with
  | some n => some (2, n)
  | none => (commonMinor offers 1).map (fun n => (1, n))

/-- R395: a link comes UP. -/
def linkUp (m : Mach) (n : Nat) (ver : Nat × Nat) (t : Training) : Mach :=
  let peer := if m.fabric.deviceId = 0xFFFF ∨ t.peerId = 0xFFFF then 0xFFFF else t.peerId
  m.modLink n (fun x =>
    { x with state := 2, versionFail := false, major := ver.1, minor := ver.2, peer := peer, latency := t.latencyNs % 65536,
             peerLink := t.peerLink % 128, attempts := 0, slowLeft := 0, retry := [] })

/-- R393 to R395, R398, R412: training ends. VERSION_FAIL speaks of the last training. -/
def trainedM (n : Nat) (t : Training) (e : Env) (m : Mach) : Mach :=
  let x := m.link n
  let m0 := m.modLink n (fun y => { y with versionFail := false })
  if !linkUsable e m n || x.state != 1 then m
  else if !t.ok then
    if 2 ≤ x.attempts then fenceLink e (m0.modLink n (fun y => { y with attempts := 0 })) n 0x12
    else m0.modLink n (fun y => { y with state := 0, attempts := y.attempts + 1 })
  else
    match commonVersion t.offers with
    | none =>
      raiseFault (m.modLink n (fun y => { y with state := 0, versionFail := true })) (dieOfLink n)
        (mkFault e m (dieOfLink n) famLink 0x10 1)
    | some ver =>
      if t.peerId = m.fabric.deviceId ∧ t.peerId ≠ 0xFFFF then fenceLink e m0 n 0x11 else linkUp m n ver t

/-- R393: a DOWN link starts training. -/
def startTraining (e : Env) (m : Mach) (n : Nat) : Mach :=
  if linkUsable e m n && (m.link n).state == 0 then m.modLink n (fun y => { y with state := 1 }) else m

/-- R393: training of every link that is DOWN, at boot and at wake. -/
def trainAll (e : Env) (m : Mach) : Mach := (List.range 96).foldl (fun a n => startTraining e a n) m

/-- R413: the peer's signal is lost. -/
def signalLossM (n : Nat) (e : Env) (m : Mach) : Mach :=
  if linkUsable e m n && ((m.link n).state == 2 || (m.link n).state == 1) then leaveUp e m n 0 else m

/-- R397: a write of 0x0400.07. -/
def retrainRun (n : Nat) (e : Env) (m : Mach) : Nat × Mach :=
  if 96 ≤ n ∨ e.v.hasLink n = false then (rUnitAbsent, m)
  else if !linkUsable e m n then (rOk, m)
  else (rOk, (leaveUp e m n 1).modLink n (fun y => { y with attempts := 0, versionFail := false }))

def linkFenceM (n : Nat) (e : Env) (m : Mach) : Mach :=
  if linkUsable e m n && ((m.link n).state == 2 || (m.link n).state == 1) then fenceLink e m n 0x12 else m

/-- R412: a fence rule of the link has come true: the link is fenced when one did within the second after the retrain that the
rules called for, and retrains otherwise. -/
def linkTrips (e : Env) (m : Mach) (n : Nat) : Mach :=
  let now := nsAt e.k (dieOfLink n)
  if (m.link n).retrained.any (fun t => decide (now ≤ t + 1000000000)) then
    fenceLink e (m.modLink n (fun y => { y with retrained := none })) n 0x12
  else (leaveUp e m n 1).modLink n (fun y => { y with attempts := 0, retrained := some now })

/-- R402, R412: a codeword arrives uncorrectable, and its frame is resent: both counts of the link. More than 16 within one
second, and eight resends of one frame, are fence rules. -/
def codewordM (n : Nat) (again : Bool) (e : Env) (m : Mach) : Mach :=
  if linkUsable e m n && (m.link n).state == 2 then
    let x := m.link n
    let q := inSecond (nsAt e.k (dieOfLink n)) x.burst x.burstFrom
    let tries := if again then x.tries + 1 else 1
    let m1 := m.modLink n (fun y =>
      { y with resends := y.resends + 1, codewords := y.codewords + 1, burst := q.1, burstFrom := q.2, tries := tries })
    if 16 < q.1 ∨ 8 ≤ tries then linkTrips e m1 n else m1
  else m

/-- R412, R504, R538: every link stops; a fenced one stays fenced. -/
def stopLinks (m : Mach) : Mach :=
  { m with fabric := { m.fabric with links := m.fabric.links.map (fun p =>
      (p.1, { downLink p.2 (if p.2.state = 3 then 3 else 0) with attempts := 0 })) } }

/-! ### Frames that arrive (R400, R405 to R410) -/

/-- R400: a link delivers frames: it is UP; one whose peer has no identifier delivers stroke markers only (R395). -/
def linkDelivers (e : Env) (m : Mach) (n : Nat) : Bool :=
  linkUsable e m n && (m.link n).state == 2 && (m.link n).peer != 0xFFFF && m.fabric.deviceId != 0xFFFF

/-- R409: a frame in transit goes on, or UNREACHABLE returns to its origin. -/
def transit (e : Env) (m : Mach) (n : Nat) (h : FrameHead) (p : Payload) : Mach :=
  match sendRouted e m (halfOf e.k (dieOfLink n)) h p with
  | (m1, .noRoute) => frameDropped e (dieOfLink n) h m1
  | (m1, _) => m1

/-- A routed frame: for this device it is acted on, otherwise it goes on. -/
def routed (n : Nat) (h : FrameHead) (p : Payload) (f : Env → Mach → Mach) (e : Env) (m : Mach) : Mach :=
  if !linkDelivers e m n then m
  else if h.dest = m.fabric.deviceId then f e m
  else transit e m n h p

def Mach.origin (m : Mach) (o : Nat) : Origin := spGet Origin.reset m.fabric.origins o

def Mach.modOrigin (m : Mach) (o : Nat) (f : Origin → Origin) : Mach :=
  { m with fabric := { m.fabric with origins := spMod Origin.reset m.fabric.origins o f } }

/-- R405, R406: one WRITE in its turn: applied, or refused with a NACK. The NACK's reason has no coding in the manual. -/
def applyFrame (e : Env) (die o : Nat) (m : Mach) (b : WriteBody) : Mach :=
  match applyWrite e m die o b.offset b.data with
  | (m1, true) => m1
  | (m1, false) => sendDevice e (freeStep m1) die o (.nack b.offset (freeNow m1) b.core b.ctx)

/-- R407: the held writes that are next in sequence. -/
def drainWrites (e : Env) (die o : Nat) : Nat → Mach → Mach
  | 0, m => m
  | n + 1, m =>
    let x := m.origin o
    match x.writes.find? (fun b => b.seq % 2 ^ 32 == x.expected) with
    | none => m
    | some b =>
      let m1 := m.modOrigin o (fun y =>
        { y with expected := (y.expected + 1) % 2 ^ 32, writes := y.writes.filter (fun q => q.seq % 2 ^ 32 != x.expected) })
      drainWrites e die o n (applyFrame e die o m1 b)


/-- R407: the held signals whose WRITE has been applied, and those that still wait. -/
def signalDue (x : Origin) (s : SignalBody) : Bool := precedes32 s.lastWrite x.expected

/-- R406, R407: a NACK faults the context that wrote. -/
def nackM (n : Nat) (h : FrameHead) (offset reason c k : Nat) : Env → Mach → Mach :=
  routed n h (.nack offset reason c k) (fun e m => finish e (failCtx e m c k famLink 0x16))

/-- R409: UNREACHABLE reaches the origin. -/
def unreachableM (n : Nat) (h : FrameHead) (d : Nat) : Env → Mach → Mach :=
  routed n h (.unreachable d) (fun e m =>
    let die := dieOfLink n
    let half := halfOf e.k die
    if knownLost m half d then m else raiseFault (noteLost m half d) die (noRouteRecord e m die d))

/-- R398: a SLOW frame. -/
def slowM (n _level : Nat) (e : Env) (m : Mach) : Mach :=
  if linkDelivers e m n then m.modLink n (fun y => { y with slowLeft := 2 }) else m

/-- R393. -/
def execPeerSignalDetect (n : Nat) : State → Host.Outcome State Fault Refusal := liftM (fun e m => startTraining e m n)
/-- R393. -/
def execLinkTrained (n : Nat) (t : Training) : State → Host.Outcome State Fault Refusal := liftM (trainedM n t)
/-- R413. -/
def execPeerSignalLoss (n : Nat) : State → Host.Outcome State Fault Refusal := liftM (signalLossM n)
/-- R397. -/
def execRetrainRequest (via : Via) (n : Nat) : State → Host.Outcome State Fault Refusal :=
  liftM (dictM via 0x0400 0x07 true (retrainRun n))
/-- R412. -/
def execLinkFence (n : Nat) : State → Host.Outcome State Fault Refusal := liftM (linkFenceM n)
/-- R402. -/
def execUncorrectableCodeword (x : BadCodeword) : State → Host.Outcome State Fault Refusal := liftM (codewordM x.link x.again)
/-- R398. -/
def execSlow (n level : Nat) : State → Host.Outcome State Fault Refusal := liftM (slowM n level)
/-- R406. -/
def execNack (n : Nat) (h : FrameHead) (offset reason c k : Nat) : State → Host.Outcome State Fault Refusal :=
  liftM (nackM n h offset reason c k)
/-- R409. -/
def execUnreachable (n : Nat) (h : FrameHead) (d : Nat) : State → Host.Outcome State Fault Refusal := liftM (unreachableM n h d)

end Sys2Proof.Machine
end

