-- ==== Sys2Proof/Machine/Collectives.lean ====
section
/-! DEFINITION. Collective slots: reading them at step 7, heartbeats, aborts, and the frames and signals that move them (R405 to
R421). -/

namespace Sys2Proof.Machine

def famCollRefused : Nat := 0x18
def famCollAbort : Nat := 0x19

/-- The die through whose translation the device reads the collective table. -/
def tableDie (m : Mach) : Nat := if m.mgmt.leaderless then 1 else leadGauge m

def slotVa (m : Mach) (i : Nat) : Nat := m.fabric.collBase + 128 * i

/-- The device writes bytes of slot `i`. -/
def slotPut (e : Env) (m : Mach) (i off : Nat) (b : List Byte) : Mach := (deviceWrite e m (tableDie m) (slotVa m i + off) b).1

def Mach.coll (m : Mach) (i : Nat) : Coll := spGet default m.fabric.colls i

def Mach.modColl (m : Mach) (i : Nat) (f : Coll → Coll) : Mach :=
  { m with fabric := { m.fabric with colls := spMod default m.fabric.colls i f } }

/-- R415: a slot that the device holds: ARMED and valid, OPEN or DONE. -/
def collLive (x : Coll) : Bool := x.state == 1 || x.state == 2 || x.state == 3

def liveSlots (m : Mach) : List Nat := (m.fabric.colls.filter (fun p => collLive p.2)).map (fun p => p.1)

/-- The highest level of the device's stacks. -/
def maxLevel (m : Mach) : Nat := m.hbm.stackTab.foldl (fun a p => max a p.2.level) 0

/-! ### Heartbeats (R417) -/

def flagSlow (m : Mach) : Bool := maxLevel m == 2 || maxLevel m == 3 ||
  m.hbm.stackTab.any (fun p => p.2.level == 2 || p.2.level == 3)

/-- R419: the progress clamp of a slot has reached TARGET. -/
def atTarget (m : Mach) (x : Coll) : Bool :=
  let y := m.clamp x.progCore x.progClamp
  y.state == .owned && decide (x.target ≤ y.counter)

/-- R417, R419: a peer that has reported DONE is no longer watched. -/
def beatOf (m : Mach) (x : Coll) : Beat :=
  { collId := x.collId, progress := (m.clamp x.progCore x.progClamp).counter % 2 ^ 48, deferred := x.deferred,
    slow := flagSlow m, slowPath := x.peers.any (fun p => decide (0 < p.slowLeft) && !p.done),
    done := x.state == 3 || atTarget m x }

/-- R417: a heartbeat of slot `i` to every peer of its list. -/
def sendBeats (e : Env) (m : Mach) (i : Nat) : Mach :=
  let x := m.coll i
  x.peers.foldl (fun a p => sendDevice e a (tableDie a) p.id (.heartbeat (beatOf a x))) m

/-- Some flag of the slot's heartbeats is set that was not. -/
def flagRises (old new : Beat) : Bool :=
  (new.deferred && !old.deferred) || (new.slow && !old.slow) || (new.slowPath && !old.slowPath) || (new.done && !old.done)

/-- R417: a change, and the heartbeats that follow at once from slots whose flags it has set. -/
def withBeats (e : Env) (f : Mach → Mach) (m : Mach) : Mach :=
  let m1 := f m
  (liveSlots m1).foldl (fun a i =>
    let old := if collLive (m.coll i) then beatOf m (m.coll i) else { beatOf m1 (m1.coll i) with deferred := false, slow := false, slowPath := false, done := false }
    if flagRises old (beatOf m1 (m1.coll i)) then sendBeats e a i else a) m1

/-! ### The end of a slot (R419, R420) -/

/-- R336, R420: a clamp becomes BROKEN, and its waiters fault. -/
def breakClamp (e : Env) (m : Mach) (c i : Nat) : Mach :=
  let x := m.clamp c i
  if x.state ≠ .owned then m
  else
    let m1 := m.modClamp c i (fun y => { y with state := .broken, waiters := [] })
    let ws := x.waiters.map (fun w => w.ctx)
    ws.foldl (fun a k => failCtx e a c k famClamp 0x13) m1

/-- R420: slot `i` is aborted with a reason, on behalf of a device; `from_` sent the ABORT. -/
def abortSlot (e : Env) (i reason abortOrigin dead : Nat) (from_ : Option Nat) (m : Mach) : Mach :=
  let x := m.coll i
  if !collLive x then m
  else
    let die := tableDie m
    let m1 := m.modColl i (fun y => { y with state := 6, startPending := false })
    let m2 := slotPut e m1 i 6 (leBytes 1 6 ++ leBytes 1 reason)
    let m3 := slotPut e m2 i 56 (leBytes 8 (strokeAt e.k die) ++ leBytes 2 abortOrigin ++ leBytes 2 dead)
    let watched := x.peers.filter (fun p => !p.done && some p.id != from_)
    let m4 := watched.foldl (fun a p => sendDevice e a die p.id (.abort x.collId abortOrigin reason)) m3
    let m5 := raiseFault m4 die { mkFault e m4 die famLink famCollAbort 6 with detail := x.kind }
    breakClamp e (breakClamp e m5 x.startCore x.startClamp) x.progCore x.progClamp

def abortAll (e : Env) (reason : Nat) (m : Mach) (slots : List Nat) : Mach :=
  slots.foldl (fun a i => abortSlot e i reason a.fabric.deviceId 0xFFFF none a) m

/-- R419: a DONE slot whose peers have all reported DONE becomes CLOSED. -/
def tryClosed (e : Env) (i : Nat) (m : Mach) : Mach :=
  let x := m.coll i
  if x.state == 3 && x.peers.all (fun p => p.done) then slotPut e (m.modColl i (fun y => { y with state := 4 })) i 6 (leBytes 1 4)
  else m

/-- R419: the progress clamp of slot `i` has reached TARGET. -/
def slotDone (e : Env) (m : Mach) (i : Nat) : Mach :=
  let m1 := m.modColl i (fun y => { y with state := 3 })
  let m2 := slotPut e (slotPut e m1 i 6 (leBytes 1 3)) i 56 (leBytes 8 (strokeAt e.k (tableDie m1)))
  tryClosed e i m2

/-- R419: the OPEN slots whose progress clamp stands at TARGET become DONE. -/
def doneSlots (e : Env) (m : Mach) : Mach :=
  ((m.fabric.colls.filter (fun p => p.2.state == 2 && atTarget m p.2)).map (fun p => p.1)).foldl (fun a i => slotDone e a i) m

/-- R417, R419: a change of clamps, the slots that it makes DONE, and the heartbeats that follow at once. -/
def watched (e : Env) (f : Mach → Mach) (m : Mach) : Mach := withBeats e (fun x => doneSlots e (f x)) m

/-- R419: the OPEN slots whose progress clamp a signal of value `v` brings to TARGET. -/
def reached (m : Mach) (c i v : Nat) : List Nat :=
  (m.fabric.colls.filter (fun p =>
    p.2.state == 2 && p.2.progCore == c && p.2.progClamp == i && (m.clamp c i).state == .owned &&
      decide (p.2.target ≤ (m.clamp c i).counter + v))).map (fun p => p.1)

/-- R332, R419: a signal lands, and slots that it brings to their TARGET are DONE, even when a waiter takes the count off. -/
def landWatched (e : Env) (m : Mach) (c i v : Nat) : Mach :=
  let slots := reached m c i v
  slots.foldl (fun a s => slotDone e a s) (landSignal e m c i v)

/-! ### Reading the table at step 7 (R415, R416) -/

/-- The U16 identifiers of a peer list. -/
def readPeers (e : Env) (m : Mach) (va n : Nat) : Mach × Option (List Nat) :=
  match deviceRead e m (tableDie m) va (2 * n) with
  | (m1, some (b, false)) => (m1, some ((chunks n 2 b).map leNat))
  | (m1, _) => (m1, none)

/-- R415: a descriptor as the device holds it. -/
def collOf (m : Mach) (b : List Byte) (peers : List Nat) : Coll :=
  let n (lo k : Nat) : Nat := leNat ((b.drop lo).take k)
  { state := 1, collId := n 0 4, kind := n 4 1, startCore := n 8 2, startClamp := n 10 2, progCore := n 12 2,
    progClamp := n 14 2, target := n 40 8, timeout := if n 16 4 = 0 then 8 * m.fabric.beatPeriod else n 16 4,
    peers := peers.map (fun p => { id := p, progress := 0, done := false, slowLeft := 0 }), deferred := false,
    startPending := false }

/-- R415: a field outside its range. -/
def collBad (b : List Byte) : Bool :=
  let n (lo k : Nat) : Nat := leNat ((b.drop lo).take k)
  n 0 4 == 0 || n 4 1 == 0 || decide (4 < n 4 1) || decide (1 < n 5 1) || decide (63 < n 8 2) || decide (4095 < n 10 2) ||
    decide (63 < n 12 2) || decide (4095 < n 14 2) || allOnes 32 (n 16 4) || decide (n 20 4 < 100) || allOnes 32 (n 20 4) ||
    n 24 1 == 0 || n 24 1 == 255 || n 25 1 == 0 || decide (64 < n 25 1) || n 32 8 % 128 != 0 || n 40 8 == 0 ||
    allOnes 64 (n 40 8)

/-- R415: a field that holds its reserved all-ones value. -/
def collReserved (b : List Byte) : Bool :=
  let n (lo k : Nat) : Nat := leNat ((b.drop lo).take k)
  allOnes 32 (n 16 4) || allOnes 32 (n 20 4) || n 24 1 == 255

/-- R415: a reserved count in a slot faults RESERVED_COUNT, in the link family, beside the slot's refusal (notes/assumptions/46). -/
def reservedSlot (e : Env) (m : Mach) (b : List Byte) : Mach :=
  if collReserved b then
    raiseFault m (tableDie m) { mkFault e m (tableDie m) famLink cReservedCount 0 with detail := (b.getD 4 0).toNat }
  else m

/-- R416: a slot is REFUSED. -/
def refuseSlot (e : Env) (m : Mach) (i reason kind : Nat) : Mach :=
  let die := tableDie m
  let m1 := slotPut e (m.modColl i (fun y => { y with state := 7 })) i 6 (leBytes 1 7 ++ leBytes 1 reason)
  let m2 := slotPut e m1 i 56 (leBytes 8 (strokeAt e.k die))
  raiseFault m2 die { mkFault e m2 die famLink famCollRefused 0 with detail := kind }

/-- R416: a valid ARMED slot is deferred or opens. -/
def admitSlot (e : Env) (m : Mach) (i : Nat) (b : List Byte) : Mach :=
  let n (lo k : Nat) : Nat := leNat ((b.drop lo).take k)
  if e.k.split || m.mgmt.leaderless || (n 5 1 % 2 == 1 && decide (3 ≤ maxLevel m)) then
    slotPut e (m.modColl i (fun y => { y with deferred := true })) i 28 (leBytes 4 ((n 28 4 + 1) % 2 ^ 32))
  else
    let m1 := m.modColl i (fun y => { y with state := 2, deferred := false, startPending := true })
    slotPut e (slotPut e m1 i 6 (leBytes 1 2)) i 48 (leBytes 8 (strokeAt e.k (tableDie m1)))

/-- R416: an ARMED slot. -/
def armedSlot (e : Env) (m : Mach) (i : Nat) (b : List Byte) : Mach :=
  let n (lo k : Nat) : Nat := leNat ((b.drop lo).take k)
  let kind := n 4 1
  if collBad b then refuseSlot e (reservedSlot e m b) i 5 kind
  else if (liveSlots m).any (fun j => j != i && (m.coll j).collId == n 0 4) then refuseSlot e m i 7 kind
  else if !e.v.hasCore (n 8 2) || !e.v.hasCore (n 12 2) then refuseSlot e m i 6 kind
  else
    match readPeers e m (n 32 8) (n 25 1) with
    | (m1, none) => refuseSlot e m1 i 5 kind
    | (m1, some ps) =>
      if ps.any (fun p => decide (8191 < p)) then refuseSlot e m1 i 5 kind
      else
        let old := m1.coll i
        let x := collOf m1 b ps
        let kept : Coll := if old.state = 1 ∧ old.collId = x.collId then { x with peers := old.peers, deferred := old.deferred } else x
        let m2 := m1.modColl i (fun _ => kept)
        if 4 ≤ maxLevel m2 then abortSlot e i 2 m2.fabric.deviceId 0xFFFF none m2 else admitSlot e m2 i b

/-- R416: one slot at step 7. -/
def readSlot (e : Env) (m : Mach) (i : Nat) : Mach :=
  match deviceRead e m (tableDie m) (slotVa m i) 128 with
  | (m1, some (b, false)) =>
    let st := (b.getD 6 0).toNat
    if st = 1 then armedSlot e m1 i b
    else if st = 5 ∨ st = 0 then abortSlot e i 3 m1.fabric.deviceId 0xFFFF none m1
    else m1
  | (m1, _) => m1

/-- R416, R419: step 7 over the whole table. A slot whose progress clamp stands at TARGET when it opens is DONE. -/
def readTable (e : Env) (m : Mach) : Mach :=
  if m.fabric.collBase = 0 then m else watched e (fun m => (List.range 64).foldl (fun a i => readSlot e a i) m) m

/-- R416: step 10 signals the start clamps of the slots that opened. -/
def startSignals (m : Mach) : Mach :=
  let mine := m.fabric.colls.filter (fun p => p.2.startPending)
  let m1 := mine.foldl (fun a p => sendSignal a { sender := .device, core := p.2.startCore, index := p.2.startClamp, value := 1 }) m
  { m1 with fabric := { m1.fabric with colls := m1.fabric.colls.map (fun p => (p.1, { p.2 with startPending := false })) } }

/-! ### Frames of collectives, signals and writes (R405, R407, R413, R414, R418, R420) -/

/-- The slot that holds a COLL_ID. -/
def slotOf (m : Mach) (collId : Nat) : Option Nat := (liveSlots m).find? (fun i => (m.coll i).collId == collId)

/-- R417, R418: what a heartbeat tells of its sender; `ticks` of this device's periods for which a SLOW counts. -/
def notePeer (b : Beat) (ticks : Nat) (p : Peer) : Peer :=
  { p with progress := b.progress, done := p.done || b.done, slowLeft := if b.slow || b.slowPath then ticks else p.slowLeft }

def heartbeatM (n : Nat) (h : FrameHead) (b : Beat) : Env → Mach → Mach :=
  routed n h (.heartbeat b) (fun e m =>
    match slotOf m b.collId with
    | none => m
    | some i =>
      withBeats e (fun m =>
        let ticks := ceilDiv (m.coll i).timeout (max 1 m.fabric.beatPeriod)
        tryClosed e i (m.modColl i (fun y =>
          { y with peers := y.peers.map (fun p => if p.id = h.origin then notePeer b ticks p else p) }))) m)

/-- R420. -/
def abortM (n : Nat) (h : FrameHead) (collId abortOrigin reason : Nat) : Env → Mach → Mach :=
  routed n h (.abort collId abortOrigin reason) (fun e m =>
    match slotOf m collId with
    | none => m
    | some i => finish e (abortSlot e i 4 abortOrigin 0xFFFF (some h.origin) m))

/-- R418: a watched peer that is not DONE is dead. -/
def peerDeadM (slot peer : Nat) (e : Env) (m : Mach) : Mach :=
  let x := m.coll slot
  if collLive x && x.peers.any (fun p => p.id == peer && !p.done) then
    finish e (abortSlot e slot 1 m.fabric.deviceId peer none m)
  else m

/-- R417: a SLOW frame on one link. -/
def sendSlow (m : Mach) (n : Nat) : Mach :=
  if (m.link n).major == 1 then m
  else
    pushFrame m { link := n, head := { origin := m.fabric.deviceId, dest := (m.link n).peer, hops := 1 }, channel := 2,
                  payload := .slow (maxLevel m) }

/-- R398, R417: the heartbeat period expires. -/
def beatPeriodM (e : Env) (m : Mach) : Mach :=
  if !linksOn m || m.fabric.deviceId == 0xFFFF then m
  else
    let m1 := (liveSlots m).foldl (fun a i => sendBeats e a i) m
    let m2 := if flagSlow m1 then
        ((List.range 96).filter (fun n => linkDelivers e m1 n)).foldl (fun a n => sendSlow a n) m1
      else m1
    { m2 with fabric := { m2.fabric with
        links := m2.fabric.links.map (fun p => (p.1, { p.2 with slowLeft := p.2.slowLeft - 1 })),
        colls := m2.fabric.colls.map (fun p =>
          (p.1, { p.2 with peers := p.2.peers.map (fun q => { q with slowLeft := q.slowLeft - 1 }) })) } }

/-- R334, R407, R414: the signals of an origin that may now be heard, in their order. -/
def releaseSignals (e : Env) (o : Nat) (m : Mach) : Mach :=
  let x := m.origin o
  let due := x.signals.filter (signalDue x)
  let m1 := m.modOrigin o (fun y => { y with signals := y.signals.filter (fun s => !signalDue y s) })
  due.foldl (fun a s => landWatched e a s.core s.index s.value) m1

/-- R407, R413: a WRITE frame: applied in its turn, held when it is ahead, discarded when it has been applied. -/
def writeFrameM (n : Nat) (h : FrameHead) (b : WriteBody) : Env → Mach → Mach :=
  routed n h (.write b) (fun e m =>
    let o := h.origin
    let x := m.origin o
    if precedes32 b.seq x.expected || x.writes.any (fun q => q.seq % 2 ^ 32 == b.seq % 2 ^ 32) then m
    else
      let m1 := m.modOrigin o (fun y => { y with writes := y.writes ++ [b] })
      finish e (withBeats e (fun m => releaseSignals e o (drainWrites e (dieOfLink n) o (x.writes.length + 1) m)) m1))

/-- R407, R414: a SIGNAL frame. -/
def signalFrameM (n : Nat) (h : FrameHead) (b : SignalBody) : Env → Mach → Mach :=
  routed n h (.signal b) (fun e m =>
    let o := h.origin
    if (m.origin o).lost then { m with fabric := { m.fabric with lostSignals := m.fabric.lostSignals + 1 } }
    else finish e (withBeats e (releaseSignals e o) (m.modOrigin o (fun y => { y with signals := y.signals ++ [b] }))))

/-- The held WRITE that comes first after what has been applied. -/
def firstHeld (x : Origin) : Option WriteBody :=
  x.writes.foldl (fun a b =>
    match a with
    | none => some b
    | some c => if diff32 x.expected b.seq < diff32 x.expected c.seq then some b else some c) none

/-- R414: a gap is not filled within 1 ms. -/
def pathLossM (die o : Nat) (e : Env) (m : Mach) : Mach :=
  let x := m.origin o
  if !linksOn m || (x.writes.isEmpty && x.signals.isEmpty) then m
  else
    let m1 := raiseFault m die { mkFault e m die famLink 0x17 6 with detail := o }
    let m2 := { m1 with fabric := { m1.fabric with lostSignals := m1.fabric.lostSignals + BitVec.ofNat 64 x.signals.length } }
    let m3 := m2.modOrigin o (fun y => { y with signals := [], lost := true, expected := ((firstHeld y).map (fun b => b.seq % 2 ^ 32)).getD y.expected })
    finish e (drainWrites e die o x.writes.length m3)

/-- R335: the oldest signal on its way from a sender to a clamp arrives. -/
def arrivalM (snd : Sender) (c i : Nat) (e : Env) (m : Mach) : Mach :=
  match takeSignal snd c i m.signals with
  | (none, _) => m
  | (some s, rest) => finish e (withBeats e (fun m => landWatched e m c i s.value) { m with signals := rest })

/-- R330, R419. -/
def execClampInit (c k : Nat) (w : Word) : State → Host.Outcome State Fault Refusal :=
  liftM (fun e m => watched e (issue 0x60 runClampInit c k w e) m)
/-- R330, R419. -/
def execClampSet (c k : Nat) (w : Word) : State → Host.Outcome State Fault Refusal :=
  liftM (fun e m => watched e (issue 0x63 runClampSet c k w e) m)
/-- R335. -/
def execClampSignalArrival (snd : Sender) (c i : Nat) : State → Host.Outcome State Fault Refusal := liftM (arrivalM snd c i)
/-- R405, R407. -/
def execWriteFrame (n : Nat) (h : FrameHead) (b : WriteBody) : State → Host.Outcome State Fault Refusal :=
  liftM (writeFrameM n h b)
/-- R407. -/
def execSignal (n : Nat) (h : FrameHead) (b : SignalBody) : State → Host.Outcome State Fault Refusal :=
  liftM (signalFrameM n h b)
/-- R418. -/
def execHeartbeat (n : Nat) (h : FrameHead) (b : Beat) : State → Host.Outcome State Fault Refusal := liftM (heartbeatM n h b)
/-- R420. -/
def execAbort (n : Nat) (h : FrameHead) (collId abortOrigin reason : Nat) : State → Host.Outcome State Fault Refusal :=
  liftM (abortM n h collId abortOrigin reason)
/-- R417. -/
def execHeartbeatPeriod : State → Host.Outcome State Fault Refusal := liftM beatPeriodM
/-- R414. -/
def execPathLoss (die o : Nat) : State → Host.Outcome State Fault Refusal := liftM (pathLossM die o)
/-- R418. -/
def execPeerDead (slot peer : Nat) : State → Host.Outcome State Fault Refusal := liftM (peerDeadM slot peer)

end Sys2Proof.Machine
end

