-- ==== Sys2Proof/Machine/Fences.lean ====
section
/-! DEFINITION. Fences and unfences of cores, regions and die halves, device stop, stack temperatures (R374, R377 to R379, R535 to
R540). -/

namespace Sys2Proof.Machine

/-! ### What a fence does (R536) -/

/-- A stream of another core, `home`, that targets core `c`. -/
def targetsCore (c home : Nat) (s : Stream) : Bool := home != c && stDstKind s.w == 0 && (stTargets s.w).contains c

/-- R313: the contexts of other cores that have such streams begin to be pre-empted at once; the end of their streams ends their work
(R296). -/
def preemptFeeders (e : Env) (m : Mach) (c : Nat) : Mach :=
  ((liveWhere m (targetsCore c)).filterMap (fun p => (m.stream? p.1 p.2).map (fun s => (p.1, s.ctx)))).eraseDups.foldl
    (fun a p => preemptBegin e a p.1 p.2) m

/-- R536: every context of the core is killed; a pending action ends REFUSED. -/
def killCore (e : Env) (m : Mach) (c : Nat) : Mach :=
  ((List.range 16).filter (fun k => (m.ctx c k).state != .free)).foldl (fun a k =>
    endWork e (finishAction e a c k 1) c k .kill) m

/-- R536: the effects of a fence on a core that was in service. -/
def stopCore (e : Env) (m : Mach) (c : Nat) : Mach :=
  let m1 := preemptFeeders e (killCore e m c) c
  let m2 := cancelWhere e m1 (targetsCore c) { drop := false, quiet := [], fenced := [c], unbound := [] }
  m2.modCore c (fun x => { x with up := false, tray := [], trayErr := [], drawer := [], side := [] })

/-- The cores of a range that are up. -/
def upCores (m : Mach) (lo n : Nat) : List Nat := ((List.range n).map (fun i => lo + i)).filter (fun c => (m.core c).up)

/-- R536: the record of a core's fence. -/
def coreFenceRecord (e : Env) (m : Mach) (c cause : Nat) : Mach :=
  raiseFault m (dieOf c) { mkFault e m (dieOf c) famManagement 0x10 2 with core := c, detail := cause }

def regionFenceRecord (e : Env) (m : Mach) (g cause : Nat) : Mach :=
  raiseFault m (g / 4) { mkFault e m (g / 4) famMemory 0x19 3 with detail := g + 256 * cause }

def setCoreFence (m : Mach) (c cause : Nat) : Mach :=
  { m with fences := { m.fences with cores := m.fences.cores ||| BitVec.twoPow 64 c, coreCauses := spSet m.fences.coreCauses c cause,
                                     testingCores := m.fences.testingCores.filter (fun x => x != c) } }

def setRegionFence (m : Mach) (g cause : Nat) : Mach :=
  { m with fences := { m.fences with regions := m.fences.regions ||| BitVec.twoPow 8 g,
                                     regionCauses := spSet m.fences.regionCauses g cause,
                                     testingRegions := m.fences.testingRegions.filter (fun x => x != g) } }

/-! ### Die halves and the device (R537, R538) -/

/-- R538: the device stops: links, endpoints and cores. -/
def stopDevice (m : Mach) : Mach :=
  let off (x : Endpoint) : Endpoint := { x with trained := false, attach := 0 }
  stopLinks { m with power := { m.power with stopped := true }, host := { m.host with ep0 := off m.host.ep0, ep1 := off m.host.ep1 } }

/-- R537, R538: a die half is fenced, with its record; with the second one the device stops. -/
def fenceDie (e : Env) (m : Mach) (d cause : Nat) : Mach :=
  if dieFenced m d then m
  else
    let m1 := (upCores m (32 * d) 32).foldl (fun a c => stopCore e a c) m
    let m2 := { m1 with fences := { m1.fences with
      dies := m1.fences.dies ||| BitVec.twoPow 8 d,
      dieCause0 := if d = 0 then cause else m1.fences.dieCause0, dieCause1 := if d = 0 then m1.fences.dieCause1 else cause } }
    let mine := (List.range 96).filter (fun n => dieOfLink n == d && (m2.link n).state != 0)
    let m3 := mine.foldl (fun a n => leaveUp e a n (if (a.link n).state = 3 then 3 else 0)) m2
    let m4 := raiseLead m3 { mkFault e m3 d famManagement 0x17 4 with detail := d + 256 * cause }
    if dieFenced m4 0 && dieFenced m4 1 then
      stopDevice (raiseLead m4 (mkFault e m4 d famManagement 0x18 5))
    else m4

/-- R537: every core of the die is fenced or absent, or every region of it is fenced. -/
def dieSpent (e : Env) (m : Mach) (d : Nat) : Bool :=
  (List.range 32).all (fun i => !e.v.hasCore (32 * d + i) || coreFenced m (32 * d + i)) ||
    (List.range 4).all (fun i => regionFenced m (4 * d + i))

def checkDie (e : Env) (m : Mach) (d : Nat) : Mach := if dieSpent e m d then fenceDie e m d 3 else m

/-- R536: core `c` gets a fence of its own. -/
def fenceCore (e : Env) (m : Mach) (c cause : Nat) : Mach :=
  if m.fences.cores.getLsbD c || !e.v.hasCore c then m
  else
    let m1 := if (m.core c).up then stopCore e m c else m
    checkDie e (coreFenceRecord e (setCoreFence m1 c cause) c cause) (dieOf c)

/-- R374, R535: region `g` gets a fence of its own: eight cores and two stacks. -/
def fenceRegion (e : Env) (m : Mach) (g cause : Nat) : Mach :=
  if m.fences.regions.getLsbD g || decide (8 ≤ g) then m
  else
    let m1 := (upCores m (8 * g) 8).foldl (fun a c => stopCore e a c) m
    let m2 := (setRegionFence m1 g cause).modStack (2 * g) (fun x => { x with evacuating := false, training := [] })
    let m3 := m2.modStack (2 * g + 1) (fun x => { x with evacuating := false, training := [] })
    checkDie e (regionFenceRecord e m3 g cause) (g / 4)

/-! ### Unfences (R540) -/

def unfencedRecord (e : Env) (m : Mach) (d unit level : Nat) : Mach :=
  raiseFault m d { mkFault e m d famManagement 0x19 level with core := if level = 2 then unit else 255, detail := unit + 256 * level }

/-- R357, R540: a core comes up with a zeroed tray. -/
def coreComesUp (m : Mach) (c : Nat) : Mach :=
  m.modCore c (fun x => { x with up := true, tray := [], trayErr := [], trayFaults := [], drawer := [], side := [], tlb1 := [], tlb2 := [] })

def clearCoreFence (m : Mach) (c : Nat) : Mach :=
  { m with fences := { m.fences with cores := m.fences.cores &&& ~~~(BitVec.twoPow 64 c),
                                     testingCores := m.fences.testingCores.filter (fun x => x != c) } }

def clearRegionFence (m : Mach) (g : Nat) : Mach :=
  { m with fences := { m.fences with regions := m.fences.regions &&& ~~~(BitVec.twoPow 8 g),
                                     testingRegions := m.fences.testingRegions.filter (fun x => x != g) } }

/-- R365, R514: every granule of a stack holds zero data and a zero side band. -/
def zeroStack (m : Mach) (s : Nat) : Mach :=
  { m with hbm := { m.hbm with
      cells := m.hbm.cells.filter (fun p => stackOf p.1 != s), side := m.hbm.side.filter (fun p => stackOf (64 * p.1) != s) } }

/-- R377: the thresholds of levels 1 to 5. -/
def levelAt (m : Mach) (n : Nat) : Nat := if n = 5 then 105 else m.hbm.thresholds.getD (n - 1) 105

/-- R378: the level of a temperature in 1/16 °C. -/
def levelOf (m : Mach) (t : Int) : Nat :=
  ((List.range 5).filter (fun i => decide (16 * ((levelAt m (i + 1) : Nat) : Int) ≤ t))).length

/-- R540: a stack of the region reads at or above the level 1 threshold. -/
def regionHot (m : Mach) (g : Nat) : Bool :=
  [2 * g, 2 * g + 1].any (fun s => (m.stack s).temp.any (fun t => decide (16 * ((levelAt m 1 : Nat) : Int) ≤ t)))

/-- R540: the region returns: both stacks hold zeros, and its cores come up. -/
def regionReturns (e : Env) (m : Mach) (g : Nat) : Mach :=
  let cool (m : Mach) (s : Nat) : Mach := (zeroStack m s).modStack s (fun x => { x with level := (x.temp.map (levelOf m)).getD 0 })
  let m1 := clearRegionFence (cool (cool m (2 * g)) (2 * g + 1)) g
  let cs := ((List.range 8).map (fun i => 8 * g + i)).filter (fun c => e.v.hasCore c && !coreFenced m1 c)
  unfencedRecord e (cs.foldl coreComesUp m1) (g / 4) g 3

/-- R483: the versions that a die publishes. -/
def publishedVersions (x : DieTables) : List (Nat × Nat) × List (Nat × Nat) :=
  ((x.slots.filter (fun p => p.2.set)).map (fun p => (p.1, natBits p.2.desc 63 32)),
    (x.maps.filter (fun p => p.2.set)).map (fun p => (p.1, natBits p.2.header 31 0)))

def tablesDiffer (m : Mach) : Bool := decide (publishedVersions m.tables.die0 ≠ publishedVersions m.tables.die1)

/-- R483 step 1: a rejoin begins with a comparison, which every boundary repeats; the record is written when the versions are found to
differ. -/
def startRejoin (e : Env) (m : Mach) : Mach :=
  let differ := tablesDiffer m
  let said := m.mgmt.rejoining && m.mgmt.blockedSaid
  let m1 := { m with mgmt := { m.mgmt with rejoining := true, blockedSaid := differ } }
  if differ && !said then raiseLead m1 (mkFault e m1 (leadGauge m1) famManagement 0x15 0) else m1

/-- R540: one control write at step 7. A die half returns by the rejoin that begins here (R483). -/
def fenceAct (e : Env) (m : Mach) (p : Nat × Nat × Bool) : Mach :=
  let u := p.2.1
  if p.1 = 2 then
    if p.2.2 then fenceCore e m u 4
    else if !m.fences.cores.getLsbD u then m
    else if regionFenced m (regionOf u) then unfencedRecord e (clearCoreFence m u) (dieOf u) u 2
    else { m with fences := { m.fences with testingCores := u :: m.fences.testingCores.filter (fun x => x != u) } }
  else if p.1 = 3 then
    if p.2.2 then fenceRegion e m u 4
    else if !m.fences.regions.getLsbD u then m
    else if dieFenced m (u / 4) then
      let m1 := clearRegionFence m u
      unfencedRecord e { m1 with fences := { m1.fences with owed := u :: m1.fences.owed } } (u / 4) u 3
    else if regionHot m u then regionFenceRecord e m u (spGet 0 m.fences.regionCauses u)
    else { m with fences := { m.fences with testingRegions := u :: m.fences.testingRegions.filter (fun x => x != u) } }
  else if p.2.2 then fenceDie e m u 4
  else startRejoin e { m with fences := { m.fences with returning := u :: m.fences.returning.filter (fun d => d != u) } }

/-- R540: step 7. -/
def fenceStep (e : Env) (m : Mach) : Mach :=
  let ps := m.fences.pending
  ps.foldl (fun a p => fenceAct e a p) { m with fences := { m.fences with pending := [] } }

/-! ### Control writes (R540) -/

def pendFence (m : Mach) (level unit : Nat) (on : Bool) : Mach :=
  { m with fences := { m.fences with pending := m.fences.pending ++ [(level, unit, on)] } }

def coreControl (c : Nat) (on : Bool) (e : Env) (m : Mach) : Nat × Mach :=
  if 64 ≤ c then (rBounds, m)
  else if !e.v.hasCore c then (rUnitAbsent, m)
  else if m.fences.cores.getLsbD c == on then (rBounds, m)
  else (rOk, pendFence m 2 c on)

def regionControl (g : Nat) (on : Bool) (_ : Env) (m : Mach) : Nat × Mach :=
  if 8 ≤ g ∨ m.fences.regions.getLsbD g = on ∨ (on = false ∧ regionHot m g) then (rBounds, m) else (rOk, pendFence m 3 g on)

/-- R540: an unfence of a die half needs cause 1 or 4, its gauge and the die-to-die path. -/
def dieMayReturn (m : Mach) (d : Nat) : Bool :=
  let cause := if d = 0 then m.fences.dieCause0 else m.fences.dieCause1
  (cause == 1 || cause == 4) && (gaugeOf m d).alive && m.mgmt.pathUp

def dieControl (d : Nat) (on : Bool) (_ : Env) (m : Mach) : Nat × Mach :=
  if 2 ≤ d ∨ dieFenced m d = on ∨ (on ∧ dieFenced m (1 - d)) ∨ (on = false ∧ dieMayReturn m d = false) then (rBounds, m)
  else (rOk, pendFence m 4 d on)

/-! ### Events -/

/-- R540. -/
def selfTestEndM (c : Nat) (passed : Bool) (e : Env) (m : Mach) : Mach :=
  if !m.fences.testingCores.contains c then m
  else if passed then
    let m1 := clearCoreFence m c
    unfencedRecord e (if coreFenced m1 c then m1 else coreComesUp m1 c) (dieOf c) c 2
  else
    coreFenceRecord e { m with fences := { m.fences with testingCores := m.fences.testingCores.filter (fun x => x != c) } } c
      (spGet 0 m.fences.coreCauses c)

/-- R540. -/
def regionEndM (g : Nat) (passed : Bool) (e : Env) (m : Mach) : Mach :=
  if !m.fences.testingRegions.contains g then m
  else if passed then regionReturns e m g
  else
    regionFenceRecord e { m with fences := { m.fences with testingRegions := m.fences.testingRegions.filter (fun x => x != g) } } g
      (spGet 0 m.fences.regionCauses g)

/-- R377 to R379, R420, R421: a reading, and the rise of the level that it brings. -/
def tempReadM (s : Nat) (t : Int) (e : Env) (m : Mach) : Mach :=
  if !m.hbm.on || decide (16 ≤ s) then m
  else
    let old := (m.stack s).level
    let new := max old (levelOf m t)
    let m1 := withBeats e (fun m => m.modStack s (fun x =>
      { x with temp := some t, peak := some (max t (x.peak.getD t)), level := new })) m
    let m2 := if old < 4 ∧ 4 ≤ new then
        abortAll e 2 m1 ((liveSlots m1).filter (fun i => (m1.coll i).state != 3)) else m1
    let m3 := if old < 5 ∧ new = 5 then
        fenceRegion e (raiseFault m2 (s / 8)
          { mkFault e m2 (s / 8) famMemory 0x18 3 with detail := s + 256 * ((t / 16).toNat % 256) }) (s / 2) 1
      else m2
    finish e m3

/-- R535: a supply or clock fault of the region's domain. -/
def domainFaultM (g : Nat) (e : Env) (m : Mach) : Mach := if m.hbm.on then finish e (fenceRegion e m g 3) else m

/-- R536: the gauge fences a core, for cause 2 when three TRAY_UNCORRECTABLE records on it came within one second. -/
def coreFenceM (c cause : Nat) (e : Env) (m : Mach) : Mach :=
  if (m.core c).up && (cause != 2 || trayRepeat (m.core c)) then finish e (fenceCore e m c cause) else m

/-- R377. -/
def execStackTempRead (s : Nat) (t : Int) : State → Host.Outcome State Fault Refusal := liftM (tempReadM s t)
/-- R535. -/
def execRegionDomainFault (g : Nat) : State → Host.Outcome State Fault Refusal := liftM (domainFaultM g)
/-- R536. -/
def execCoreFence (c cause : Nat) : State → Host.Outcome State Fault Refusal := liftM (coreFenceM c cause)
/-- R540. -/
def execCoreFenceRequest (via : Via) (c : Nat) : State → Host.Outcome State Fault Refusal :=
  liftM (dictM via 0x0700 0x40 true (coreControl c true))
/-- R540. -/
def execCoreUnfenceRequest (via : Via) (c : Nat) : State → Host.Outcome State Fault Refusal :=
  liftM (dictM via 0x0700 0x40 true (coreControl c false))
/-- R540. -/
def execRegionFenceRequest (via : Via) (g : Nat) : State → Host.Outcome State Fault Refusal :=
  liftM (dictM via 0x0700 0x41 true (regionControl g true))
/-- R540. -/
def execRegionUnfenceRequest (via : Via) (g : Nat) : State → Host.Outcome State Fault Refusal :=
  liftM (dictM via 0x0700 0x41 true (regionControl g false))
/-- R540. -/
def execDieFenceRequest (via : Via) (d : Nat) : State → Host.Outcome State Fault Refusal :=
  liftM (dictM via 0x0700 0x42 true (dieControl d true))
/-- R540. -/
def execDieUnfenceRequest (via : Via) (d : Nat) : State → Host.Outcome State Fault Refusal :=
  liftM (dictM via 0x0700 0x42 true (dieControl d false))
/-- R540. -/
def execCoreSelfTestEnd (c : Nat) (passed : Bool) : State → Host.Outcome State Fault Refusal := liftM (selfTestEndM c passed)
/-- R540. -/
def execRegionUnfenceEnd (g : Nat) (passed : Bool) : State → Host.Outcome State Fault Refusal := liftM (regionEndM g passed)

end Sys2Proof.Machine
end

