-- ==== Sys2Proof/Machine/OverlayOps.lean ====
section
/-! DEFINITION. Overlays: their header, index, records and filters, the overlay writers, compaction in the background (R214 to
R230, R233). -/

namespace Sys2Proof.Machine

/-! ### Device reads -/

/-- Bytes read by the device itself, page by page; none when a page does not translate or a granule is poisoned. -/
def devGetGo (e : Env) (d : Nat) : Nat → Nat → Nat → Mach → Mach × Option (List Byte)
  | 0, _, _, m => (m, some [])
  | fuel + 1, va, n, m =>
    if n = 0 then (m, some [])
    else
      let k := min n (pageRest va)
      match deviceRead e m d va k with
      | (m1, some (bs, false)) =>
        match devGetGo e d fuel (va + k) (n - k) m1 with
        | (m2, some cs) => (m2, some (bs ++ cs))
        | other => other
      | (m1, _) => (m1, none)

def devGet (e : Env) (d va n : Nat) (m : Mach) : Mach × Option (List Byte) := devGetGo e d (n / 2 ^ 21 + 2) va n m

/-- Writes in order; false from the first that cannot be made on. -/
def devPutAll (e : Env) (d : Nat) : List (Nat × List Byte) → Mach → Mach × Bool
  | [], m => (m, true)
  | p :: ps, m =>
    match deviceWrite e m d p.1 p.2 with
    | (m1, true) => devPutAll e d ps m1
    | (m1, false) => (m1, false)

/-- The die whose stack holds a device virtual address, by the root of die `d`. -/
def homeDie (e : Env) (d va : Nat) (m : Mach) : Option Nat :=
  match (deviceTranslate e m d va false).2 with
  | .ok pa _ => some (stackOf pa / 8)
  | _ => none

/-- R234: the address lies on the stacks of the die that this half does not hold. -/
def otherDie (e : Env) (d va : Nat) (m : Mach) : Bool := e.k.split && (homeDie e d va m).any (fun w => w != d)

/-- R234: a page of a range lies there. -/
def rangeAway (e : Env) (d a n : Nat) (m : Mach) : Bool :=
  e.k.split && decide (0 < n) &&
    (List.range ((a % 2 ^ 21 + n - 1) / 2 ^ 21 + 1)).any (fun i => otherDie e d (a / 2 ^ 21 * 2 ^ 21 + i * 2 ^ 21) m)

/-- The device reaches host-die memory for die `d`. -/
def hostReached (e : Env) (m : Mach) (d : Nat) : Bool :=
  (endpoint m d).trained || (!e.k.split && (endpoint m (1 - d)).trained)

/-! ### Slots and overlays -/

def tableSlot (m : Mach) (d t : Nat) : Slot := spGet Slot.reset (dieTables m d).slots t

def modSlot (m : Mach) (d t : Nat) (f : Slot → Slot) : Mach :=
  setDieTables m d { dieTables m d with slots := spMod Slot.reset (dieTables m d).slots t f }

/-- R199, R211: the oldest retained version of a slot. -/
def oldestOf (x : Slot) : Nat := (x.retained.head?.map (fun r => r.version)).getD (dVersion x.desc)

/-- An overlay with the die of its writer and the place and words of its header. -/
structure OverlayAt where
  die : Nat
  place : Nat
  raw : Nat
  o : Overlay
  deriving DecidableEq, Repr, Inhabited

def openOverlay (e : Env) (d ptr : Nat) (m : Mach) : Mach × Option OverlayAt :=
  match devGet e d ptr 64 m with
  | (m1, some bs) => (m1, some { die := d, place := ptr, raw := leNat bs, o := overlayOf bs })
  | (m1, none) => (m1, none)

/-- R214: the words of a header with its RO fields as `o` has them. -/
def headerWords (raw : Nat) (o : Overlay) : Nat :=
  setBits (setBits (setBits (setBits raw 203 1 (bit o.filterSel)) 384 21 o.rows) 416 22 o.used) 448 32 o.openTag

def saveOverlay (e : Env) (a : OverlayAt) (o : Overlay) (m : Mach) : Mach :=
  (deviceWrite e m a.die a.place (leBytes 64 (headerWords a.raw o))).1

def noRow : Nat := 2 ^ 64 - 1
def noRecord : Nat := 2 ^ 32 - 1

/-- A bucket that holds a row: its address, row, head and head tag. -/
structure Bucket where
  place : Nat
  row : Nat
  head : Nat
  tag : Nat
  deriving DecidableEq, Repr, Inhabited

def bucketOf (place : Nat) (bs : List Byte) : Bucket :=
  { place := place, row := leNat (bs.take 8), head := leNat ((bs.drop 8).take 4), tag := leNat ((bs.drop 12).take 4) }

/-- The eight buckets of the index group at `va`. -/
def readGroup (e : Env) (d va : Nat) (m : Mach) : Mach × Option (List Bucket) :=
  match devGet e d va 128 m with
  | (m1, some bs) => (m1, some ((List.range 8).map (fun i => bucketOf (va + 16 * i) ((bs.drop (16 * i)).take 16))))
  | (m1, none) => (m1, none)

/-- Every bucket that holds a row, from group `g` up. -/
def scanIndex (e : Env) (a : OverlayAt) : Nat → Nat → Mach → Mach × List Bucket
  | 0, _, m => (m, [])
  | n + 1, g, m =>
    match readGroup e a.die (a.o.indexBase + 128 * g) m with
    | (m1, some bs) =>
      let r := scanIndex e a n (g + 1) m1
      (r.1, bs.filter (fun b => b.row != noRow) ++ r.2)
    | (m1, none) => scanIndex e a n (g + 1) m1

/-- R234: the index, the records or the metadata of an overlay lie there. -/
def storageAway (e : Env) (d pitch : Nat) (o : Overlay) (m : Mach) : Bool :=
  rangeAway e d o.indexBase (16 * 2 ^ o.indexLog2) m || rangeAway e d o.recordBase (pitch * 2 ^ o.recordsLog2) m ||
    rangeAway e d o.metaBase (16 * 2 ^ o.recordsLog2) m

def allRows (e : Env) (a : OverlayAt) (m : Mach) : Mach × List Bucket := scanIndex e a (2 ^ (a.o.indexLog2 - 3)) 0 m

/-- R216: a record's metadata with its number. -/
structure Meta where
  n : Nat
  tag : Nat
  prev : Nat
  seq : Nat
  deriving DecidableEq, Repr, Inhabited

def readMeta (e : Env) (a : OverlayAt) (n : Nat) (m : Mach) : Mach × Option Meta :=
  match devGet e a.die (a.o.metaBase + 16 * n) 16 m with
  | (m1, some bs) =>
    (m1, some { n := n, tag := leNat (bs.take 4), prev := leNat ((bs.drop 4).take 4), seq := leNat (bs.drop 8) })
  | (m1, none) => (m1, none)

/-- The records of a row from its head on; `fuel` bounds the chain by the records there are. -/
def readChain (e : Env) (a : OverlayAt) : Nat → Nat → Mach → Mach × List Meta
  | 0, _, m => (m, [])
  | fuel + 1, n, m =>
    if n = noRecord then (m, [])
    else
      match readMeta e a n m with
      | (m1, some x) =>
        let r := readChain e a fuel x.prev m1
        (r.1, x :: r.2)
      | (m1, none) => (m1, [])

def chainOf (e : Env) (a : OverlayAt) (b : Bucket) (m : Mach) : Mach × List Meta :=
  readChain e a (2 ^ a.o.recordsLog2 + 1) b.head m

def metaBytes (tag prev seq : Nat) : List Byte := leBytes 4 tag ++ leBytes 4 prev ++ leBytes 8 seq

/-- R219, R234: the filters lie on the other half of a split device. -/
def filterAway (e : Env) (a : OverlayAt) : Bool := e.k.split && dieOf a.o.filterCore != a.die

/-- R217: the row's two bits in the filter at tray address `base`. A fenced filter core has lost its tray, and takes no bit
(notes/assumptions/68). -/
def setFilterBits (e : Env) (a : OverlayAt) (base row : Nat) (m : Mach) : Mach :=
  let o := a.o
  if coreIn e m o.filterCore && !filterAway e a then
    let at_ := base + filterWord o row
    let fb := filterBits o row
    trayWrite m o.filterCore at_ (leBytes 64 (trayNat m o.filterCore at_ 64 ||| 2 ^ fb.1 ||| 2 ^ fb.2))
  else m

def filterInUse (o : Overlay) : Nat := if o.filterSel then o.filter1 else o.filter0
def filterOther (o : Overlay) : Nat := if o.filterSel then o.filter0 else o.filter1

/-! ### Updates (R220 to R222, R229, R230, R233) -/

/-- The `k`-th number that a rising list leaves out. -/
def nthFree : List Nat → Nat → Nat
  | [], k => k
  | u :: us, k => if u ≤ k then nthFree us (k + 1) else k

/-- A rising list with one more number. -/
def insertRising (x : Nat) : List Nat → List Nat
  | [] => [x]
  | y :: ys => if x < y then x :: y :: ys else y :: insertRising x ys

/-- R222: the tag of records accepted now. -/
def openTagOf (desc : Nat) : Nat := (dVersion desc + 1) % 2 ^ 32

/-- R221 steps 5 and 6: a free record takes the update, and bucket `b` names it; which free record is left open
(notes/assumptions/2). An entry whose row needs filter bits on the other half is UNREACHABLE (R234). -/
def newRecord (e : Env) (a : OverlayAt) (t : Nat) (b : Bucket) (prev row seq : Nat) (data : List Byte) (m0 : Mach) :
    Mach × Nat :=
  let x := tableSlot m0 a.die t
  let size := 2 ^ a.o.recordsLog2
  let rows := a.o.rows + (if b.row = noRow then 1 else 0)
  if size ≤ x.used.length ∨ 2 ^ 20 < rows then (m0, 4)
  else if filterAway e a then (m0, 6)
  else
    let m := freeStep m0
    let n := nthFree x.used (freeNow m0 % (size - x.used.length))
    let tag := openTagOf x.desc
    match devPutAll e a.die [(a.o.recordBase + n * dRowPitch x.desc, data), (a.o.metaBase + 16 * n, metaBytes tag prev seq),
        (b.place, leBytes 8 row ++ leBytes 4 n ++ leBytes 4 tag)] m with
    | (m1, false) => (m1, 2)
    | (m1, true) =>
      let m2 := setFilterBits e a (filterInUse a.o) row m1
      let m3 := if x.compaction.any (fun c => c.stage == 3) then setFilterBits e a (filterOther a.o) row m2 else m2
      let m4 := saveOverlay e a { a.o with rows := rows, used := x.used.length + 1, openTag := tag } m3
      (modSlot m4 a.die t (fun y => { y with used := insertRising n y.used }), 0)

/-- R221 steps 3 to 6: the update of a row: state and RESULT. -/
def updateRow (e : Env) (a : OverlayAt) (t row seq : Nat) (data : List Byte) (m : Mach) : Mach × Nat :=
  let desc := (tableSlot m a.die t).desc
  match readGroup e a.die (a.o.indexBase + 128 * rowGroup a.o row) m with
  | (m1, none) => (m1, 2)
  | (m1, some bs) =>
    match bs.find? (fun b => b.row == row) with
    | some b =>
      match readMeta e a b.head m1 with
      | (m2, none) => (m2, 2)
      | (m2, some x) =>
        if seq < x.seq then (m2, 1)
        else if x.tag = openTagOf desc then
          match devPutAll e a.die [(a.o.recordBase + b.head * dRowPitch desc, data),
              (a.o.metaBase + 16 * b.head, metaBytes x.tag x.prev seq)] m2 with
          | (m3, true) => (m3, 0)
          | (m3, false) => (m3, 2)
        else newRecord e a t b b.head row seq data m2
    | none =>
      match bs.find? (fun b => b.row == noRow) with
      | some b => newRecord e a t b noRecord row seq data m1
      | none => (m1, 4)

/-! R228: the fields of a shard-map header. -/

def smVersion (h : Nat) : Nat := natBits h 31 0
def smShift (h : Nat) : Nat := natBits h 37 32
def smBlocksLog2 (h : Nat) : Nat := natBits h 44 40
def smShards (h : Nat) : Nat := natBits h 59 48
def smBlockBase (h : Nat) : Nat := natBits h 115 64
def smDeviceBase (h : Nat) : Nat := natBits h 179 128

def mapOf (m : Mach) (d i : Nat) : ShardMap := spGet ShardMap.reset (dieTables m d).maps i

/-- The shard of a block under a header and the device that holds it; none when they cannot be read. -/
def blockHolder (e : Env) (d h b : Nat) (m : Mach) : Mach × Option (Nat × Nat) :=
  if 2 ^ smBlocksLog2 h ≤ b then (m, none)
  else
    match devGet e d (smBlockBase h + 2 * b) 2 m with
    | (m1, some s) =>
      match devGet e d (smDeviceBase h + 2 * leNat s) 2 m1 with
      | (m2, some v) => (m2, some (leNat s, leNat v))
      | (m2, none) => (m2, none)
    | (m1, none) => (m1, none)

/-- R229: this device owns row `r` of a slot with descriptor `desc` under header `h`. -/
def ownsRow (e : Env) (d h desc r : Nat) (m : Mach) : Mach × Bool :=
  match blockHolder e d h (r / 2 ^ smShift h) m with
  | (m1, some (s, v)) => (m1, s == dShard desc && v == m.fabric.deviceId)
  | (m1, none) => (m1, false)

/-- R233: the block lies in a frozen range. -/
def frozenBlock (x : DieTables) (map b : Nat) : Bool :=
  x.frozen.any (fun f => f.1 == map && decide (f.2.1 ≤ b) && decide (b < f.2.1 + f.2.2))

/-- R221 step 1, R220, R204: the entry's own fields against the slot as published on die `d`. -/
def updateBad (m : Mach) (d size : Nat) (b : List Byte) : Bool :=
  let n (lo k : Nat) : Nat := leNat ((b.drop lo).take k)
  let desc := descOn m d (n 2 2)
  decide (n 0 1 ≠ 1) || decide (4096 ≤ n 2 2) || decide (dKind desc ≠ 1) || !dOverlay desc || decide (dRowCount desc ≤ n 8 8) ||
    decide (n 8 8 = noRow) || decide (size < 64 + dRowBytes desc)

/-- The writer of die `d` takes an entry: state and RESULT; none when the other die's writer has to. -/
def takeUpdate (e : Env) (d size : Nat) (b data : List Byte) (m : Mach) : Mach × Option Nat :=
  if updateBad m d size b then (m, some 2)
  else
    let n (lo k : Nat) : Nat := leNat ((b.drop lo).take k)
    let t := n 2 2
    let desc := descOn m d t
    match homeDie e d (dOverlayPtr desc) m with
    | none => (m, some 2)
    | some w =>
      if w ≠ d then (m, if e.k.split then some 6 else none)
      else
        let map := mapOf m d (dShardMap desc)
        let own := ownsRow e d map.header desc (n 8 8) m
        if !map.set || !own.2 then (own.1, some 3)
        else if frozenBlock (dieTables m d) (dShardMap desc) (n 8 8 / 2 ^ smShift map.header) then (own.1, some 5)
        else
          match openOverlay e d (dOverlayPtr desc) own.1 with
          | (m1, none) => (m1, some 2)
          | (m1, some a) =>
            if storageAway e d (dRowPitch desc) a.o m1 then (m1, some 6)
            else
              let r := updateRow e a t (n 8 8) (n 16 8) (data.take (dRowBytes desc)) m1
              (r.1, some r.2)

/-- R221: the results counted in 0x0900.10 to .14. -/
def countUpdate (x : Tables) (r : Nat) : Tables :=
  if r = 0 then { x with accepted := x.accepted + 1 }
  else if r = 1 then { x with superseded := x.superseded + 1 }
  else if r = 3 then { x with notOwner := x.notOwner + 1 }
  else if r = 4 then { x with overlayFull := x.overlayFull + 1 }
  else if r = 5 then { x with migrating := x.migrating + 1 }
  else x

/-- The dies that share a ring head with die `d`. -/
def headDies (e : Env) (d : Nat) : List Nat := if e.k.split then [d] else [0, 1]

def setUpdHead (e : Env) (d h : Nat) (m : Mach) : Mach :=
  (headDies e d).foldl (fun a x => setDieTables a x { dieTables a x with updHead := h % 2 ^ 32 }) m

/-- R221: the overlay writer of die `d` takes the next update entry. -/
def putM (d : Nat) (e : Env) (m : Mach) : Mach :=
  let t := m.tables
  let h := (dieTables m d).updHead
  if 2 ≤ d ∨ dieFenced m d ∨ !m.hbm.on ∨ m.mgmt.leaderless ∨ !hostReached e m d ∨ t.updBase = 0 ∨
      h = rwRead m d (rwKey 0x0900 9) t.updTail then m
  else
    let at_ := t.updBase + h % 2 ^ t.updSize * 2 ^ t.updEntry
    match takeUpdate e d (2 ^ t.updEntry) (hostRead m at_ 64) (hostRead m (at_ + 64) (2 ^ t.updEntry - 64)) m with
    | (_, none) => m
    | (m1, some r) =>
      let m2 := hostWrite (hostWrite m1 (at_ + 24) (leBytes 4 r)) (at_ + 32) (leBytes 8 (strokeAt e.k d))
      setUpdHead e d (h + 1) { m2 with tables := countUpdate m2.tables r }

/-! ### Reclaiming (R212, R224) -/

/-- R224: the records of a row behind the first one that every live version can see. -/
def staleTail (oldest : Nat) : List Meta → Option (Meta × List Meta)
  | [] => none
  | x :: xs => if tagVisible x.tag oldest then (if xs.isEmpty then none else some (x, xs)) else staleTail oldest xs

/-- Reclaim one row: state, records freed, tags that stay. -/
def reclaimRow (e : Env) (a : OverlayAt) (oldest : Nat) (b : Bucket) (m : Mach) : Mach × List Nat × List Nat :=
  let r := chainOf e a b m
  match staleTail oldest r.2 with
  | none => (r.1, [], r.2.map (fun x => x.tag))
  | some (x, xs) =>
    ((devPutAll e a.die [(a.o.metaBase + 16 * x.n, metaBytes x.tag noRecord x.seq)] r.1).1, xs.map (fun y => y.n),
      (r.2.take (r.2.length - xs.length)).map (fun y => y.tag))

def reclaimRows (e : Env) (a : OverlayAt) (oldest : Nat) : List Bucket → Mach → Mach × List Nat × List Nat
  | [], m => (m, [], [])
  | b :: bs, m =>
    let r := reclaimRow e a oldest b m
    let q := reclaimRows e a oldest bs r.1
    (q.1, r.2.1 ++ q.2.1, r.2.2 ++ q.2.2)

/-- Free records of a slot's overlay, and its header's count. -/
def freeRecords (e : Env) (a : OverlayAt) (t rowsGone : Nat) (ns : List Nat) (m : Mach) : Mach :=
  let m1 := modSlot m a.die t (fun x => { x with used := x.used.filter (fun n => !ns.contains n) })
  saveOverlay e a { a.o with rows := a.o.rows - rowsGone, used := (tableSlot m1 a.die t).used.length } m1

/-- R212: the entry's records have been reclaimed. -/
def freedDone (oldest : Nat) (tags : List Nat) (f : Freed) : Bool :=
  if f.compact then precedes32 f.tag oldest && tags.all (fun t => !tagVisible t f.tag)
  else tagVisible f.tag oldest && tags.all (fun t => t != f.tag)

/-- R208, R211: RELEASED_STROKE of publication entry `n`. -/
def writeReleased (m : Mach) (n stroke : Nat) : Mach :=
  hostWrite m (m.tables.pubBase + 256 * (n % 2 ^ m.tables.pubSize) + 40) (leBytes 8 stroke)

/-- R212, R224: the writer of die `d` reclaims the records of slot `t`. -/
def reclaimSlot (e : Env) (d stroke t : Nat) (m : Mach) : Mach :=
  let x := tableSlot m d t
  if x.used.isEmpty && x.reclaim.isEmpty then m
  else
    match openOverlay e d (dOverlayPtr x.desc) m with
    | (m1, none) => m1
    | (m1, some a) =>
      let rows := allRows e a m1
      let r := reclaimRows e a (oldestOf x) rows.2 rows.1
      let m2 := if r.2.1.isEmpty then r.1 else freeRecords e a t 0 r.2.1 r.1
      let done := x.reclaim.filter (freedDone (oldestOf x) r.2.2)
      let m3 := done.foldl (fun y f => writeReleased y f.entry stroke) m2
      modSlot m3 d t (fun y => { y with reclaim := y.reclaim.filter (fun f => !done.contains f) })

/-! ### Compaction (R225, R226) -/

/-- R225 stage 2: the base row of a bucket takes its newest record at or before the cut. -/
def foldRow (e : Env) (a : OverlayAt) (desc cut : Nat) (b : Bucket) (m : Mach) : Mach :=
  let r := chainOf e a b m
  match r.2.find? (fun x => tagVisible x.tag cut) with
  | none => r.1
  | some x =>
    match devGet e a.die (a.o.recordBase + x.n * dRowPitch desc) (dRowBytes desc) r.1 with
    | (m1, some bs) => (deviceWrite e m1 a.die (dBase desc + b.row * dRowPitch desc) bs).1
    | (m1, none) => m1

/-- What the writer of die `d` does for a running compaction of slot `t` that has finished stage `from_`. -/
def compactM (d t from_ : Nat) (f : OverlayAt → Slot → Compaction → List Bucket → Mach → Mach) (e : Env) (m : Mach) : Mach :=
  let x := tableSlot m d t
  match x.compaction with
  | none => m
  | some c =>
    if 2 ≤ d ∨ dieFenced m d ∨ !m.hbm.on ∨ c.stage ≠ from_ ∨ precedes32 (oldestOf x) c.cut then m
    else
      match openOverlay e d (dOverlayPtr x.desc) m with
      | (m1, none) => m1
      | (m1, some a) =>
        let rows := allRows e a m1
        modSlot (f a x c rows.2 rows.1) d t (fun y => { y with compaction := some { c with stage := from_ + 1 } })

def baseWritesM (d t : Nat) (e : Env) : Mach → Mach :=
  compactM d t 1 (fun a x c rows m => rows.foldl (fun y b => foldRow e a x.desc c.cut b y) m) e

/-- R225 stage 3: the other filter is zeroed and built from the rows with a record newer than the cut. -/
def buildFilter (e : Env) (a : OverlayAt) (_ : Slot) (c : Compaction) (rows : List Bucket) (m : Mach) : Mach :=
  let base := filterOther a.o
  let m1 := trayWrite m a.o.filterCore base (List.replicate (2 ^ (a.o.filterLog2 - 3)) 0)
  (rows.filter (fun b => !tagVisible b.tag c.cut)).foldl (fun y b => setFilterBits e a base b.row y) m1

/-- R225: stage 3 waits for a filter core that is fenced or on the other half (notes/assumptions/68). -/
def filterBuildM (d t : Nat) (e : Env) (m : Mach) : Mach :=
  match (openOverlay e d (dOverlayPtr (tableSlot m d t).desc) m).2 with
  | some a => if coreIn e m a.o.filterCore && !filterAway e a then compactM d t 2 (buildFilter e) e m else m
  | none => compactM d t 2 (buildFilter e) e m

/-- R221. -/
def execPut (d : Nat) : State → Host.Outcome State Fault Refusal := liftM (putM d)
/-- R225. -/
def execCompactionBaseWrites (d t : Nat) : State → Host.Outcome State Fault Refusal := liftM (baseWritesM d t)
/-- R225. -/
def execCompactionFilterBuild (d t : Nat) : State → Host.Outcome State Fault Refusal := liftM (filterBuildM d t)

end Sys2Proof.Machine
end

