-- ==== Sys2Proof/Machine/Publish.lean ====
section
/-! DEFINITION. Publication at step 5 and release at step 9 of a boundary, ring tails, load records, progress totals (R45, R46,
R192 to R194, R199 to R212, R221, R223, R225, R227, R228, R232 to R234, R257 to R259). -/

namespace Sys2Proof.Machine

/-! ### Which dies publish, and their memory (R203, R234) -/

/-- R203, R234: the dies into whose copies half `h` publishes. -/
def pubDies (e : Env) (m : Mach) (h : Nat) : List Nat :=
  ([0, 1] : List Nat).filter (fun d => (!e.k.split || d == h) && (!dieFenced m d || m.fences.returning.contains d))

/-- R203: a place of a die's descriptor region, which lies on PROTECT pages of the die's own stacks. -/
def regionPut (e : Env) (off : Nat) (bytes : List Byte) (m : Mach) (d : Nat) : Option Mach :=
  match deviceTranslate e m d ((dieTables m d).region + off) true with
  | (m1, .ok pa false) => if stackOf pa / 8 = d ∧ winOf pa = 0 then some (hbmWrite e m1 pa bytes false) else none
  | _ => none

/-- R203: into every copy, or into none. -/
def writeCopies (e : Env) (off : Nat) (bytes : List Byte) : List Nat → Mach → Option Mach
  | [], m => some m
  | d :: ds, m => (regionPut e off bytes m d).bind (writeCopies e off bytes ds)

/-- R234: an entry for a descriptor needs the other die's memory. -/
def descAway (e : Env) (d x : Nat) (m : Mach) : Bool :=
  if dKind x = 1 then
    rangeAway e d (dBase x) (dRowCount x * dRowPitch x) m || (dDefaultKind x && rangeAway e d (dDefaultAddr x) (dRowBytes x) m) ||
      (dOverlay x && (otherDie e d (dOverlayPtr x) m ||
        (openOverlay e d (dOverlayPtr x) m).2.any (fun a => storageAway e d (dRowPitch x) a.o m)))
  else if dKind x = 2 then
    rangeAway e d (dBase x) (8 * (dRowCount x + 1)) m || otherDie e d (dNbrBase x) m ||
      (dWgtFmt x != 0 && otherDie e d (dWgtBase x) m)
  else false

/-! ### What makes an entry bad (R176, R178, R200, R215, R228) -/

/-- R200. -/
def versionBad (set : Bool) (old new : Nat) (retained : List Retained) : Bool :=
  set && (!precedes32 old new || (old :: retained.map (fun r => r.version)).any (fun v => decide (2 ^ 30 < diff32 v new)))

/-- R34: what a descriptor names lies within the 52-bit address space. -/
def descReach (x : Nat) : Bool :=
  let inside (a n : Nat) : Bool := n == 0 || decide (a + n ≤ 2 ^ 52)
  (if dKind x = 1 then dRowCount x == 0 || inside (dBase x) ((dRowCount x - 1) * dRowPitch x + dRowBytes x)
    else if dKind x = 2 then inside (dBase x) (8 * (dRowCount x + 1)) else true) &&
    (!dDefaultKind x || inside (dDefaultAddr x) (dRowBytes x)) && (!dOverlay x || inside (dOverlayPtr x) 64)

/-- R34, R176, R178: 3 RESERVED_COUNT, 2 BOUNDS. -/
def descBad (x : Nat) : Option Nat :=
  let rb := dRowBytes x
  let pitch := dRowPitch x
  let adj := dKind x == 2
  if rb = 8191 ∨ pitch = 65535 ∨ dRowCount x = 2 ^ 41 - 1 then some 3
  else if natBits x 15 14 ≠ 0 ∨ natBits x 31 29 ≠ 0 ∨ natBits x 175 169 ≠ 0 ∨ natBits x 319 288 ≠ 0 ∨ natBits x 383 372 ≠ 0 ∨
      natBits x 447 439 ≠ 0 ∨ natBits x 1023 500 ≠ 0 ∨ 2 < dKind x ∨ 2 ^ 40 < dRowCount x ∨ dBase x % 16 ≠ 0 ∨
      dDefaultAddr x % 16 ≠ 0 ∨ (dDefaultKind x = false ∧ dDefaultAddr x ≠ 0) ∨ (dOverlay x = false ∧ dOverlayPtr x ≠ 0) ∨
      6 < dFormat x ∨ 4096 < rb ∨ (dFormat x ≠ 5 ∧ dScale x ≠ 0) ∨ (adj = false ∧ dNbrBase x ≠ 0) ∨ dWgtFmt x = 3 ∨
      ((adj = false ∨ dWgtFmt x = 0) ∧ dWgtBase x ≠ 0) ∨ descReach x = false then some 2
  else if dKind x = 1 then
    if rb = 0 ∨ rb % elemBytes (dFormat x) ≠ 0 ∨ pitch % 16 ≠ 0 ∨ pitch < rb ∨ 65520 < pitch then some 2 else none
  else if dKind x = 2 then
    if dFormat x ≠ 0 ∨ rb ≠ 0 ∨ pitch ≠ 0 ∨ dScale x ≠ 0 then some 2 else none
  else none

/-- R215: every page of a range is mapped for writing as PROTECT. -/
def pagesMapped (e : Env) (d : Nat) (m : Mach) (a n : Nat) : Bool :=
  (List.range ((a % 2 ^ 21 + n - 1) / 2 ^ 21 + 1)).all (fun i =>
    match (deviceTranslate e m d (a / 2 ^ 21 * 2 ^ 21 + i * 2 ^ 21) true).2 with
    | .ok pa false => winOf pa == 0
    | _ => false)

/-- R215, R209: 2 BOUNDS, 5 UNIT_ABSENT. -/
def overlayBad (e : Env) (d pitch : Nat) (o : Overlay) (m : Mach) : Option Nat :=
  let bytes := 2 ^ (o.filterLog2 - 3)
  if o.reserved ∨ o.indexBase % 128 ≠ 0 ∨ o.indexLog2 < 5 ∨ 22 < o.indexLog2 ∨ o.indexLog2 < o.recordsLog2 ∨
      o.recordBase % 16 ≠ 0 ∨ o.recordsLog2 < 4 ∨ 21 < o.recordsLog2 ∨ o.metaBase % 16 ≠ 0 ∨ o.filterLog2 < 15 ∨
      24 < o.filterLog2 ∨ beyondTray o.filter0 bytes ∨ beyondTray o.filter1 bytes then some 2
  else if !e.v.hasCore o.filterCore then some 5
  else if pagesMapped e d m o.indexBase (16 * 2 ^ o.indexLog2) && pagesMapped e d m o.recordBase (pitch * 2 ^ o.recordsLog2) &&
      pagesMapped e d m o.metaBase (16 * 2 ^ o.recordsLog2) then none
  else some 2

/-- R228: 3 RESERVED_COUNT, 2 BOUNDS. -/
def mapBad (h : Nat) : Option Nat :=
  if smShards h = 4095 then some 3
  else if smShards h = 0 ∨ 40 < smShift h ∨ 24 < smBlocksLog2 h ∨ natBits h 39 38 ≠ 0 ∨ natBits h 47 45 ≠ 0 ∨
      natBits h 63 60 ≠ 0 ∨ natBits h 127 116 ≠ 0 ∨ natBits h 511 180 ≠ 0 then some 2
  else none

/-! ### Taking effect (R201, R207, R211, R212, R223, R225, R227, R232, R233) -/

/-- The slot with a new descriptor; the version it had is retained. -/
def supersede (n stroke desc : Nat) (host : Bool) (x : Slot) : Slot :=
  { x with set := true, desc := desc,
           retained := if x.set then x.retained ++ [{ version := dVersion x.desc, entry := n, stroke := stroke, host := host }]
             else x.retained }

/-- The descriptor with another version. -/
def withVersion (desc v : Nat) : Nat := setBits desc 32 32 v

def entryPlace (m : Mach) (n : Nat) : Nat := m.tables.pubBase + 256 * (n % 2 ^ m.tables.pubSize)

/-- R208: RESULT, DISCARDED and PUBLISHED_STROKE. -/
def writeResult (m : Mach) (n result discarded stroke : Nat) : Mach :=
  hostWrite m (entryPlace m n + 24) (leBytes 4 result ++ leBytes 4 discarded ++ leBytes 8 stroke)

def countDiscarded (k : Nat) (m : Mach) : Mach :=
  { m with tables := { m.tables with discarded := m.tables.discarded + BitVec.ofNat 64 k } }

/-- The rows of the overlay of slot `t` whose newest record is open. -/
def openRows (e : Env) (d t : Nat) (m : Mach) : Mach × Option OverlayAt × List Bucket :=
  let x := tableSlot m d t
  if x.used.isEmpty then (m, none, [])
  else
    match openOverlay e d (dOverlayPtr x.desc) m with
    | (m1, none) => (m1, none, [])
    | (m1, some a) =>
      let r := allRows e a m1
      (r.1, some a, r.2.filter (fun b => b.tag == openTagOf x.desc))

/-- R214, R222: the header's OPEN_TAG follows the published version; a new header starts empty. -/
def retag (e : Env) (d desc : Nat) (fresh : Bool) (m : Mach) : Mach :=
  if !dOverlay desc then m
  else
    match openOverlay e d (dOverlayPtr desc) m with
    | (m1, none) => m1
    | (m1, some a) =>
      saveOverlay e a (if fresh then { a.o with openTag := openTagOf desc, rows := 0, used := 0, filterSel := false }
        else { a.o with openTag := openTagOf desc }) m1

/-- The die whose writer serves a descriptor's overlay, as die `d` translates it. -/
def writerDie (e : Env) (d desc : Nat) (m : Mach) : Nat := (homeDie e d (dOverlayPtr desc) m).getD d

/-- A new header that a descriptor names: why it is refused. -/
def newHeaderBad (e : Env) (d desc : Nat) (m : Mach) : Option Nat :=
  match openOverlay e d (dOverlayPtr desc) m with
  | (_, none) => some 2
  | (_, some a) => overlayBad e d (dRowPitch desc) a.o m

/-- An entry's outcome: state, RESULT (none while a compaction runs), records discarded. -/
abbrev PubEnd := Mach × Option Nat × Nat

/-- R210, R223, R227: a DESCRIPTOR entry. -/
def pubDesc (e : Env) (ds : List Nat) (d stroke n t img : Nat) (m : Mach) : PubEnd :=
  let x := tableSlot m d t
  let had := x.set && dOverlay x.desc
  let moved := had && !(dOverlay img && dOverlayPtr img == dOverlayPtr x.desc)
  let fresh := dOverlay img && !(had && dOverlayPtr img == dOverlayPtr x.desc)
  let w := writerDie e d x.desc m
  let busy := had && (tableSlot m w t).compaction.isSome
  match descBad img with
  | some code => (m, some code, 0)
  | none =>
    if descAway e d img m then (m, some 6, 0)
    else
      match (if fresh then newHeaderBad e d img m else none) with
      | some code => (m, some code, 0)
      | none =>
        if busy && moved && dBase img == dBase x.desc then (m, some 7, 0)
        else if versionBad x.set (dVersion x.desc) (dVersion img) x.retained then (m, some 4, 0)
        else
          match writeCopies e (128 * t) (leBytes 128 img) ds m with
          | none => (m, some 2, 0)
          | some m1 =>
            let ends := busy && dBase img != dBase x.desc
            let m2 := if ends then
                (tableSlot m1 w t).compaction.toList.foldl (fun y c => writeResult y c.entry 8 0 0) m1
              else m1
            let gone := if moved then openRows e w t m2 else (m2, none, [])
            let k := gone.2.2.length
            let m3 := ds.foldl (fun y q => modSlot y q t (fun z => supersede n stroke img true z)) (countDiscarded k gone.1)
            let m4 := if ends then modSlot m3 w t (fun z => { z with compaction := none }) else m3
            let m5 := if moved then modSlot m4 w t (fun z => { z with used := [], reclaim := [], compaction := none }) else m4
            (retag e (writerDie e d img m5) img fresh m5, some 0, k)

/-- R201, R223: a FLIP entry. -/
def pubFlip (e : Env) (ds : List Nat) (d stroke n t : Nat) (m : Mach) : PubEnd :=
  let x := tableSlot m d t
  let new := openTagOf x.desc
  if !dOverlay x.desc then (m, some 2, 0)
  else if descAway e d x.desc m then (m, some 6, 0)
  else if versionBad x.set (dVersion x.desc) new x.retained then (m, some 4, 0)
  else
    let img := withVersion x.desc new
    match writeCopies e (128 * t) (leBytes 128 img) ds m with
    | none => (m, some 2, 0)
    | some m1 =>
      let w := writerDie e d img m1
      let m2 := ds.foldl (fun y q => modSlot y q t (supersede n stroke img false)) m1
      let m3 := modSlot m2 w t (fun z => { z with reclaim := z.reclaim ++ [{ entry := n, tag := new, compact := false }] })
      (retag e w img false m3, some 0, 0)

/-- R225, R227: a COMPACT entry; its RESULT is written at stage 4. -/
def pubCompact (e : Env) (d n t : Nat) (late : Bool) (m : Mach) : PubEnd :=
  let x := tableSlot m d t
  let w := writerDie e d x.desc m
  if !dOverlay x.desc then (m, some 2, 0)
  else if descAway e d x.desc m then (m, some 6, 0)
  else if (tableSlot m w t).compaction.isSome then (m, some 7, 0)
  else (modSlot m w t (fun z => { z with compaction := some { entry := n, late := late, cut := 0, stage := 0 } }), none, 0)

/-- R224, R232: the open record of a row that is no longer owned leaves its chain; ROWS stays, since only a compaction lowers it. -/
def discardOpen (e : Env) (a : OverlayAt) (t : Nat) (b : Bucket) (m : Mach) : Mach :=
  match readMeta e a b.head m with
  | (m1, none) => m1
  | (m1, some x) =>
    let older := if x.prev = noRecord then (m1, none) else readMeta e a x.prev m1
    let bytes := match older.2 with
      | some y => leBytes 8 b.row ++ leBytes 4 y.n ++ leBytes 4 y.tag
      | none => leBytes 8 noRow ++ leBytes 8 0
    let m2 := (devPutAll e a.die [(b.place, bytes)] older.1).1
    match openOverlay e a.die a.place m2 with
    | (m3, some a2) => freeRecords e a2 t 0 [x.n] m3
    | (m3, none) => m3

/-- R232: the open records of a slot's rows that header `h` takes from this device. -/
def discardAway (e : Env) (d h t : Nat) (m : Mach) : Mach × Nat :=
  let desc := (tableSlot m d t).desc
  match openRows e d t m with
  | (m1, some a, rows) =>
    let gone := rows.filter (fun b => !(ownsRow e d h desc b.row m1).2)
    (gone.foldl (fun y b => discardOpen e a t b y) m1, gone.length)
  | (m1, none, _) => (m1, 0)

/-- The slots that name shard map `i` and hold overlay records. -/
def slotsOfMap (m : Mach) (d i : Nat) : List Nat :=
  ((dieTables m d).slots.filter (fun p => dOverlay p.2.desc && dShardMap p.2.desc == i && !p.2.used.isEmpty)).map (fun p => p.1)

/-- Blocks as ranges, from block `b` up: those of `n` blocks that `keep` holds for. -/
def keptRanges (map : Nat) (keep : Nat → Bool) : Nat → Nat → Option (Nat × Nat) → List (Nat × Nat × Nat)
  | 0, _, run => (run.map (fun r => (map, r.1, r.2))).toList
  | n + 1, b, run =>
    if keep b then keptRanges map keep n (b + 1) (some ((run.map (fun r => (r.1, r.2 + 1))).getD (b, 1)))
    else (run.map (fun r => (map, r.1, r.2))).toList ++ keptRanges map keep n (b + 1) none

/-- R233: a switch clears the freeze of the blocks it moves away. -/
def thawMoved (e : Env) (d i old new : Nat) (m : Mach) : Mach :=
  let mine (h b : Nat) : Bool := (blockHolder e d h b m).2.any (fun q => q.2 == m.fabric.deviceId)
  let keep (b : Nat) : Bool := !(mine old b && !mine new b)
  let cut (f : Nat × Nat × Nat) : List (Nat × Nat × Nat) :=
    if f.1 ≠ i then [f]
    else
      let top := min (f.2.1 + f.2.2) (2 ^ 24)
      if top ≤ f.2.1 then [f]
      else
        keptRanges i keep (top - f.2.1) f.2.1 none ++
          (if top < f.2.1 + f.2.2 then [(i, top, f.2.1 + f.2.2 - top)] else [])
  setDieTables m d { dieTables m d with frozen := (dieTables m d).frozen.flatMap cut }

/-- R228, R232: a SHARD_MAP entry. -/
def pubMap (e : Env) (ds : List Nat) (d stroke n i h : Nat) (m : Mach) : PubEnd :=
  let x := mapOf m d i
  match mapBad h with
  | some code => (m, some code, 0)
  | none =>
    if otherDie e d (smBlockBase h) m || otherDie e d (smDeviceBase h) m then (m, some 6, 0)
    else if versionBad x.set (smVersion x.header) (smVersion h) x.retained then (m, some 4, 0)
    else
      match writeCopies e (524288 + 64 * i) (leBytes 64 h) ds m with
      | none => (m, some 2, 0)
      | some m1 =>
        let away := ds.foldl (fun y q =>
          (slotsOfMap y.1 q i).foldl (fun z t =>
            let r := discardAway e q h t z.1
            (r.1, z.2 + r.2)) y) (m1, 0)
        let m2 := ds.foldl (fun y q => if x.set then thawMoved e q i x.header h y else y) (countDiscarded away.2 away.1)
        let m3 := ds.foldl (fun y q => setDieTables y q { dieTables y q with
          maps := spMod ShardMap.reset (dieTables y q).maps i (fun z =>
            { set := true, header := h,
              retained := if z.set then z.retained ++ [{ version := smVersion z.header, entry := n, stroke := stroke, host := true }]
                else z.retained }) }) m2
        (m3, some 0, away.2)

/-- R233: the ranges left of `f` without blocks `a` to `a + n - 1` of map `i`. -/
def thawRange (i a n : Nat) (f : Nat × Nat × Nat) : List (Nat × Nat × Nat) :=
  if f.1 ≠ i ∨ ¬ overlaps f.2.1 f.2.2 a n then [f]
  else
    (if f.2.1 < a then [(i, f.2.1, a - f.2.1)] else []) ++
      (if a + n < f.2.1 + f.2.2 then [(i, a + n, f.2.1 + f.2.2 - (a + n))] else [])

/-- R205, R233: FREEZE and THAW entries. -/
def pubFreeze (ds : List Nat) (d i first blocks : Nat) (thaw : Bool) (m : Mach) : PubEnd :=
  let old := (dieTables m d).frozen
  let new := if thaw then old.flatMap (thawRange i first blocks) else old ++ [(i, first, blocks)]
  if blocks = 2 ^ 32 - 1 then (m, some 3, 0)
  else if blocks = 0 ∨ 16 < new.length then (m, some 2, 0)
  else (ds.foldl (fun y q => setDieTables y q { dieTables y q with frozen := new }) m, some 0, 0)

/-- R205, R209: one entry of 256 bytes. -/
def pubEntry (e : Env) (ds : List Nat) (d stroke n : Nat) (b : List Byte) (m : Mach) : PubEnd :=
  let f (lo k : Nat) : Nat := leNat ((b.drop lo).take k)
  let kind := f 0 1
  let late := decide (f 8 8 ≠ 0) && decide (f 8 8 < stroke)
  let freeze := kind == 5 || kind == 6
  if f 1 3 ≠ 0 ∨ f 6 2 ≠ 0 ∨ f 48 16 ≠ 0 ∨ f 192 64 ≠ 0 ∨ 4096 ≤ f 4 2 ∨ kind = 0 ∨ 6 < kind ∨
      (!freeze ∧ f 16 8 ≠ 0) ∨ ((kind ≠ 1 ∧ kind ≠ 3) ∧ f 64 128 ≠ 0) ∨ (kind = 3 ∧ f 128 64 ≠ 0) ∨
      ds.any (fun q => (dieTables m q).region == 0) then (m, some 2, 0)
  else
    let r := if kind = 1 then pubDesc e ds d stroke n (f 4 2) (f 64 128) m
      else if kind = 2 then pubFlip e ds d stroke n (f 4 2) m
      else if kind = 3 then pubMap e ds d stroke n (f 4 2) (f 64 64) m
      else if kind = 4 then pubCompact e d n (f 4 2) late m
      else pubFreeze ds d (f 4 2) (f 16 4) (f 20 4) (kind == 6) m
    (r.1, r.2.1.map (fun c => if c = 0 ∧ late then 1 else c), r.2.2)

/-! ### The ring (R45, R46, R206 to R208) -/

def setPubHead (e : Env) (d h : Nat) (m : Mach) : Mach :=
  (headDies e d).foldl (fun a x => setDieTables a x { dieTables a x with pubHead := h % 2 ^ 32 }) m

/-- R206: the entry takes effect at boundary `stroke` or earlier. -/
def entryDue (m : Mach) (stroke n : Nat) : Bool := decide (memNat m.host.mem (entryPlace m n + 8) 8 ≤ stroke)

/-- Entries in ring order up to `tail`, while `cap` allows; `left` bounds them. -/
def pubLoop (e : Env) (ds : List Nat) (d stroke tail : Nat) : Nat → Nat → Nat → Mach → Mach
  | 0, _, _, m => m
  | left + 1, cap, n, m =>
    if n = tail ∨ cap = 0 ∨ !entryDue m stroke n then m
    else
      match pubEntry e ds d stroke n (hostRead m (entryPlace m n) 256) m with
      | (m1, result, gone) =>
        let taken := result.all (fun c => decide (c ≤ 1))
        let m2 := match result with
          | some c => writeResult m1 n c gone (if c ≤ 1 then stroke else 0)
          | none => m1
        pubLoop e ds d stroke tail left (if taken then cap - 1 else cap) ((n + 1) % 2 ^ 32) (setPubHead e d (n + 1) m2)

/-- R45: entries that were due and wait for the next boundary. -/
def dueLeft (m : Mach) (stroke tail : Nat) : Nat → Nat → Nat
  | 0, _ => 0
  | left + 1, n => if n = tail ∨ !entryDue m stroke n then 0 else 1 + dueLeft m stroke tail left ((n + 1) % 2 ^ 32)

/-! ### Compactions at step 5 (R225) -/

/-- R225 stage 4: what the writer of die `w` publishes for slot `t`. -/
def finishCompact (e : Env) (ds : List Nat) (w stroke t : Nat) (m : Mach) : Mach :=
  let x := tableSlot m w t
  match x.compaction with
  | none => m
  | some c =>
    if c.stage ≠ 3 then m
    else
      let new := openTagOf x.desc
      let img := withVersion x.desc new
      if versionBad x.set (dVersion x.desc) new x.retained then
        writeResult (modSlot m w t (fun z => { z with compaction := none })) c.entry 4 0 0
      else
      match writeCopies e (128 * t) (leBytes 128 img) ds m, openOverlay e w (dOverlayPtr x.desc) m with
      | some m1, (_, some a) =>
        let rows := allRows e a m1
        let old := rows.2.filter (fun b => tagVisible b.tag c.cut)
        let freed := old.foldl (fun y b =>
          let r := chainOf e a b y.1
          ((devPutAll e w [(b.place, leBytes 8 noRow)] r.1).1, y.2 ++ r.2.map (fun q => q.n))) (rows.1, ([] : List Nat))
        let m2 := ds.foldl (fun y q => modSlot y q t (supersede c.entry stroke img false)) freed.1
        let a2 := { a with o := { a.o with openTag := openTagOf img, filterSel := !a.o.filterSel } }
        let m3 := freeRecords e a2 t old.length freed.2 m2
        let m4 := modSlot m3 w t (fun z => { z with
          compaction := none, reclaim := z.reclaim ++ [{ entry := c.entry, tag := c.cut, compact := true }] })
        writeResult m4 c.entry (if c.late then 1 else 0) 0 stroke
      | _, _ => m

/-- R225: the cut of the compactions that this boundary has taken. -/
def setCuts (d : Nat) (m : Mach) : Mach :=
  setDieTables m d { dieTables m d with slots := (dieTables m d).slots.map (fun p =>
    (p.1, { p.2 with compaction := p.2.compaction.map (fun c =>
      if c.stage = 0 then { c with cut := dVersion p.2.desc, stage := 1 } else c) })) }

/-- R42 step 5 of half `h`: the state, and the publications carried over (R45). -/
def publishStep (e : Env) (h stroke : Nat) (finished : Option Nat) (m : Mach) : Mach × Nat :=
  match pubDies e m h with
  | [] => (m, 0)
  | d :: ds =>
    let all := d :: ds
    let m1 := all.foldl (fun y w =>
      ((dieTables y w).slots.map (fun p => p.1)).foldl (fun z t => finishCompact e all w stroke t z) y) m
    if m.tables.pubBase = 0 ∨ m.mgmt.leaderless ∨ !hostReached e m d then (all.foldl (fun y q => setCuts q y) m1, 0)
    else
      let tail := rwRead m d (rwKey 0x0900 0xF3) m.tables.pubTailEarly
      let head := (dieTables m d).pubHead
      let m2 := pubLoop e all d stroke tail (diff32 head tail) (min 256 (finished.getD 256)) head m1
      let n := (dieTables m2 d).pubHead
      (all.foldl (fun y q => setCuts q y) m2, dueLeft m2 stroke tail (diff32 n tail) n)

/-! ### Release (R211) -/

/-- R68, R276: what the commands of a core bind. A persistent stream keeps what it bound between its passes. -/
def boundIn (x : Core) : List Bound :=
  let q (l : List EngCmd) : List Bound := l.flatMap (fun c => c.bound)
  let st (l : List (Nat × Stream)) : List Bound :=
    l.flatMap (fun p => p.2.bound.toList)
  q x.gat ++ q x.scr ++ st x.streams ++ x.ctxs.flatMap (fun p =>
    p.2.saved.toList.flatMap (fun v =>
      q (v.marquetry.toList ++ v.scribe.toList ++ v.withdrawnMarquetry ++ v.withdrawnScribe) ++ st v.streams))

def boundOn (e : Env) (m : Mach) (d : Nat) : List Bound :=
  (m.cores.filter (fun p => !e.k.split || dieOf p.1 == d)).flatMap (fun p => boundIn p.2)

/-- R211: a retained version is released at boundary `stroke`. -/
def releasable (stroke : Nat) (r : Retained) (used : List Nat) : Bool :=
  decide (r.stroke + 2 ≤ stroke) && !used.contains r.version

def releaseOne (stroke : Nat) (m : Mach) (r : Retained) : Mach := if r.host then writeReleased m r.entry stroke else m

def releaseSlot (e : Env) (d stroke : Nat) (bs : List Bound) (m : Mach) (t : Nat) : Mach :=
  let used := (bs.filter (fun b => b.slot == t)).map (fun b => dVersion b.desc)
  let gone := (tableSlot m d t).retained.filter (fun r => releasable stroke r used)
  let m1 := modSlot (gone.foldl (releaseOne stroke) m) d t (fun x =>
    { x with retained := x.retained.filter (fun r => !releasable stroke r used) })
  if dOverlay (tableSlot m1 d t).desc then reclaimSlot e d stroke t m1 else m1

def releaseMap (d stroke : Nat) (bs : List Bound) (m : Mach) (i : Nat) : Mach :=
  let used := (bs.filter (fun b => dShardMap b.desc == i)).map (fun b => natBits b.map 31 0)
  let gone := (mapOf m d i).retained.filter (fun r => releasable stroke r used)
  let m1 := gone.foldl (releaseOne stroke) m
  setDieTables m1 d { dieTables m1 d with maps := spMod ShardMap.reset (dieTables m1 d).maps i (fun x =>
    { x with retained := x.retained.filter (fun r => !releasable stroke r used) }) }

/-- R42 step 9 of half `h`. -/
def releaseStep (e : Env) (h stroke : Nat) (m : Mach) : Mach :=
  (pubDies e m h).foldl (fun y d =>
    let bs := boundOn e y d
    let y1 := ((dieTables y d).slots.map (fun p => p.1)).foldl (releaseSlot e d stroke bs) y
    ((dieTables y1 d).maps.map (fun p => p.1)).foldl (releaseMap d stroke bs) y1) m

/-! ### Ring tails and LRW objects (R204, R206, R221) -/

def pubTailRun (g tail : Nat) (early : Bool) (_ : Env) (m : Mach) : Nat × Mach :=
  let m1 := rwWrite m g (rwKey 0x0900 3) tail (fun y => { y with tables := { y.tables with pubTail := tail } })
  (rOk, if early then
    rwWrite m1 g (rwKey 0x0900 0xF3) tail (fun y => { y with tables := { y.tables with pubTailEarly := tail } })
  else m1)

def updTailRun (g tail : Nat) (_ : Env) (m : Mach) : Nat × Mach :=
  (rOk, rwWrite m g (rwKey 0x0900 9) tail (fun y => { y with tables := { y.tables with updTail := tail } }))

/-- R206: tail writes of the past stroke reach the next boundary in time. -/
def tailsInTime (h : Nat) (m : Mach) : Mach :=
  if apartRegs m = false ∨ h = 0 then { m with tables := { m.tables with pubTailEarly := m.tables.pubTail } }
  else
    modGauge m 1 (fun x =>
      let late := spGet m.tables.pubTail x.rwCopy (rwKey 0x0900 3)
      { x with rwCopy := spSet x.rwCopy (rwKey 0x0900 0xF3) late })

/-- R204: an LRW object of 0x0900 takes effect. -/
def applyTable (m : Mach) (p : Nat × Nat) : Mach :=
  let t := m.tables
  let region (d : Nat) : Mach := setDieTables m d { dieTables m d with region := p.2 }
  if p.1 = 0x0C then region 0
  else if p.1 = 0x0D then region 1
  else if p.1 = 1 then { m with tables := { t with pubBase := p.2 } }
  else if p.1 = 2 then { m with tables := { t with pubSize := p.2 } }
  else if p.1 = 6 then { m with tables := { t with updBase := p.2 } }
  else if p.1 = 7 then { m with tables := { t with updSize := p.2 } }
  else { m with tables := { t with updEntry := p.2 } }

def applyTables (m : Mach) : Mach :=
  m.tables.next.foldl applyTable { m with tables := { m.tables with next := [] } }

/-! ### Load records (R192 to R194) -/

/-- R193: the record of slot `t`. -/
def loadRecord (m : Mach) (cs : List (Nat × Core)) (d stroke t : Nat) : List Byte :=
  let sum (f : LoadCount → Nat) : Nat :=
    if dKind (descOn m d t) = 0 then 0 else (cs.map (fun p => f (spGet LoadCount.reset p.2.loads t))).sum
  leBytes 8 stroke ++ leBytes 8 (sum (fun x => x.lookups)) ++ leBytes 8 (sum (fun x => x.invalid)) ++
    leBytes 8 (sum (fun x => x.hits)) ++ leBytes 8 (sum (fun x => x.lookupsTotal)) ++
    leBytes 8 (sum (fun x => x.invalidTotal)) ++ leBytes 16 0

/-- R192, R297: the counter objects and the watchdog window of half `h` take effect. -/
def applyCounters (h : Nat) (m : Mach) : Mach :=
  if apartRegs m && h == 1 then
    modGauge m 1 (fun x =>
      let c := spSet x.rwCopy (rwKey 0x0600 0xF0) (spGet 0 x.rwCopy (rwKey 0x0600 0x40))
      { x with rwCopy := spSet c (rwKey 0x0600 0xF1) (spGet 0 c (rwKey 0x0600 0x41)) })
  else
    { m with
      tables := { m.tables with counterBlock := spGet m.tables.counterBlock m.tables.counterNext 0x40,
                                counterOn := spGet m.tables.counterOn m.tables.counterNext 0x41, counterNext := [] },
      mgmt := { m.mgmt with watchdog := m.mgmt.watchdogNext.getD m.mgmt.watchdog, watchdogNext := none } }

/-- R194: at boundary `stroke` the records of stroke - 1 are written and the stroke's counts start again. -/
def loadStep (e : Env) (h stroke : Nat) (m : Mach) : Mach :=
  let mine (c : Nat) : Bool := !e.k.split || dieOf c == h
  let cs := m.cores.filter (fun p => mine p.1)
  let block := rwRead m h (rwKey 0x0600 0xF0) m.tables.counterBlock
  let counting := rwRead m h (rwKey 0x0600 0xF1) m.tables.counterOn
  let at_ := block + 262144 * ((stroke - 1) % 4) + (if e.k.split ∧ h = 1 then 2 ^ 20 else 0)
  let d := if e.k.split then h else leadGauge m
  let m1 := if counting = 1 ∧ 0 < stroke then
      (deviceWrite e m d at_ ((List.range 4096).flatMap (loadRecord m cs d (stroke - 1)))).1
    else m
  { m1 with cores := m1.cores.map (fun p =>
      if mine p.1 then (p.1, { p.2 with loads := p.2.loads.map (fun q =>
        (q.1, { q.2 with lookups := 0, invalid := 0, hits := 0 })) }) else p) }

/-! ### Progress (R257 to R259) -/

/-- The key under which a half without contact keeps the zeroing of a job. -/
def zeroKey (job : Nat) : Nat := 2 ^ 25 + job

def totalRun (g job total : Nat) (_ : Env) (m : Mach) : Nat × Mach :=
  if job = 0 ∨ 15 < job then (rBounds, m)
  else if total % 2 ^ 64 = 2 ^ 64 - 1 then (rReservedCount, m)
  else
    (rOk, rwWrite (rwWrite m g (rwKey 0x0800 job) (total % 2 ^ 64) (fun y =>
      { y with mgmt := { y.mgmt with totals := spSet y.mgmt.totals job (BitVec.ofNat 64 total) } }))
      g (zeroKey job) 1 (fun y =>
        { y with mgmt := { y.mgmt with zeroing := job :: y.mgmt.zeroing.filter (fun j => j != job) } }))

/-- R258: jobs whose DONE half `h` zeroes at this boundary. -/
def zeroJobs (m : Mach) (h : Nat) : List Nat :=
  if apartRegs m = false ∨ h = 0 then m.mgmt.zeroing
  else (List.range 16).filter (fun j => spGet 0 m.mgmt.g1.rwCopy (zeroKey j) == 1)

/-- R259: step 1 latches the job counters, die `d` of job `j` under 16d + j. -/
def progressStep (e : Env) (h : Nat) (m : Mach) : Mach :=
  let mine (c : Nat) : Bool := !e.k.split || dieOf c == h
  let zs := zeroJobs m h
  let m1 : Mach := { m with cores := m.cores.map (fun p =>
    if mine p.1 then (p.1, { p.2 with items := p.2.items.filter (fun q => !zs.contains q.1) }) else p) }
  let sum (d j : Nat) : Nat := ((m1.cores.filter (fun (p : Nat × Core) => dieOf p.1 == d)).map (fun p => spGet 0 p.2.items j)).sum
  let dies := ([0, 1] : List Nat).filter (fun d => !e.k.split || d == h)
  let done := dies.foldl (fun y d =>
    (List.range 15).foldl (fun z i => spSet z (16 * d + i + 1) (BitVec.ofNat 64 (sum d (i + 1)))) y) m1.mgmt.done
  let m2 := { m1 with mgmt := { m1.mgmt with done := done } }
  if apartRegs m = false ∨ h = 0 then { m2 with mgmt := { m2.mgmt with zeroing := [] } }
  else modGauge m2 1 (fun x => { x with rwCopy := x.rwCopy.filter (fun p => p.1 < 2 ^ 25) })

/-- R206. -/
def execPublicationTailWrite (via : Via) (tail : Nat) (early : Bool) : State → Host.Outcome State Fault Refusal :=
  liftM (dictM via 0x0900 3 false (pubTailRun (viaGauge via) (tail % 2 ^ 32) early))
/-- R221. -/
def execUpdateTailWrite (via : Via) (tail : Nat) : State → Host.Outcome State Fault Refusal :=
  liftM (dictM via 0x0900 9 false (updTailRun (viaGauge via) (tail % 2 ^ 32)))
/-- R258. -/
def execProgressTotalWrite (via : Via) (job total : Nat) : State → Host.Outcome State Fault Refusal :=
  liftM (dictM via 0x0800 job false (totalRun (viaGauge via) job total))

end Sys2Proof.Machine
end

