-- ==== Sys2Proof/Machine/Admission.lean ====
section
/-! DEFINITION. Step 7 and step 8 of a boundary: stroke plans, power admission, intake snapshots (R48, R52 to R57, R435 to R440,
R490 to R495). -/

namespace Sys2Proof.Machine

/-! ### Stroke plans (R435, R436) -/

/-- R490: a class that no rule rejects. -/
def classOk (x : Nat) : Bool := decide (x < 32) && decide (x % 16 ≤ 10) && (natBit x 4 || x == 0)

/-- R435: one patch of a block. -/
def planPatch (b : List Byte) : PlanPatch :=
  { offset := leNat (b.take 2), bit := leNat ((b.drop 2).take 2), width := leNat ((b.drop 4).take 1),
    form := leNat ((b.drop 5).take 1), arg := leNat ((b.drop 6).take 2) }

def patchOk (length : Nat) (p : PlanPatch) : Bool :=
  decide (p.offset < length) && decide (p.offset ≤ 65534) && decide (64 ≤ p.bit) && decide (p.bit ≤ 511) &&
    decide (1 ≤ p.width) && decide (p.width ≤ 32) && decide (p.bit + p.width ≤ 512) && decide (p.form ≤ 2)

/-- R435: one context block. -/
def planBlock (b : List Byte) : PlanBlock :=
  { ctx := leNat (b.take 1), cx6 := leNat ((b.drop 1).take 1) == 1, skip := natBit (leNat ((b.drop 3).take 1)) 0,
    length := leNat ((b.drop 4).take 4), base := leNat ((b.drop 8).take 8),
    patches := (List.range (leNat ((b.drop 2).take 1))).map (fun p => planPatch ((b.drop (24 + 8 * p)).take 8)) }

/-- R435, R436: a block's own ranges and its context. -/
def blockOk (m : Mach) (c : Nat) (b : List Byte) : Bool :=
  let n (lo k : Nat) : Nat := leNat ((b.drop lo).take k)
  let x := planBlock b
  decide (n 0 1 < 16) && decide (n 2 1 ≤ 10) && decide (n 3 1 ≤ 1) && decide (n 16 8 = 0) && decide (x.length ≠ 0) &&
    decide (x.base % 64 = 0) && decide (x.base < 2 ^ 52) && (n 1 1 == 0 || (n 1 1 == 1 && m.host.compat)) &&
    configured (m.ctx c x.ctx) && (m.ctx c x.ctx).serving && x.patches.all (patchOk x.length)

def distinct : List Nat → Bool
  | [] => true
  | x :: xs => !xs.contains x && distinct xs

/-- R435, R436, R490: the plan of an entry, or the code that refuses it. -/
def parsePlan (m : Mach) (c : Nat) (b : List Byte) : Plan ⊕ Nat :=
  let n (lo k : Nat) : Nat := leNat ((b.drop lo).take k)
  let bs := (List.range (n 13 1)).map (fun i => (b.drop (64 + 112 * i)).take 112)
  if n 8 4 = 2 ^ 32 - 1 then .inr cReservedCount
  else if n 8 4 = 0 ∨ 4 < n 13 1 ∨ n 14 50 ≠ 0 ∨ !classOk (n 12 1) ∨ n 12 1 = 0 ∨ !bs.all (blockOk m c) ∨
      !distinct (bs.map (fun x => (planBlock x).ctx)) then .inr cBounds
  else .inl { entry := 0, left := n 8 4, deferred := 0, cls := n 12 1, blocks := bs.map planBlock }

/-- R436, R442: a plan is retired, with its PLAN record. It names no context (notes/assumptions/26). -/
def retirePlan (e : Env) (c status deferred : Nat) (m : Mach) : Mach :=
  let x := m.core c
  pushCompletion e (m.modCore c (fun y => { y with plan := none, planFaultReported := false, planHead := y.planHead + 1 }))
    x.planComp
    { kind := 3, status := status, ctx := 0, core := c, token := x.planHead.toNat, stroke := strokeAt e.k (dieOf c),
      detail := deferred }

/-- R436: a host-family record that names a core. -/
def planRecord (e : Env) (c code addr flags : Nat) (m : Mach) : Mach :=
  raiseFault m (dieOf c) { mkFault e m (dieOf c) famHost code 0 with core := c, addr := addr, flags := flags }

/-- R436: the read of an entry failed at an address: RING_FAULT, once per entry. -/
def planReadFault (e : Env) (c va : Nat) (m : Mach) : Mach :=
  if (m.core c).planFaultReported then m
  else (planRecord e c 0x15 (va % 2 ^ 52) 2 m).modCore c (fun y => { y with planFaultReported := true })

/-- R48, R436: the core's plan in force for stroke `stroke`, taken from the ring when none is. -/
def selectPlan (e : Env) (stroke : Nat) (m : Mach) (c : Nat) : Mach :=
  let x := m.core c
  if x.plan.isSome ∨ x.planHead = x.planTail ∨ !coreIn e m c then m
  else
    let va := x.planBase + 512 * (x.planHead.toNat % 2 ^ x.planSize)
    match vread e m c va 512 with
    | (m1, .ok b false) =>
      if stroke < leNat (b.take 8) then m1
      else
        match parsePlan m1 c b with
        | .inl p => m1.modCore c (fun y => { y with plan := some { p with entry := x.planHead.toNat }, planFaultReported := false })
        | .inr code => retirePlan e c 1 0 (planRecord e c code 0 0 m1)
    | (m1, .ok _ true) => m1
    | (m1, .fault _ _ a) => planReadFault e c a m1
    | (m1, .aperture a) => planReadFault e c a m1
    | (m1, .absent) => planReadFault e c va m1
    | (m1, .beyond) => planReadFault e c va m1

/-! ### Power admission (R490 to R495) -/

/-- R492: the charges of a class, mW: to the device, and to its region. -/
def classCharge (x : Nat) : Nat := if natBit x 4 then 8800 + 1125 * (x % 16) else 200
def regionCharge (x : Nat) : Nat := if natBit x 4 then 4300 + 1125 * (x % 16) else 200

/-- R493: the fixed charge, mW. -/
def fixedCharge (e : Env) (m : Mach) : Nat := 192000 + 1800 * e.v.links + 1000 * m.power.hostLimit

/-- R494: a core's class with both parts: active if any is, the larger array. -/
def mergeClass (a b : Nat) : Nat := if natBit a 4 || natBit b 4 then 16 + max (a % 16) (b % 16) else 0

/-- R494, R495: twice what the admission of half `h` may charge to its cores, mW. -/
def availTwice (e : Env) (m : Mach) : Nat :=
  let whole := m.power.budget * 920 - fixedCharge e m
  if e.k.split && !m.mgmt.contact then whole else 2 * whole

def totalCharge (cls : Sparse Nat) : Nat := (cls.map (fun p => classCharge p.2)).sum

/-- R494: the class fits the device's budget and its region's limit. -/
def fits (e : Env) (m : Mach) (cls : Sparse Nat) (c want : Nat) : Bool :=
  let new := spSet cls c want
  let region := ((new.filter (fun p => regionOf p.1 == regionOf c)).map (fun p => regionCharge p.2)).sum
  decide (2 * totalCharge new ≤ availTwice e m) && decide (region ≤ 1000 * m.power.regionLimits.getD (regionOf c) 125)

/-- R494: longest deferred first, then ascending core number. -/
def insertPlan (age : Nat → Nat) (c : Nat) : List Nat → List Nat
  | [] => [c]
  | d :: ds => if age d < age c then c :: d :: ds else d :: insertPlan age c ds

def planOrder (age : Nat → Nat) (cs : List Nat) : List Nat := cs.foldl (fun a c => insertPlan age c a) []

/-- R494 step 2: classes, cores granted, cores deferred. -/
def admitPlans (e : Env) (m : Mach) : List Nat → Sparse Nat → Sparse Nat × List Nat × List Nat
  | [], cls => (cls, [], [])
  | c :: cs, cls =>
    let want := mergeClass (spGet 0 cls c) (((m.core c).plan.map (fun p => p.cls)).getD 0)
    if fits e m cls c want then
      let r := admitPlans e m cs (spSet cls c want)
      (r.1, c :: r.2.1, r.2.2)
    else
      let r := admitPlans e m cs cls
      (r.1, r.2.1, c :: r.2.2)

/-- R494 step 3: the largest class up to `a` that fits. -/
def bestBatch (e : Env) (m : Mach) (cls : Sparse Nat) (c : Nat) : Nat → Option Nat
  | 0 => if fits e m cls c (mergeClass (spGet 0 cls c) 16) then some 16 else none
  | a + 1 => if fits e m cls c (mergeClass (spGet 0 cls c) (16 + (a + 1))) then some (16 + (a + 1)) else bestBatch e m cls c a

/-- R494 step 3: classes, and batch classes granted below their request. -/
def admitBatch (e : Env) (m : Mach) : List Nat → Sparse Nat → Sparse Nat × Nat
  | [], cls => (cls, 0)
  | c :: cs, cls =>
    let b := (m.core c).batchClass
    if !natBit b 4 then admitBatch e m cs cls
    else
      match bestBatch e m cls c (b % 16) with
      | some x =>
        let r := admitBatch e m cs (spSet cls c (mergeClass (spGet 0 cls c) x))
        (r.1, r.2 + bit (x != b))
      | none =>
        let r := admitBatch e m cs cls
        (r.1, r.2 + 1)

/-- R52, R494 step 1: FINISH work of an earlier stroke still runs on the core. Work that is ending runs no more. -/
def carriesWork (m : Mach) (c : Nat) : Bool :=
  (List.range 16).any (fun k => (m.ctx c k).workOpen && (m.ctx c k).late && (m.ctx c k).ending.isNone)

/-- The cores of half `h` that are in service. -/
def halfCores (e : Env) (m : Mach) (h : Nat) : List Nat :=
  (m.cores.map (fun p => p.1)).filter (fun c => coreIn e m c && halfOf e.k (dieOf c) == h)

/-- R493, R508: the charged input draw in 0.1 W. The example of R500 drops less than half a unit; what becomes of half a unit or more
is left open (notes/assumptions/2). -/
def chargedInput (e : Env) (m : Mach) (cls : Sparse Nat) : Nat :=
  let f := fixedCharge e m
  let mw := totalCharge cls + (if e.k.split && !m.mgmt.contact then f / 2 else f)
  mw / 92 + (if 2 * (mw % 92) < 92 then 0 else freeNow m % 2)

/-- R436, R494: a granted plan uses up one of its strokes. -/
def grantPlan (e : Env) (m : Mach) (c : Nat) : Mach :=
  match (m.core c).plan with
  | none => m
  | some p =>
    let m1 := m.modCore c (fun y => { y with deferAge := 0, plan := some { p with left := p.left - 1 } })
    if p.left ≤ 1 then retirePlan e c 0 p.deferred m1 else m1

def deferPlan (m : Mach) (c : Nat) : Mach :=
  m.modCore c (fun y =>
    { y with deferAge := y.deferAge + 1, plan := y.plan.map (fun p => { p with deferred := p.deferred + 1 }) })

/-- R482, R495: gauge 0 admits both halves of a split device as one. -/
def admitsBoth (e : Env) (m : Mach) : Bool := e.k.split && m.mgmt.contact

/-- R494: the procedure over the cores `cs`, for stroke `s`; `park` when the device enters park (R504). The charged draw is that of the
halves in `halves`. -/
def admitOver (e : Env) (cs halves : List Nat) (s : Nat) (park : Bool) (m : Mach) : Mach × Admitted :=
  let m0 := if park then m else cs.foldl (fun a c => selectPlan e s a c) m
  let idle : Sparse Nat := cs.foldl (fun a c => spSet a c 0) []
  let carried := cs.foldl (fun a c => if carriesWork m0 c then spSet a c (m0.core c).admitted else a) idle
  let order := planOrder (fun c => (m0.core c).deferAge) (if park then [] else cs.filter (fun c => (m0.core c).plan.isSome))
  let p := admitPlans e m0 order carried
  let b := if park then (p.1, 0) else admitBatch e m0 cs p.1
  let blocks := p.2.1.map (fun c => (c, ((m0.core c).plan.map (fun q => q.blocks)).getD []))
  let m1 := p.2.2.foldl deferPlan (p.2.1.foldl (grantPlan e) m0)
  let draw := chargedInput e m0 b.1
  let m2 : Mach := { freeStep m1 with power := { m1.power with
    batchReduced := m1.power.batchReduced + BitVec.ofNat 64 b.2,
    charged := if halves.contains 0 then draw else m1.power.charged,
    charged1 := if halves.contains 1 then draw else m1.power.charged1 } }
  (m2, { granted := blocks, deferred := p.2.2, classes := b.1 })

/-- The part of an admission that concerns half `h`. -/
def Admitted.ofHalf (k : Strokes) (h : Nat) (a : Admitted) : Admitted :=
  { granted := a.granted.filter (fun p => halfOf k (dieOf p.1) == h),
    deferred := a.deferred.filter (fun c => halfOf k (dieOf c) == h),
    classes := a.classes.filter (fun p => halfOf k (dieOf p.1) == h) }

/-- R494: the decided classes of half `h`; a core that is not in service is charged nothing. -/
def decideClasses (e : Env) (h : Nat) (a : Admitted) (m : Mach) : Mach :=
  { m with cores := m.cores.map (fun q =>
      if halfOf e.k (dieOf q.1) = h then (q.1, { q.2 with decided := spGet 0 a.classes q.1 }) else q) }

/-- R482, R494, R495: admission at step 7 of half `h`. Where one gauge admits both halves, it does so for the stroke's first boundary of
the two, and the other half finds its part decided. -/
def admitCores (e : Env) (h : Nat) (park : Bool) (m : Mach) : Mach × Admitted :=
  let s := if h = 1 then e.k.counter1 else e.k.counter
  let put (j : Option (Nat × Nat × Admitted)) (y : Mach) : Mach := { y with power := { y.power with joint := j } }
  if !admitsBoth e m then
    let r := admitOver e (halfCores e m h) (if e.k.split then [h] else [0, 1]) s park m
    (decideClasses e h r.2 (put none r.1), r.2)
  else
    match m.power.joint.filter (fun j => j.1 == h && j.2.1 == s) with
    | some j => (decideClasses e h j.2.2 (put none m), j.2.2)
    | none =>
      let r := admitOver e (halfCores e m 0 ++ halfCores e m 1) [0, 1] s park m
      let mine := r.2.ofHalf e.k h
      (decideClasses e h mine (put (some (1 - h, s, r.2.ofHalf e.k (1 - h))) r.1), mine)

/-! ### Intake snapshots (R53 to R57, R440) -/

/-- R54 to R56: how many of the requests present a snapshot takes. -/
def takeCount (d : IntakeDesc) (ages : List Nat) : Nat :=
  let n := min ages.length d.cap
  if !d.fill || ages.any (fun a => decide (d.ageLimit ≤ a)) then n
  else n / min 128 d.cap * min 128 d.cap

/-- R440: a snapshot of ring `i` for the block of context `k` of core `c`. -/
def snapshotRing (stroke c k i : Nat) (b : PlanBlock) (m : Mach) : Mach :=
  let x := m.intake i
  let n := takeCount x.desc x.ages
  let first := (x.head.toNat + (x.copies.map (fun y => y.ages.length)).sum) % 2 ^ 32
  let m1 := m.modIntake i (fun y =>
    { y with ages := (y.ages.drop n).map (fun a => a + 1),
             copies := y.copies ++ [{ core := c, ctx := k, stroke := stroke, first := first, ages := x.ages.take n,
                                      leftOver := decide (n < x.ages.length), ended := 0, late := false }] })
  m1.modCtx c k (fun y =>
    { y with coming := y.coming ++ [{ stroke := stroke, ring := i, requests := [], block := b, ready := false, late := false }] })

/-- R308, R309, R436: one block of a granted plan. An IDLE context waits with cause PLAN for step 10. -/
def snapshotBlock (e : Env) (stroke c : Nat) (m : Mach) (b : PlanBlock) : Mach :=
  let x := m.ctx c b.ctx
  if !configured x || !x.serving then m
  else
    let m1 := if (m.intake x.ring).desc.enable then snapshotRing stroke c b.ctx x.ring b m
      else
        m.modCtx c b.ctx (fun y =>
          { y with coming := y.coming ++
              [{ stroke := stroke, ring := x.ring, requests := [], block := b, ready := true, late := false }] })
    if x.state = .idle then setState e m1 c b.ctx .waiting .plan 0 else m1

/-- R52: the requests of a deferred core's rings go on ageing. -/
def ageRings (m : Mach) (c : Nat) : Mach :=
  (List.range 16).foldl (fun a k =>
    let x := a.ctx c k
    if configured x && x.serving && (a.intake x.ring).desc.enable then
      a.modIntake x.ring (fun y => { y with ages := y.ages.map (fun q => q + 1) })
    else a) m

/-- R42 step 8. -/
def snapshotStep (e : Env) (stroke : Nat) (a : Admitted) (m : Mach) : Mach :=
  let m1 := a.granted.foldl (fun y p => p.2.foldl (snapshotBlock e stroke p.1) y) m
  a.deferred.foldl ageRings m1

end Sys2Proof.Machine
end

