-- ==== Sys2Proof/Machine/Boundary.lean ====
section
/-! DEFINITION. The boundary and its window: the stroke clock, alignment, the ten steps of R42, park entry, the rejoin of two
halves (R36 to R67, R293, R294, R379, R469, R483, R500, R504). -/

namespace Sys2Proof.Machine

/-! ### The stroke clock (R36 to R40, R58 to R67) -/

/-- The counter of half `h`. -/
def counterOf (k : Strokes) (h : Nat) : Nat := if k.split && h == 1 then k.counter1 else k.counter

def inWindowOf (k : Strokes) (h : Nat) : Bool := if k.split && h == 1 then k.inWindow1 else k.inWindow

def setWindow (k : Strokes) (h : Nat) (on : Bool) : Strokes :=
  if k.split && h == 1 then { k with inWindow1 := on } else { k with inWindow := on }

/-- The period in ns. -/
def periodNs (k : Strokes) : Nat := k.period * 1000

/-- R67: the number that the followed source has for a boundary at `ns`. -/
def sourceNumber (k : Strokes) (ns : Nat) : Option Nat :=
  match k.source with
  | some x => x.marker.map (fun q => q.2.1 + (ns - x.ns + periodNs k / 2) / periodNs k)
  | none => none

/-- R37, R67: the number of the boundary at `ns`. -/
def nextNumber (k : Strokes) (h ns : Nat) : Nat :=
  let own := counterOf k h + 1
  if k.adopt then max own ((sourceNumber k ns).getD own) else own

/-- The clock follows a source. -/
def follows (a : AlignCtl) : Bool := a.mode == 2 || a.mode == 3

/-- R66: more than half a period has passed since a source boundary was due. -/
def sourceMissing (k : Strokes) (ns : Nat) : Bool :=
  match k.source with
  | some x => decide (3 * periodNs k ≤ 2 * (ns - x.ns))
  | none => true

/-- 0x0A00.09: the phase error of a boundary at `ns` against the source, positive when this device is late. -/
def phaseError (k : Strokes) (ns src : Nat) : Int :=
  let d := (ns : Int) - (src : Int)
  if 2 * d ≤ (periodNs k : Int) then d else d - (periodNs k : Int)

/-- R63: what the next stroke is longer by. While ACQUIRING it is lengthened only, by at most 1 % of the period in whole gauge
cycles of 5 ns; while LOCKED it is changed by at most 50 ns. -/
def stretchFor (k : Strokes) (state : Nat) (err : Int) : Int :=
  let p : Int := (periodNs k : Int)
  if state = 1 then
    let needed := if err ≤ 0 then -err else if err ≤ 100 then 0 else p - err
    min needed (p / 100 / 5 * 5)
  else if state = 2 then max (-50) (min 50 (-err))
  else 0

/-- R59, R63, R65, R66: what the boundary at `ns` shows of the source. -/
def followSource (ns : Nat) (k : Strokes) : Strokes :=
  if !follows k.align then { k with stretch := 0 }
  else if sourceMissing k ns then { k with missing := k.missing + 1, good := 0, stretch := 0 }
  else
    match k.source with
    | none => k
    | some x =>
      let err := phaseError k ns x.ns
      let state := if k.alignState = 3 then 1 else k.alignState
      let off (p : Nat) : Bool := decide (periodNs k < 1000 * (p - periodNs k) ∨ periodNs k < 1000 * (periodNs k - p))
      { k with missing := 0, phaseErr := err, alignState := state,
               good := if -100 ≤ err ∧ err ≤ 100 then k.good + 1 else 0,
               periodMismatch := (x.period.map off).getD k.periodMismatch, stretch := stretchFor k state err }

/-- R58: a written alignment control word takes effect; a change of MODE starts anew. -/
def applyAlign (k : Strokes) : Strokes :=
  match k.alignNext with
  | none => k
  | some a =>
    if a.mode = k.align.mode then { k with align := a, alignNext := none }
    else
      { k with align := a, alignNext := none, alignState := if follows a then 1 else 0, good := 0, missing := 0, source := none,
               hops := 0, adopt := false, periodMismatch := false, stretch := 0 }

/-- R39, R40: an armed period whose stroke has begun, and the other written values, take effect. -/
def applyClock (k : Strokes) (s : Nat) : Strokes :=
  let k1 := match k.armed with
    | some (p, n) => if n ≤ s then { k with period := p, armed := none } else k
    | none => k
  applyAlign { k1 with window := k1.windowNext.getD k1.window, windowNext := none }

/-- R37, R42 step 1: the clock at the boundary that half `h` runs at `ns`. `lead` when the lead gauge issues it, `full` when its
window runs. A half whose clock is not the lead's only counts. -/
def tick (k : Strokes) (h ns : Nat) (lead full : Bool) : Strokes :=
  if !lead then
    let n := if k.locked then max (counterOf k h + 1) (counterOf k (1 - h)) else counterOf k h + 1
    let k1 := if h = 1 then { k with counter1 := n, timestamp1 := ns } else { k with counter := n, timestamp := ns }
    setWindow k1 h full
  else
    let s := nextNumber k h ns
    let k1 := applyClock (followSource ns k) s
    let k2 := if k1.split && h == 1 then { k1 with counter1 := s, timestamp1 := ns } else { k1 with counter := s, timestamp := ns }
    setWindow { k2 with adopt := false } h full

/-- R60, R550: the pulse and the markers that leave at T0. -/
def sendTicks (k : Strokes) (m : Mach) (h : Nat) : Mach :=
  let s := counterOf k h
  let m1 := if k.align.driveOut then { m with out := { m.out with pulses := m.out.pulses ++ [s] } } else m
  let hops : Option Nat := if k.align.mode = 3 then
      (match k.source with
       | some x => x.marker.map (fun q => q.2.2 + 1)
       | none => none)
    else some 1
  match k.align.markersOut, hops with
  | true, some n =>
    ((List.range 96).filter (fun l => (m1.link l).state == 2 && (!k.split || dieOfLink l == h))).foldl (fun a l =>
      pushFrame a { link := l, head := { origin := a.fabric.deviceId, dest := (a.link l).peer, hops := 1 }, channel := 2,
                    payload := .marker s n }) m1
  | _, _ => m1

/-! ### Step 1: what is latched, marked and taken over at T0 -/

/-- The cores of half `h`, in ascending order. -/
def coresOf (k : Strokes) (m : Mach) (h : Nat) : List Nat :=
  (m.cores.map (fun p => p.1)).filter (fun c => halfOf k (dieOf c) == h)

/-- Change every core of half `h`. -/
def mapHalf (k : Strokes) (h : Nat) (f : Nat → Core → Core) (m : Mach) : Mach :=
  { m with cores := m.cores.map (fun p => if halfOf k (dieOf p.1) = h then (p.1, f p.1 p.2) else p) }

/-- R43: every rail latches its counts. -/
def latchRails (x : Core) : Core :=
  { x with rails := x.rails.map (fun p =>
      (p.1, { p.2 with latProduced := p.2.produced, latConsumed := p.2.consumed, latOccupancy := p.2.entries.length })) }

/-- R302, R469: the prefetch and stall counters of core `c` are latched, the latter with the cycles of the last stroke. -/
def latchCounters (stalls : List (Nat × Nat × Nat)) (c : Nat) (x : Core) : Core :=
  let gain (s : Nat) : Nat := ((stalls.filter (fun q => q.1 == c && q.2.1 == s)).map (fun q => q.2.2)).sum
  let subs := (List.range 48).map (fun i => i + 1)
  let stalls' := subs.foldl (fun (t : Sparse (BitVec 32 × BitVec 32)) s =>
    let v := (spGet (0, 0) t s).1 + BitVec.ofNat 32 (gain s)
    if v = 0 ∧ !spHas t s then t else spSet t s (v, v)) x.stalls
  { x with prefetch := x.prefetch.map (fun p => (p.1, { p.2 with latched := p.2.run })), stalls := stalls' }

/-- R51: the late marking of one context: its open work and the works still to start, each once. The requests of a copy that
still runs count when they are known. -/
def markLate (s c k : Nat) (q : Mach × Nat) : Mach × Nat :=
  let x := q.1.ctx c k
  let ring (m : Mach) (i n : Nat) : Mach :=
    if n = 0 then m else m.modIntake i (fun y => { y with late := y.late + BitVec.ofNat 64 n })
  let q1 : Mach × Nat := if x.workOpen && !x.late && decide (x.workStroke < s) then
      (ring (q.1.modCtx c k (fun y => { y with late := true })) x.workRing x.requests.length, q.2 + 1)
    else q
  let fresh := x.coming.filter (fun w => !w.late && decide (w.stroke < s))
  if fresh.isEmpty then q1
  else
    let m1 := q1.1.modCtx c k (fun y => { y with coming := y.coming.map (fun w => { w with late := w.late || decide (w.stroke < s) }) })
    let m2 := fresh.foldl (fun a w =>
      if w.ready then ring a w.ring w.requests.length
      else a.modIntake w.ring (fun y => { y with copies := y.copies.map (fun z =>
        if z.core = c ∧ z.ctx = k ∧ z.stroke = w.stroke then { z with late := true } else z) })) m1
    (m2, q1.2 + fresh.length)

/-- R51: late marking of every serving context of the half, and how many works became late. -/
def markAll (s : Nat) (cs : List Nat) (m : Mach) : Mach × Nat :=
  cs.foldl (fun q c => (List.range 16).foldl (fun a k => markLate s c k a) q) (m, 0)

/-- The records that are written once per stroke may be written again (R406, R409, R423, R430, R443). -/
def newStrokeFlags (h : Nat) (split : Bool) (m : Mach) : Mach :=
  let clear (x : Endpoint) : Endpoint := { x with saidHalf := false, saidRange := false, saidAbsent := false }
  { m with
    host := { m.host with ep0 := if split && h == 1 then m.host.ep0 else clear m.host.ep0,
                          ep1 := if split && h == 0 then m.host.ep1 else clear m.host.ep1,
                          comps := m.host.comps.map (fun p => (p.1, { p.2 with saidLost := false })) },
    fabric := { m.fabric with unreachable := if split then m.fabric.unreachable.filter (fun p => p.2 != h) else [],
                              origins := m.fabric.origins.map (fun p => (p.1, { p.2 with refused := 0, lost := false })) } }

/-- R397, R408, R411, R479, R562: written values that take effect at T0 of half `h`, where the lead is. Routing entries are written in
the lead's half. -/
def applyWritten (k : Strokes) (h : Nat) (m : Mach) : Mach :=
  let f := m.fabric
  let put (old : Sparse Route) : Sparse Route := f.routesNext.foldl (fun a p => spSet a p.1 p.2) old
  let second := k.split && h == 1
  applyTables { m with
    fabric := { f with exportBase := f.exportNext.getD f.exportBase, exportNext := none,
                       beatPeriod := f.beatNext.getD f.beatPeriod, beatNext := none,
                       routes := if second then f.routes else put f.routes,
                       routes1 := if second then put f.routes1 else f.routes1, routesNext := [] },
    mgmt := { m.mgmt with handoverDue := m.mgmt.handover } }

/-- R439, R562: the rings of half `h` whose ENABLE was cleared; those without a consuming core belong to either half. -/
def disableRings (k : Strokes) (h : Nat) (m : Mach) : Mach :=
  { m with host := { m.host with intakes := m.host.intakes.map (fun p =>
      if p.2.disabling && (consumerOf m p.1).all (fun q => halfOf k (dieOf q.1) == h) then
        (p.1, { p.2 with disabling := false, desc := { p.2.desc with enable := false } })
      else p) } }

/-- R356: bits of a tray word flip: one is correctable, more are not. -/
def flipBits (m : Mach) (p : Nat × Nat × Nat) : Mach :=
  let n := min 2 (spGet 0 (m.core p.1).trayErr p.2.1 + p.2.2)
  if !(m.core p.1).up || decide (trayBytes ≤ 8 * p.2.1) || n = 0 then m
  else m.modCore p.1 (fun x => { x with trayErr := spSet x.trayErr p.2.1 n })

/-- R500: the overcurrent guards of half `h` that this boundary's step 10 ends. -/
def endGuards (k : Strokes) (h : Nat) (m : Mach) : Mach :=
  let p := m.power
  { m with power := { p with guardEnds0 := if halfOf k 0 = h then p.guard0 else p.guardEnds0,
                             guardEnds1 := if halfOf k 1 = h then p.guard1 else p.guardEnds1 } }

/-- R42 step 1 but for the clock, with the number of works that became late. -/
def stepOne (e : Env) (h s : Nat) (lead : Bool) (obs : BoundaryObs) (m : Mach) : Mach × Nat :=
  let m1 := mapHalf e.k h (fun c x => latchCounters obs.stalls c (latchRails x)) m
  let m2 := progressStep e h (loadStep e h s (applyCounters h m1))
  let r := markAll s (coresOf e.k m h) (newStrokeFlags h e.k.split m2)
  let m3 := endGuards e.k h (disableRings e.k h (obs.trayFlips.foldl flipBits r.1))
  (if lead then applyWritten e.k h m3 else m3, r.2)

/-! ### Steps 3, 4 and 6 -/

/-- R52: late work on a DROP ring is cancelled, and so is late work to come. -/
def dropLate (e : Env) (cs : List Nat) (m : Mach) : Mach :=
  cs.foldl (fun q c => (List.range 16).foldl (fun a k =>
    let x := a.ctx c k
    let drops (i : Nat) : Bool := i != 0 && (a.intake i).desc.drop
    if x.late && x.workOpen && drops x.workRing && x.state != .faulted && x.state != .free then endWork e a c k .drop
    else if x.coming.any (fun w => w.late && drops w.ring) then endComing e a c k true
    else a) q) m

/-- R44, R294: rail `x` passes its check. -/
def railBalanced (serving late : Bool) (x : Rail) : Bool :=
  if serving && !late then x.latProduced == x.latConsumed
  else x.latProduced == x.latConsumed + BitVec.ofNat 32 x.latOccupancy

/-- R294: the context carries late work. -/
def hasLate (x : Ctx) : Bool := (x.workOpen && x.late) || x.coming.any (fun w => w.late)

/-- R44, R293: the check of the latched counts of core `c`, and their rebasing. `before` is the core as step 1 left it. -/
def squareCore (e : Env) (before : Core) (c : Nat) (m : Mach) : Mach :=
  let bad := before.rails.filter (fun p =>
    p.2.consumer.any (fun k => !railBalanced (before.ctx k).serving (hasLate (before.ctx k)) p.2))
  let m1 := bad.foldl (fun a p => failCtx e a c (p.2.consumer.getD 0) famClamp 0x10) m
  m1.modCore c (fun x => { x with rails := x.rails.map (fun p =>
    (p.1, { p.2 with produced := p.2.produced - p.2.latConsumed, consumed := p.2.consumed - p.2.latConsumed })) })

def squaring (e : Env) (cs : List Nat) (before m : Mach) : Mach :=
  settle e (cs.foldl (fun a c => squareCore e (before.core c) c a) m)

/-- R42 step 6, R70, R300, R351, R361, R363. -/
def invalidate (e : Env) (parity : List (Nat × Nat)) (cs : List Nat) (m : Mach) : Mach :=
  cs.foldl (fun a c =>
    let a1 := ((a.core c).streams.map (fun p => p.1)).foldl (fun b s => discardStaged e c s b) a
    let a2 := (parity.filter (fun q => q.1 == c)).foldl (fun b q => parityFails e b c q.2) a1
    (flushDrawer e a2 c).modCore c (fun x => { x with tlb1 := [], tlb2 := [] })) m

/-- R562: written page-table roots take effect at step 6. -/
def applyRoots (m : Mach) : Mach :=
  { m with hbm := { m.hbm with root0 := m.hbm.rootNext0.getD m.hbm.root0, rootNext0 := none,
                               root1 := m.hbm.rootNext1.getD m.hbm.root1, rootNext1 := none } }

/-! ### Step 7 -/

/-- R379: the temperature of a stack has stayed at least 3 °C below the threshold of its level since the previous boundary. With no
reading since then the last one stands. -/
def stayedCool (m : Mach) (x : Stack) : Bool :=
  (x.peak.orElse (fun _ => x.temp)).any (fun t => decide (t + 48 ≤ 16 * ((levelAt m x.level : Nat) : Int)))

/-- R379: the stacks of half `h` that stayed cool fall one level; a stack leaves level 5 only by an unfence. -/
def coolStacks (k : Strokes) (h : Nat) (m : Mach) : Mach :=
  ((List.range 16).filter (fun s => halfOf k (s / 8) == h)).foldl (fun a s =>
    a.modStack s (fun x =>
      { x with peak := none, level := if 1 ≤ x.level ∧ x.level ≤ 4 ∧ stayedCool m x then x.level - 1 else x.level })) m

/-- R500: the ends of die-hot guards are decided. -/
def coolDies (cooled : List Nat) (m : Mach) : Mach :=
  { m with power := { m.power with hotEnds0 := m.power.hot0 && cooled.contains 0, hotEnds1 := m.power.hot1 && cooled.contains 1 } }

/-- R490, R508: written values that take effect at step 7. -/
def applyPower (m : Mach) : Mach :=
  let p := m.power
  { m with power := { p with
      budget := p.budgetNext.getD p.budget, budgetNext := none,
      hostLimit := p.hostLimitNext.getD p.hostLimit, hostLimitNext := none,
      regionLimits := p.regionLimitsNext.foldl (fun a q => a.set q.1 q.2) p.regionLimits, regionLimitsNext := [] } }

def applyBatch (x : Core) : Core := { x with batchClass := x.batchNext.getD x.batchClass, batchNext := none }

/-- R504: the boundary at which a requested park is entered. -/
def parkNow (m : Mach) : Bool := m.power.parkReq.isSome && !(m.cores.any (fun p => carriesWork m p.1))

/-! ### Park entry (R504, R505) -/

/-- A core after park: what the dictionary shows of it stays. -/
def parkedCore (x : Core) : Core :=
  { Core.reset with batchClass := x.batchClass, batchNext := x.batchNext, loads := x.loads, items := x.items,
                    prefetch := x.prefetch, stalls := x.stalls, streamGen := x.streamGen }

/-- R504: batch contexts are cancelled, what remains is reset, and the cores, links, UCIe modules and HBM stop. -/
def enterPark (e : Env) (m : Mach) : Mach :=
  let removal := m.power.parkReq.getD false
  let m0 := readTable e m
  let m1 := abortAll e 3 m0 ((liveSlots m0).filter (fun i => (m0.coll i).state != 3))
  let cs := m1.cores.map (fun p => p.1)
  let live (a : Mach) (c : Nat) : List Nat := (List.range 16).filter (fun k =>
    !(a.ctx c k).serving && (a.ctx c k).state != .free && (a.ctx c k).state != .idle)
  let m2 := settle e (cs.foldl (fun a c => (live a c).foldl (fun b k => endWork e b c k .cancel) a) m1)
  let m3 := settle e (cs.foldl (fun a c =>
    ((List.range 16).filter (fun k => (a.ctx c k).state != .free)).foldl (fun b k => endWork e b c k .reset) a) m2)
  let m4 := cs.foldl (fun a c => flushDrawer e a c) m3
  let down (x : Endpoint) : Endpoint := 
    { x with trained := false, attach := 0, refusalOffset := 0, refusalCode := 0, resultCount := 0, resultCode := 0, resultObject := 0 }
  stopLinks { m4 with
    cores := m4.cores.map (fun p => (p.1, parkedCore p.2)),
    signals := [],
    hbm := { m4.hbm with selfRefresh := true },
    host := { m4.host with ep0 := down m4.host.ep0, ep1 := down m4.host.ep1, intakes := [], comps := [] },
    power := { m4.power with parkReq := none, state := if removal then 6 else 4, dieTemp0 := none, dieTemp1 := none,
                             guard0 := false, guard1 := false, guardEnds0 := false, guardEnds1 := false, joint := none,
                             hot0 := false, hot1 := false, hotEnds0 := false, hotEnds1 := false } }

/-! ### The rejoin (R451, R483) -/

/-- The value the device holds of an RW register. -/
def sharedReg (m : Mach) (key : Nat) : Nat :=
  if key = rwKey 0x0900 3 then m.tables.pubTail
  else if key = rwKey 0x0900 0xF3 then m.tables.pubTailEarly
  else if key = rwKey 0x0900 9 then m.tables.updTail
  else if key = rwKey 0x0600 0x40 then spGet m.tables.counterBlock m.tables.counterNext 0x40
  else if key = rwKey 0x0600 0x41 then spGet m.tables.counterOn m.tables.counterNext 0x41
  else if key = rwKey 0x0600 0xF0 then m.tables.counterBlock
  else if key = rwKey 0x0600 0xF1 then m.tables.counterOn
  else if key = rwKey 0x0700 0x20 then m.mgmt.watchdogNext.getD m.mgmt.watchdog
  else if key = rwKey 0x0700 1 then m.faults.ring0.base
  else if key = rwKey 0x0700 2 then m.faults.ring1.base
  else if key = rwKey 0x0700 3 then m.faults.sizeLog2
  else if key = rwKey 0x0700 4 then m.faults.ring0.head.toNat
  else if key = rwKey 0x0700 5 then m.faults.ring1.head.toNat
  else if key = rwKey 0x0700 0x10 then m.faults.ring0.clear.toNat
  else if key = rwKey 0x0700 0x11 then m.faults.ring1.clear.toNat
  else if key = rwKey 0x0500 0x50 then m.hbm.retrainLimit
  else if key = rwKey 0x0F00 0x10 then m.mgmt.blockSel
  else if key / 256 = 0x0800 then (spGet 0 m.mgmt.totals (key % 256)).toNat
  else 0

def setSharedReg (m : Mach) (key v : Nat) : Mach :=
  if key = rwKey 0x0900 3 then { m with tables := { m.tables with pubTail := v } }
  else if key = rwKey 0x0900 0xF3 then { m with tables := { m.tables with pubTailEarly := v } }
  else if key = rwKey 0x0900 9 then { m with tables := { m.tables with updTail := v } }
  else if key = rwKey 0x0600 0x40 then { m with tables := { m.tables with counterNext := spSet m.tables.counterNext 0x40 v } }
  else if key = rwKey 0x0600 0x41 then { m with tables := { m.tables with counterNext := spSet m.tables.counterNext 0x41 v } }
  else if key = rwKey 0x0600 0xF0 then { m with tables := { m.tables with counterBlock := v } }
  else if key = rwKey 0x0600 0xF1 then { m with tables := { m.tables with counterOn := v } }
  else if key = rwKey 0x0700 0x20 then { m with mgmt := { m.mgmt with watchdogNext := some v } }
  else if key = rwKey 0x0700 1 then setFaultRing m 0 { m.faults.ring0 with base := v }
  else if key = rwKey 0x0700 2 then setFaultRing m 1 { m.faults.ring1 with base := v }
  else if key = rwKey 0x0700 3 then { m with faults := { m.faults with sizeLog2 := v } }
  else if key = rwKey 0x0700 4 then setFaultRing m 0 { m.faults.ring0 with head := BitVec.ofNat 32 v }
  else if key = rwKey 0x0700 5 then setFaultRing m 1 { m.faults.ring1 with head := BitVec.ofNat 32 v }
  else if key = rwKey 0x0700 0x10 then setFaultRing m 0 { m.faults.ring0 with clear := BitVec.ofNat 32 v }
  else if key = rwKey 0x0700 0x11 then setFaultRing m 1 { m.faults.ring1 with clear := BitVec.ofNat 32 v }
  else if key = rwKey 0x0500 0x50 then { m with hbm := { m.hbm with retrainLimit := v } }
  else if key = rwKey 0x0F00 0x10 then { m with mgmt := { m.mgmt with blockSel := v } }
  else if key / 256 = 0x0800 then { m with mgmt := { m.mgmt with totals := spSet m.mgmt.totals (key % 256) (BitVec.ofNat 64 v) } }
  else m

/-- The RW registers of which each half keeps a copy without contact. -/
def rwKeys : List Nat :=
  [rwKey 0x0500 0x50, rwKey 0x0600 0x40, rwKey 0x0600 0x41, rwKey 0x0700 1, rwKey 0x0700 2, rwKey 0x0700 3, rwKey 0x0700 4,
   rwKey 0x0700 5, rwKey 0x0700 0x10, rwKey 0x0700 0x11, rwKey 0x0700 0x20, rwKey 0x0900 3, rwKey 0x0900 9, rwKey 0x0F00 0x10] ++
    (List.range 15).map (fun i => rwKey 0x0800 (i + 1))

/-- R451: at loss of contact gauge 1 keeps a copy of every RW register, with what the objects that act at a boundary are now. One
whose own copies still stand keeps those. -/
def takeCopies (m : Mach) : Mach :=
  if apartRegs m then m
  else
    let keys := rwKeys ++ [rwKey 0x0900 0xF3, rwKey 0x0600 0xF0, rwKey 0x0600 0xF1]
    modGauge m 1 (fun x => { x with rwCopy := keys.foldl (fun a q => spSet a q (sharedReg m q)) [] })

/-- R451: the lead's copies stand; the registers whose copies differed are counted. -/
def joinCopies (m : Mach) : Mach :=
  let old := m.mgmt.g1.rwCopy
  let differ := rwKeys.filter (fun q => spHas old q && spGet 0 old q != sharedReg m q)
  let m1 := if leadGauge m = 1 then old.foldl (fun a p => setSharedReg a p.1 p.2) m else m
  let a := m.mgmt.g0
  let b := m.mgmt.g1
  let own := bit (a.nonce != b.nonce) + bit (a.domTarget != b.domTarget) + bit (a.domBuffer != b.domBuffer) +
    bit (a.domLength != b.domLength)
  let m2 := { m1 with mgmt := { m1.mgmt with rwDiffering := differ.length + own, contact := true } }
  let n := gaugeOf m2 (leadGauge m)
  modGauge (modGauge m2 0 (ownRegs n)) 1 (fun x => { ownRegs n x with rwCopy := [] })

/-- R540: die half `d` returns to service at the rejoin. -/
def dieReturns (e : Env) (m : Mach) (d : Nat) : Mach :=
  let m1 := { m with fences := { m.fences with dies := m.fences.dies &&& ~~~(BitVec.twoPow 8 d) } }
  let cs := ((List.range 32).map (fun i => 32 * d + i)).filter (fun c => e.v.hasCore c && !coreFenced m1 c)
  let ls := (List.range 96).filter (fun n => dieOfLink n == d)
  let owed := m1.fences.owed.filter (fun r => r / 4 == d)
  let m2 := owed.foldl (fun a r => zeroStack (zeroStack a (2 * r)) (2 * r + 1))
    { m1 with fences := { m1.fences with owed := m1.fences.owed.filter (fun r => r / 4 != d) } }
  let m3 := ls.foldl (fun a n => startTraining e a n) (cs.foldl coreComesUp m2)
  unfencedRecord e m3 d d 4

/-- R483: the halves may join at this boundary of half `h`. -/
def joins (k : Strokes) (m : Mach) (h : Nat) (aligned : Bool) : Bool :=
  m.mgmt.rejoining && m.mgmt.pathUp && aligned && (gaugeOf m (leadGauge m)).lead && (!k.split || h == leadGauge m) &&
    !inWindowOf k (1 - h) && !tablesDiffer m

/-- R483 steps 3 and 4: the counters join to the higher one before the boundary counts. -/
def rejoin (v : Variant) (k : Strokes) (m : Mach) : Strokes × Mach :=
  let top := max k.counter k.counter1
  let added := if k.split then top - min k.counter k.counter1 else 0
  let k1 := { k with counter := if k.split then top else k.counter, split := false, locked := false, secondClock := false,
                     inWindow1 := false }
  let ready (x : Endpoint) : Endpoint := if x.attach = 4 then { x with attach := 3 } else x
  let m1 := joinCopies { m with
    mgmt := { m.mgmt with rejoining := false, rejoins := m.mgmt.rejoins + 1, strokesAdded := BitVec.ofNat 64 added },
    fabric := { m.fabric with routes := if k.split && leadGauge m == 1 then m.fabric.routes1 else m.fabric.routes, routes1 := [] },
    power := { m.power with joint := none },
    host := { m.host with ep0 := ready m.host.ep0, ep1 := ready m.host.ep1 } }
  (k1, (m.fences.returning.filter (fun d => dieFenced m d)).foldl (dieReturns { v := v, k := k1 })
    { m1 with fences := { m1.fences with returning := [] } })

/-! ### The boundary -/

/-- R38, R489: the window's steps run: the cores are up, and the input holds. -/
def windowRuns (m : Mach) : Bool := (m.power.state == 2 || m.power.state == 3) && !m.power.onHoldup && !m.power.stopped

/-- R475, R476: the gauge that issues the boundaries of half `h`. -/
def issuerOf (k : Strokes) (m : Mach) (h : Nat) : Nat := if k.split then h else leadGauge m

/-- R475: no core of half `h` has seen a higher EPOCH than a lead's boundary of that half carries. -/
def epochOk (k : Strokes) (m : Mach) (h : Nat) : Bool :=
  let x := gaugeOf m (issuerOf k m h)
  !x.lead || ((halfOf k 0 != h || decide (m.mgmt.seen0 ≤ x.epochSeen)) && (halfOf k 1 != h || decide (m.mgmt.seen1 ≤ x.epochSeen)))

/-- R475: the cores of half `h` have seen the EPOCH of a lead's boundary. -/
def noteEpoch (k : Strokes) (h : Nat) (m : Mach) : Mach :=
  let x := gaugeOf m (issuerOf k m h)
  if !x.lead then m
  else
    { m with mgmt := { m.mgmt with seen0 := if halfOf k 0 = h then x.epochSeen else m.mgmt.seen0,
                                   seen1 := if halfOf k 1 = h then x.epochSeen else m.mgmt.seen1 } }

/-- R508: the input as it was over the last stroke. -/
def noteInput (obs : BoundaryObs) (m : Mach) : Mach :=
  { m with power := { m.power with measured := obs.inputPower, inputMv := obs.inputMv, inputCurrent := obs.inputCurrent } }

/-- A boundary of half `h` can be issued: strokes run, the half's window is closed, its gauge works, and its cores heed it (R46, R475,
R476, R482). -/
def mayTick (k : Strokes) (m : Mach) (h : Nat) : Bool :=
  let works (x : Gauge) : Bool := x.alive && x.recovery == 0
  k.running && !inWindowOf k h && epochOk k m h && (if k.split then decide (h < 2) && works (gaugeOf m h) && !dieFenced m h
    else (m.mgmt.g0.lead && works m.mgmt.g0) || (m.mgmt.g1.lead && works m.mgmt.g1))

/-- R483 step 1: a boundary repeats the comparison of a rejoin that waits, and writes the record of a difference it finds. -/
def compareTables (e : Env) (m : Mach) : Mach := if m.mgmt.rejoining && m.mgmt.pathUp then startRejoin e m else m

/-- The steps of R42 on the machine: works that became late, publications carried over, plans deferred, whether park was entered,
and the machine. -/
def runSteps (e : Env) (h : Nat) (lead : Bool) (obs : BoundaryObs) (m : Mach) : (Nat × Nat × Nat × Bool) × Mach :=
  let s := counterOf e.k h
  let cs := (coresOf e.k m h).filter (fun c => coreIn e m c)
  let r1 := stepOne e h s lead obs m
  let m3 := settle e (dropLate e cs r1.1)
  let m4 := squaring e cs r1.1 m3
  let r5 := if m.mgmt.leaderless then (m4, 0) else publishStep e h s obs.published m4
  let m6 := settle e (invalidate e obs.parity cs (tailsInTime h r5.1))
  let m6 := if lead then applyRoots m6 else m6
  let m7 := mapHalf e.k h (fun _ x => applyBatch x) (coolDies obs.cooledDies (withBeats e (coolStacks e.k h) m6))
  let m7 := if lead then settle e (fenceStep e (applyPower m7)) else m7
  let park := (lead || m.mgmt.leaderless) && parkNow m7
  let r7 := admitCores e h park m7
  if park then ((r1.2, r5.2, 0, true), enterPark e (releaseStep e h s r7.1))
  else
    let m8 := if lead || m.mgmt.leaderless then readTable e r7.1 else r7.1
    let m9 := obs.tails.foldl (fun a p => intakeTailM p.1 p.2.1 p.2.2 e a) m8
    ((r1.2, r5.2, r7.2.deferred.length, false), finish e (releaseStep e h s (snapshotStep e s r7.2 m9)))

/-- R42: a boundary. In park, in wake and on hold-up energy only the clock runs (R38, R489). -/
def boundaryM (obs : BoundaryObs) (v : Variant) (k0 : Strokes) (m0 : Mach) : Strokes × Mach :=
  let h0 := if k0.split then obs.half else 0
  if !mayTick k0 m0 h0 then (k0, m0)
  else
    let full := windowRuns m0
    let j := if full && joins k0 m0 h0 obs.aligned then rejoin v k0 m0 else (k0, m0)
    let h := if j.1.split then h0 else 0
    let lead := !j.1.split || (gaugeOf j.2 h).lead
    let k1 := tick j.1 h obs.ns lead full
    let m1 := noteInput obs (noteEpoch j.1 h j.2)
    if !full then (k1, m1)
    else
      let e : Env := { v := v, k := k1 }
      let r := runSteps e h lead obs (if lead then compareTables e (sendTicks k1 m1 h) else m1)
      let k2 := { k1 with overruns := k1.overruns + BitVec.ofNat 64 r.1.1, carried := k1.carried + BitVec.ofNat 64 r.1.2.1,
                          deferred := k1.deferred + BitVec.ofNat 64 r.1.2.2.1 }
      (if r.1.2.2.2 then { k2 with inWindow := false, inWindow1 := false } else k2, r.2)

/-! ### The end of the window -/

/-- R308, R326: a context of core `c` whose wait with cause BOUNDARY ends with this window. A serving context that has yielded
takes its next plan instead; one that yielded inside this window waits for the next. -/
def boundaryMet (s : Nat) (x : Ctx) : Bool :=
  x.cause == .boundary && !x.yielded && (x.waitCmd.isSome || x.since != s)

/-- R308, R436: a serving context that has completed its work and has none to start waits for a plan. -/
def awaitsPlan (x : Ctx) : Bool :=
  x.serving && x.state == .waiting && x.cause == .boundary && x.yielded && !x.workOpen && x.coming.isEmpty

/-- R542: the device cancels a serving context that faulted before this boundary. -/
def recovers (s : Nat) (x : Ctx) : Bool := x.serving && x.state == .faulted && x.ending.isNone && x.stamp != s % 65536

/-- R42 step 10 on the contexts of core `c`. -/
def windowEndCore (e : Env) (s c : Nat) (m : Mach) : Mach :=
  let ks := List.range 16
  let m1 := (ks.filter (fun k => recovers s (m.ctx c k))).foldl (fun a k => endWork e a c k .recover) m
  let m2 := wakeAll e c ((waitersOf m1 c .boundary).filter (fun k => boundaryMet s (m1.ctx c k))) m1
  (ks.filter (fun k => awaitsPlan (m2.ctx c k))).foldl (fun a k => setState e a c k .waiting .plan 0) m2

/-- R47, R500: the decided classes and the ends of the guards take effect. -/
def applyDecided (k : Strokes) (h : Nat) (m : Mach) : Mach :=
  let m1 := mapHalf k h (fun _ x => { x with admitted := x.decided }) m
  let p := m1.power
  let die (d : Nat) : Bool := halfOf k d == h
  { m1 with power := { p with
      hot0 := p.hot0 && !(p.hotEnds0 && die 0), hotEnds0 := p.hotEnds0 && !die 0,
      hot1 := p.hot1 && !(p.hotEnds1 && die 1), hotEnds1 := p.hotEnds1 && !die 1,
      guard0 := p.guard0 && !(p.guardEnds0 && die 0), guardEnds0 := p.guardEnds0 && !die 0,
      guard1 := p.guard1 && !(p.guardEnds1 && die 1), guardEnds1 := p.guardEnds1 && !die 1 } }

/-- R479: at step 10 the lead hands the lead to the other gauge, which takes the wedge with a new EPOCH. -/
def handOver (s : Nat) (m : Mach) : Mach :=
  let g := leadGauge m
  if !(m.mgmt.handover && m.mgmt.handoverDue) then m
  else if !(m.mgmt.contact && (gaugeOf m (1 - g)).alive && (gaugeOf m g).lead) then
    { m with mgmt := { m.mgmt with handover := false, handoverDue := false } }
  else
    let m1 := modGauge (modGauge m g (fun x => { x with lead := false })) (1 - g)
      (fun x => { x with lead := true, restarted := false, epochSeen := m.mgmt.epoch + 1 })
    { m1 with mgmt := { m1.mgmt with handover := false, handoverDue := false, holder := some (1 - g), epoch := m1.mgmt.epoch + 1, leaseRunning := true,
                                     takeStroke := s, takes := m1.mgmt.takes + 1 } }

/-- R42 step 10: the window of half `h` ends. -/
def endWindow (half : Nat) (extended : Bool) (before : Env → Nat → Mach → Mach) (v : Variant) (k : Strokes) (m : Mach) :
    Strokes × Mach :=
  let h := if k.split then half else 0
  if !(decide (h < 2) && inWindowOf k h) then (k, m)
  else
    let k1 := setWindow { k with extended := k.extended + BitVec.ofNat 64 (bit extended) } h false
    let e : Env := { v := v, k := k1 }
    let s := counterOf k1 h
    let lead := !k1.split || (gaugeOf m h).lead
    let cs := (coresOf k1 m h).filter (fun c => coreIn e m c)
    let m1 := applyDecided k1 h (before e h m)
    let m2 := settle e (cs.foldl (fun a c => windowEndCore e s c a) m1)
    let m3 := if lead || m.mgmt.leaderless then startSignals m2 else m2
    (k1, finish e (if lead then handOver s m3 else m3))

/-- R46: the record of a window that reached the extension limit. -/
def extendedRecord (e : Env) (h : Nat) (m : Mach) : Mach :=
  let d := if e.k.split then h else leadGauge m
  raiseFault m d (mkFault e m d famManagement 0x11 0)

/-! ### Writes of the period and the window (R39, R40) -/

/-- R40: some pairing of a period and a window that can be in effect together breaks the bound. -/
def pairingBad (periods windows : List Nat) : Bool := periods.any (fun p => windows.any (fun w => decide (p ≤ 2 * w)))

/-- R39, R40: the write of 0x0A00.02 arms a change. -/
def periodRun (us : Nat) : DictRun := fun _ k m =>
  if us < 10 ∨ 65535 < us then (rBounds, k, m)
  else if pairingBad [k.period, us] (k.window :: k.windowNext.toList) then (rBounds, k, m)
  else
    let s := counterOf k (leadGauge m)
    let at_ := if k.target ≤ s then s + 1 else k.target
    (rOk, { k with pendingPeriod := us, armed := some (us, at_) }, m)

/-- R40: the write of 0x0A00.04. -/
def windowRun (us : Nat) : DictRun := fun _ k m =>
  if us < 4 ∨ 32 < us then (rBounds, k, m)
  else if pairingBad (k.period :: (k.armed.map (fun a => a.1)).toList) [us, k.window] then (rBounds, k, m)
  else (rOk, { k with windowNext := some us }, m)

/-! ### What a follower receives (R60, R61, R63, R66, R67, R550) -/

/-- R60, R550: the follower's clock listens: it is powered and in neither park nor hold-up. -/
def listens (k : Strokes) (m : Mach) (mode : Nat) : Bool := k.align.mode == mode && k.running && m.power.alwaysOn && windowRuns m

/-- The source boundary at `ns`, with the time per stroke since the one known before. -/
def noteSource (k : Strokes) (ns : Nat) (marker : Option (Nat × Nat × Nat)) : Source :=
  { ns := ns, marker := marker,
    period := k.source.map (fun x => (ns - x.ns) / max 1 ((ns - x.ns + periodNs k / 2) / periodNs k)) }

/-- R61, R550: a rising edge of STROKE_IN. -/
def strokeInM (ns width : Nat) (k : Strokes) (m : Mach) : Strokes :=
  let close := k.lastEdge.any (fun t => decide (ns < t + 5000))
  if !listens k m 2 || decide (width < 50) || close then k
  else { k with lastEdge := some ns, source := some (noteSource k (ns - k.inDelay) none), hops := 0 }

/-- R60: `a` is followed rather than `b`: fewer hops, then the lower link. Both are (link, number, hops). -/
def markerWins (a b : Nat × Nat × Nat) : Bool := decide (a.2.2 < b.2.2) || (a.2.2 == b.2.2 && decide (a.1 ≤ b.1))

/-- R60, R61: a stroke marker arrives on a link. -/
def markerM (n number hops ns : Nat) (v : Variant) (k : Strokes) (m : Mach) : Strokes :=
  let t := ns - (m.link n).latency
  if !listens k m 3 || !v.hasLink n || (m.link n).state != 2 || hops == 0 || decide (16 < hops) then k
  else
    let new := (n, number, hops)
    match k.source with
    | none => { k with source := some { ns := t, marker := some new, period := none }, hops := hops }
    | some x =>
      if 2 * (t - x.ns) ≥ periodNs k then { k with source := some (noteSource k t (some new)), hops := hops }
      else if x.marker.all (fun old => markerWins new old) then
        { k with source := some { ns := t, marker := some new, period := x.period }, hops := hops }
      else k

/-- R63, R65, R67: the follower locks. -/
def lockM (k : Strokes) (m : Mach) : Strokes :=
  let own := counterOf k (leadGauge m)
  if !(follows k.align && k.alignState == 1 && decide (8 ≤ k.good) && !k.periodMismatch) then k
  else
    let locked := { k with alignState := 2, numberAhead := false, numberBehind := false, numberOffset := 0, adopt := false }
    match sourceNumber k (if k.split && leadGauge m == 1 then k.timestamp1 else k.timestamp) with
    | none => locked
    | some n =>
      if k.align.adoptNumber ∧ own ≤ n then { locked with adopt := true }
      else if n < own then { locked with numberAhead := true, numberOffset := BitVec.ofNat 64 (own - n) }
      else if own < n then { locked with numberBehind := true, numberOffset := BitVec.ofNat 64 (n - own) }
      else locked

/-- R66: the source is lost. -/
def lossM (k : Strokes) : Strokes :=
  if follows k.align && decide (k.align.lossCount ≤ k.missing) && (k.alignState == 1 || k.alignState == 2) then
    { k with alignState := 3, good := 0, adopt := false, stretch := 0 }
  else k

/-! ### The commands -/

/-- R42. -/
def execBoundary (obs : BoundaryObs) : State → Host.Outcome State Fault Refusal := liftK (boundaryM obs)
/-- R42 step 10, R46. -/
def execWindowEnd (half : Nat) (extended : Bool) : State → Host.Outcome State Fault Refusal :=
  liftK (endWindow half extended (fun _ _ m => m))
/-- R46. -/
def execWindowExtended (half : Nat) : State → Host.Outcome State Fault Refusal := liftK (endWindow half true extendedRecord)
/-- R39. -/
def execPendingPeriodWrite (via : Via) (us : Nat) : State → Host.Outcome State Fault Refusal :=
  liftK (dictWrite via 0x0A00 2 true (periodRun us))
/-- R40. -/
def execWindowLengthWrite (via : Via) (us : Nat) : State → Host.Outcome State Fault Refusal :=
  liftK (dictWrite via 0x0A00 4 true (windowRun us))
/-- R550. -/
def execStrokeInEdge (ns width : Nat) : State → Host.Outcome State Fault Refusal :=
  liftK (fun _ k m => (strokeInM ns width k m, m))
/-- R63, R67. -/
def execAlignmentLock : State → Host.Outcome State Fault Refusal := liftK (fun _ k m => (lockM k m, m))
/-- R66. -/
def execSourceLoss : State → Host.Outcome State Fault Refusal := liftK (fun _ k m => (lossM k, m))
/-- R60. -/
def execMarker (n number hops ns : Nat) : State → Host.Outcome State Fault Refusal :=
  liftK (fun v k m => (markerM n number hops ns v k m, m))

end Sys2Proof.Machine
end

