-- ==== Sys2Proof/Machine/Gauges.lean ====
section
/-! DEFINITION. The wedge, leadership, contact between the gauges, and the failures of gauges and paths (R472 to R486). -/

namespace Sys2Proof.Machine

/-! ### The wedge (R472 to R475, R481) -/

/-- R19: gauge `g` works and reaches the wedge, which lies in die 0's always-on domain. -/
def reachesWedge (m : Mach) (g : Nat) : Bool :=
  decide (g < 2) && m.power.alwaysOn && m.mgmt.die0Power && (gaugeOf m g).alive && (g == 0 || m.mgmt.linkUp || m.mgmt.pathUp)

/-- R472, R473: a renew by the holder. -/
def renewM (g : Nat) (confirmed : Bool) (_ : Env) (m : Mach) : Mach :=
  if confirmed && reachesWedge m g && m.mgmt.holder == some g && !(gaugeOf m g).restarted then
    modGauge { m with mgmt := { m.mgmt with leaseRunning := true } } g (fun x => { x with lead := true, epochSeen := m.mgmt.epoch })
  else m

/-- R472: REMAINING reaches 0. The holder stopped acting as lead before (R473). -/
def leaseExpiryM (_ : Env) (m : Mach) : Mach :=
  if !m.mgmt.leaseRunning then m
  else
    let m1 := match m.mgmt.holder with
      | some g => modGauge m g (fun x => { x with lead := false })
      | none => m
    { m1 with mgmt := { m1.mgmt with holder := none, leaseRunning := false } }

/-- R473: the gauge stops acting as lead, and may not renew any more. -/
def lapseM (g : Nat) (_ : Env) (m : Mach) : Mach :=
  if m.mgmt.holder == some g then modGauge m g (fun x => { x with lead := false, restarted := true }) else m

/-- R451: one gauge serves the device alone. -/
def serveAlone (m : Mach) : Mach := if apartRegs m then joinCopies m else { m with mgmt := { m.mgmt with contact := true } }

/-- R474, R482, R484: gauge `g` takes the wedge. When the other gauge does not work, the lead reaches its die over the
die-to-die path or fences it; halves that can join begin to. -/
def takeWedge (e : Env) (m : Mach) (g : Nat) : Mach :=
  let first := m.mgmt.epoch == 0
  let m1 := modGauge { m with mgmt := { m.mgmt with
      holder := some g, epoch := m.mgmt.epoch + 1, takes := m.mgmt.takes + 1, takeStroke := strokeAt e.k g, leaseRunning := true } }
    g (fun x => { x with lead := true, restarted := false, epochSeen := m.mgmt.epoch + 1 })
  let m2 := if first then m1 else raiseFault m1 g (mkFault e m1 g famManagement 0x14 0)
  let other := (gaugeOf m2 (1 - g)).alive
  if !other && !m2.mgmt.pathUp then serveAlone (fenceDie e m2 (1 - g) 1)
  else if e.k.split && m2.mgmt.pathUp && (m2.mgmt.contact || !other) && !dieFenced m2 (1 - g) then startRejoin e m2
  else m2

/-- R474: a second gauge reads the wedge and takes it when HOLDER is none. At boot gauge 1 waits (R474). -/
def pollM (g : Nat) (e : Env) (m : Mach) : Mach :=
  if !reachesWedge m g || (gaugeOf m g).lead then m
  else
    let m1 := modGauge m g (fun x => { x with epochSeen := m.mgmt.epoch })
    if m.mgmt.holder.isNone ∧ (g = 0 ∨ 0 < m.mgmt.epoch) then finish e (takeWedge e m1 g) else m1

/-- R474: 100 ms after its start gauge 1 asks when HOLDER is still none. -/
def askDelayM (e : Env) (m : Mach) : Mach :=
  if reachesWedge m 1 && m.mgmt.holder.isNone then finish e (takeWedge e m 1) else m

/-- R479: the write of the preferred lead. -/
def handoverRun (g : Nat) (_ : Env) (m : Mach) : Nat × Mach :=
  if 1 < g then (rBounds, m)
  else if (gaugeOf m g).lead then (rOk, { m with mgmt := { m.mgmt with preferred := g, handover := false } })
  else if !(m.mgmt.contact && (gaugeOf m g).alive) then (rUnreachable, m)
  else (rOk, { m with mgmt := { m.mgmt with preferred := g, handover := true } })

/-- R480, R481: a gauge restarts from boot ROM as second gauge; what it kept in its own memory is gone. -/
def watchdogM (g : Nat) (_ : Env) (m : Mach) : Mach :=
  if !m.power.alwaysOn || decide (2 ≤ g) || !(if g = 0 then m.mgmt.die0Power else m.mgmt.die1Power) then m
  else
    let m1 := modGauge m g (fun x =>
      { Gauge.reset with alive := true, restarted := m.mgmt.holder == some g, busOff := x.busOff, recovery := x.recovery, rwCopy := x.rwCopy })
    modGauge m1 g (fun x =>
      let y := { x with epochSeen := if reachesWedge m1 g then m.mgmt.epoch else 0 }
      if m.mgmt.contact && (gaugeOf m (1 - g)).alive then ownRegs (gaugeOf m (1 - g)) y else y)

/-! ### Two halves (R423, R427, R476, R482) -/

/-- R476, R482: die 1's half counts on its own from here. -/
def splitClock (k : Strokes) (locked : Bool) : Strokes :=
  if k.split then { k with locked := locked, secondClock := !locked }
  else
    { k with split := true, locked := locked, secondClock := !locked, counter1 := k.counter, timestamp1 := k.timestamp,
             inWindow1 := k.inWindow }

/-- R427: an endpoint that is READY reads HALF while the device is split. -/
def halfEndpoints (m : Mach) : Mach :=
  let half (x : Endpoint) : Endpoint := if x.attach = 3 then { x with attach := 4 } else x
  { m with host := { m.host with ep0 := half m.host.ep0, ep1 := half m.host.ep1 } }

/-- R482: the device runs as two halves; HALVES_SPLIT is written when it begins to. -/
def splitDevice (v : Variant) (k : Strokes) (locked : Bool) (m : Mach) : Strokes × Mach :=
  let k1 := splitClock k locked
  let m1 := halfEndpoints { m with
    mgmt := { m.mgmt with rejoining := false }, power := { m.power with joint := none },
    fabric := if k.split then m.fabric else { m.fabric with routes1 := m.fabric.routes } }
  (k1, if k.split then m1 else raiseLead m1 (mkFault { v := v, k := k1 } m1 (spokesGauge m1) famManagement 0x13 0))

/-- R451, R476: the gauges lose contact. -/
def loseContact (v : Variant) (k : Strokes) (m : Mach) : Strokes × Mach :=
  splitDevice v k false (if m.mgmt.contact then takeCopies { m with mgmt := { m.mgmt with contact := false } } else m)

/-- R482, R484: what becomes of the device when gauge `g` works no more. -/
def afterStop (v : Variant) (k : Strokes) (m : Mach) (g : Nat) : Strokes × Mach :=
  let e : Env := { v := v, k := k }
  if !(gaugeOf m (1 - g)).alive then (k, m)
  else if (gaugeOf m (1 - g)).lead then
    if m.mgmt.pathUp || dieFenced m g then (k, m) else (k, finish e (serveAlone (fenceDie e m g 1)))
  else loseContact v k m

def stopGauge (m : Mach) (g : Nat) : Mach := modGauge m g (fun x => { x with alive := false, lead := false })

/-- R482: a die whose always-on domain is unpowered is lost. -/
def loseDie (e : Env) (m : Mach) (d : Nat) : Mach :=
  let m1 := (upCores m (32 * d) 32).foldl (fun a c => stopCore e a c) m
  let ls := (List.range 96).filter (fun n => dieOfLink n == d && (m1.link n).state != 0)
  let m2 := ls.foldl (fun a n => leaveUp e a n 0) m1
  modEndpoint m2 d (fun x => { x with trained := false, attach := 0 })

/-- R538: both always-on domains fail. -/
def bothDark (e : Env) (m : Mach) : Mach :=
  if m.mgmt.die0Power || m.mgmt.die1Power then m
  else stopDevice (raiseLead m (mkFault e m (spokesGauge m) famManagement 0x18 5))

/-- R482: the always-on domain of die `g` has lost its power, with die 0 the wedge. -/
def unpowered (v : Variant) (k : Strokes) (m : Mach) (g : Nat) : Strokes × Mach :=
  let e : Env := { v := v, k := k }
  let m1 := stopGauge { m with mgmt := { m.mgmt with pathUp := false, linkUp := false } } g
  if g = 0 then
    let m2 := modGauge { m1 with mgmt := { m1.mgmt with die0Power := false, holder := none, leaseRunning := false } } 1
      (fun x => { x with lead := false })
    if !m2.mgmt.die1Power then (k, finish e (bothDark e (loseDie e m2 0)))
    else
      let r := loseContact v k m2
      let e1 : Env := { v := v, k := r.1 }
      let m3 := { r.2 with mgmt := { r.2.mgmt with leaderless := true } }
      (r.1, finish e1 (loseDie e1 (raiseFault m3 1 (mkFault e1 m3 1 famManagement 0x16 0)) 0))
  else
    let m2 := { m1 with mgmt := { m1.mgmt with die1Power := false } }
    if !m2.mgmt.g0.alive then (k, finish e (bothDark e (loseDie e m2 1))) else afterStop v k m2 1

/-- R476: gauge `g` does not respond. -/
def contactLossM (g : Nat) (cause : LossCause) (v : Variant) (k : Strokes) (m : Mach) : Strokes × Mach :=
  if !m.power.alwaysOn || decide (2 ≤ g) then (k, m)
  else
    match cause with
    | .paths =>
      if m.mgmt.contact && m.mgmt.g0.alive && m.mgmt.g1.alive then
        loseContact v k { m with mgmt := { m.mgmt with linkUp := false, pathUp := false } }
      else (k, m)
    | .stopped => if (gaugeOf m g).alive then afterStop v k (stopGauge m g) g else (k, m)
    | .unpowered => if (if g = 0 then m.mgmt.die0Power else m.mgmt.die1Power) then unpowered v k m g else (k, m)

/-- R483: the gauges have contact again over a working die-to-die path. -/
def regainedM (link : Bool) (e : Env) (m : Mach) : Mach :=
  if m.mgmt.leaderless || !m.mgmt.die0Power || !m.mgmt.die1Power || !m.power.alwaysOn ||
      (m.mgmt.contact && m.mgmt.pathUp && m.mgmt.g0.alive && m.mgmt.g1.alive) then m
  else
    let on (x : Gauge) : Gauge := { x with alive := true }
    let m1 := { m with mgmt := { m.mgmt with contact := true, pathUp := true, linkUp := m.mgmt.linkUp || link,
                                             g0 := on m.mgmt.g0, g1 := on m.mgmt.g1 } }
    if e.k.split && (m1.mgmt.g0.lead || m1.mgmt.g1.lead) && !dieFenced m1 0 && !dieFenced m1 1 then startRejoin e m1 else m1

/-- R482: the die-to-die data path is lost. With the gauge link up, gauge 1's half is locked to gauge 0's phase and number. -/
def pathDownM (v : Variant) (k : Strokes) (m : Mach) : Strokes × Mach :=
  let e : Env := { v := v, k := k }
  let m1 := { m with mgmt := { m.mgmt with pathUp := false } }
  let both := m.mgmt.g0.alive && m.mgmt.g1.alive
  if !m.mgmt.pathUp || !m.power.alwaysOn then (k, m)
  else if both && m.mgmt.linkUp && m.mgmt.contact then splitDevice v k true m1
  else if both then loseContact v k m1
  else if m.mgmt.g0.lead then (k, finish e (serveAlone (fenceDie e m1 1 1)))
  else if m.mgmt.g1.lead then (k, finish e (serveAlone (fenceDie e m1 0 1)))
  else (k, m1)

/-- R482: the gauge link is lost. -/
def linkDownM (v : Variant) (k : Strokes) (m : Mach) : Strokes × Mach :=
  let m1 := { m with mgmt := { m.mgmt with linkUp := false } }
  if !m.mgmt.linkUp || !m.power.alwaysOn then (k, m)
  else if m.mgmt.pathUp then (k, raiseLead m1 (mkFault { v := v, k := k } m1 (spokesGauge m1) famManagement 0x12 0))
  else if m.mgmt.g0.alive && m.mgmt.g1.alive then loseContact v k m1
  else (k, m1)

/-! ### The commands -/

/-- R472. -/
def execWedgeRenew (g : Nat) (confirmed : Bool) : State → Host.Outcome State Fault Refusal := liftM (renewM g confirmed)
/-- R472. -/
def execWedgeLeaseExpiry : State → Host.Outcome State Fault Refusal := liftM leaseExpiryM
/-- R473. -/
def execLeadLapse (g : Nat) : State → Host.Outcome State Fault Refusal := liftM (lapseM g)
/-- R474. -/
def execWedgePoll (g : Nat) : State → Host.Outcome State Fault Refusal := liftM (pollM g)
/-- R474. -/
def execWedgeAskDelay : State → Host.Outcome State Fault Refusal := liftM askDelayM
/-- R476. -/
def execContactLoss (g : Nat) (cause : LossCause) : State → Host.Outcome State Fault Refusal := liftK (contactLossM g cause)
/-- R483. -/
def execContactRegained (link : Bool) : State → Host.Outcome State Fault Refusal := liftM (regainedM link)
/-- R479. -/
def execLeadHandover (via : Via) (g : Nat) : State → Host.Outcome State Fault Refusal :=
  liftM (dictM via 0x0B00 9 true (handoverRun g))
/-- R480. -/
def execGaugeWatchdog (g : Nat) : State → Host.Outcome State Fault Refusal := liftM (watchdogM g)
/-- R482. -/
def execGaugeLinkDown : State → Host.Outcome State Fault Refusal := liftK linkDownM
/-- R482. -/
def execDieToDiePathDown : State → Host.Outcome State Fault Refusal := liftK pathDownM

end Sys2Proof.Machine
end

