-- ==== Sys2Proof/Machine/Power.lean ====
section
/-! DEFINITION. Insertion, input loss and hold-up, guards, the power control object (R487 to R489, R500 to R507, R549, R556). -/

namespace Sys2Proof.Machine

/-! ### Insertion (R488) -/

/-- R488: PRESENT mates and the debounce begins. -/
def mateM (_ : Env) (m : Mach) : Mach :=
  if m.power.present then m else { m with power := { m.power with present := true, debounced := false } }

/-- R488: the input has held for 100 ms; the main path closes with limited inrush. -/
def startM (_ : Env) (m : Mach) : Mach :=
  if m.power.present && !m.power.main then { m with power := { m.power with debounced := true, main := true } } else m

/-- What outlives the power: the flash, the fuses, the die's surroundings, and what the block has put out. -/
def coldStart (m : Mach) : Mach :=
  { Mach.reset with
    mgmt := { Mgmt.reset with
      flash := m.mgmt.flash, faultLog := m.mgmt.faultLog, budgetStored := m.mgmt.budgetStored,
      deviceIdStored := m.mgmt.deviceIdStored, nodeStored := m.mgmt.nodeStored, memtestStored := m.mgmt.memtestStored,
      ownerHash := m.mgmt.ownerHash, fusedSvn := m.mgmt.fusedSvn },
    power := { Power.reset with present := m.power.present, debounced := m.power.debounced, main := m.power.main },
    host := { HostIf.reset with mem := m.host.mem }, out := m.out, free := m.free }

/-- R472, R488: soft start ends, the always-on domains are powered and the hold-up bank charges. Stores that are still pending on
hold-up energy complete (R489). -/
def alwaysOnM (k : Strokes) (m : Mach) : Strokes × Mach :=
  if m.power.present && m.power.main && (!m.power.alwaysOn || m.power.onHoldup) then
    let m1 := coldStart m
    (Strokes.reset, { m1 with power := { m1.power with alwaysOn := true },
                              mgmt := { m1.mgmt with stores := if m.power.onHoldup then m.mgmt.stores else [] } })
  else (k, m)

/-! ### Input loss (R489, R538, R556) -/

/-- R489 step 2: the compute dies, the HBM, the links, the UCIe modules and the host die lose power. -/
def darken (m : Mach) : Mach :=
  let down (_ : Endpoint) : Endpoint := Endpoint.reset
  stopLinks { m with
    cores := m.cores.map (fun p => (p.1, parkedCore p.2)), signals := [],
    hbm := { m.hbm with on := false, selfRefresh := false, cells := [], side := [] },
    host := { m.host with ep0 := down m.host.ep0, ep1 := down m.host.ep1, intakes := [], comps := [], selected := false },
    power := { m.power with main := false, onHoldup := m.power.alwaysOn, stopped := true, parkReq := none, dieTemp0 := none,
                            dieTemp1 := none, guard0 := false, guard1 := false, guardEnds0 := false, guardEnds1 := false,
                            joint := none, hot0 := false, hot1 := false, hotEnds0 := false, hotEnds1 := false } }

/-- R489, R538: the input is lost; with `record` the lead gauge queues POWER_LOSS as the last store to the fault log. -/
def loseInput (record : Bool) (detail : Nat) (k : Strokes) (v : Variant) (m : Mach) : Strokes × Mach :=
  if !m.power.main then (k, m)
  else
    let m1 := darken m
    let g := spokesGauge m1
    let e : Env := { v := v, k := k }
    ({ k with inWindow := false, inWindow1 := false },
      if record && m1.power.alwaysOn && (gaugeOf m1 g).alive then
        deliverRec true m1 g { mkFault e m1 g famPower 0x10 5 with detail := detail }
      else m1)

/-- R489: the bank has fallen to 30 V: the gauges stop, and all run-time state is gone. -/
def exhaustM (k : Strokes) (m : Mach) : Strokes × Mach :=
  if m.power.onHoldup then (Strokes.reset, coldStart m) else (k, m)

/-- R488, R489, R507: PRESENT breaks. From READY_TO_REMOVE the loss leaves no record. -/
def breakM (v : Variant) (k : Strokes) (m : Mach) : Strokes × Mach :=
  if !m.power.present then (k, m)
  else loseInput (m.power.state != 6) 0 k v { m with power := { m.power with present := false, debounced := false } }

/-- The compute dies are powered. -/
def diesPowered (m : Mach) : Bool := m.power.main && m.hbm.on && !(m.power.state == 4 || m.power.state == 6)

def inputLossM (_ : InputCause) (v : Variant) (k : Strokes) (m : Mach) : Strokes × Mach := loseInput true 0 k v m

def thermalTripM (v : Variant) (k : Strokes) (m : Mach) : Strokes × Mach :=
  if diesPowered m then loseInput true 1 k v m else (k, m)

/-! ### Guards and the bank (R500, R501) -/

def powerRecord (e : Env) (m : Mach) (code : Nat) : Mach := raiseLead m (mkFault e m (spokesGauge m) famPower code 0)

/-- R500: the overcurrent guard trips; while it holds, no further one does. -/
def overcurrentM (e : Env) (m : Mach) : Mach :=
  if !diesPowered m || m.power.guard0 || m.power.guard1 then m
  else
    powerRecord e { m with power := { m.power with guard0 := true, guard1 := true, guardEnds0 := false, guardEnds1 := false } } 0x11

/-- R500: a reading of a compute die's temperature, in 1/16 °C, above its threshold. -/
def dieHotM (d : Nat) (t : Int) (e : Env) (m : Mach) : Mach :=
  if !diesPowered m || decide (2 ≤ d) then m
  else
    let p := m.power
    let hot := decide (16 * (p.dieLimit : Int) < t)
    let was := if d = 0 then p.hot0 else p.hot1
    let p1 := if d = 0 then { p with dieTemp0 := some t, hot0 := p.hot0 || hot, hotEnds0 := p.hotEnds0 && !hot }
      else { p with dieTemp1 := some t, hot1 := p.hot1 || hot, hotEnds1 := p.hotEnds1 && !hot }
    let m1 := { m with power := p1 }
    if hot && !was then powerRecord e m1 0x12 else m1

/-- R501: E_u in mJ from the measured capacitance in µF and the voltage in mV. How the value is rounded is left open
(notes/assumptions/2). -/
def measureM (c mv : Nat) (_ : Env) (m : Mach) : Mach :=
  if !m.power.alwaysOn then m
  else
    let x := c * (mv * mv - 900000000)
    let n := x / 2000000000 + (if x % 2000000000 = 0 then 0 else freeNow m % 2)
    freeStep { m with power := { m.power with energy := n } }

/-! ### Power control (R503 to R507) -/

/-- R503: a PARK or REMOVE request waits for its boundary. -/
def askPark (removal : Bool) (m : Mach) : Nat × Mach :=
  if m.power.state = 2 then (rOk, { m with power := { m.power with state := 3, parkReq := some removal } }) else (rBounds, m)

/-- R506, R507: the dies are powered, HBM leaves self refresh and trains, links and UCIe train. -/
def wakeUp (e : Env) (m : Mach) : Nat × Mach :=
  if m.power.state = 4 ∨ m.power.state = 6 then
    (rOk, trainAll e (trainStacks true { m with power := { m.power with state := 5 }, hbm := { m.hbm with selfRefresh := false } }))
  else (rBounds, m)

/-- R506: WAKE over the dictionary, or in park the host die's wake signal, whose endpoint is down. -/
def wakeM (via : Via) (e : Env) (m : Mach) : Mach :=
  match via with
  | .window ep => if (endpoint m ep).trained then dictM via 0x0200 0x0B true (fun e m => wakeUp e m) e m else (wakeUp e m).2
  | .can _ _ => dictM via 0x0200 0x0B true (fun e m => wakeUp e m) e m

/-- R503, R549: the button makes a REMOVE request without the wedge. -/
def buttonM (_ : Env) (m : Mach) : Mach := (askPark true m).2

/-! ### The commands -/

/-- R488. -/
def execPresentMate : State → Host.Outcome State Fault Refusal := liftM mateM
/-- R488. -/
def execPresentBreak : State → Host.Outcome State Fault Refusal := liftK breakM
/-- R488. -/
def execStartPermitted : State → Host.Outcome State Fault Refusal := liftM startM
/-- R488. -/
def execAlwaysOnPower : State → Host.Outcome State Fault Refusal := liftK (fun _ k m => alwaysOnM k m)
/-- R489. -/
def execInputLoss (cause : InputCause) : State → Host.Outcome State Fault Refusal := liftK (inputLossM cause)
/-- R489. -/
def execHoldupExhausted : State → Host.Outcome State Fault Refusal := liftK (fun _ k m => exhaustM k m)
/-- R556. -/
def execThermalTrip : State → Host.Outcome State Fault Refusal := liftK thermalTripM
/-- R500. -/
def execOvercurrent : State → Host.Outcome State Fault Refusal := liftM overcurrentM
/-- R500. -/
def execDieHot (d : Nat) (t : Int) : State → Host.Outcome State Fault Refusal := liftM (dieHotM d t)
/-- R501. -/
def execHoldupMeasure (c mv : Nat) : State → Host.Outcome State Fault Refusal := liftM (measureM c mv)
/-- R503. -/
def execPark (via : Via) : State → Host.Outcome State Fault Refusal :=
  liftM (dictM via 0x0200 0x0B true (fun _ m => askPark false m))
/-- R506. -/
def execWake (via : Via) : State → Host.Outcome State Fault Refusal := liftM (wakeM via)
/-- R503. -/
def execRemove (via : Via) : State → Host.Outcome State Fault Refusal :=
  liftM (dictM via 0x0200 0x0B true (fun _ m => askPark true m))
/-- R549. -/
def execRemoveReq : State → Host.Outcome State Fault Refusal := liftM buttonM

end Sys2Proof.Machine
end

