-- ==== Sys2Proof/Machine/Boot.lean ====
section
/-! DEFINITION. Boot, image verification, recovery-listen, image push, fuses, attestation, attach (R427, R428, R452, R509 to
R525). -/

namespace Sys2Proof.Machine

/-! ### The image (R510 to R513) -/

def blockBytes : Nat := 262144

/-- R510: block `n` of the image range of the flash. -/
def flashBlock (f : Sparse (List Byte)) (n : Nat) : List Byte :=
  if spHas f n then spGet [] f n else (List.range blockBytes).map (fun i => Config.shippedFlash (blockBytes * n + i))

/-- R510: the `n` bytes of the image range from `a`. -/
def flashRead (f : Sparse (List Byte)) (a n : Nat) : List Byte :=
  let blocks := (List.range (n / blockBytes + 2)).map (fun i => a / blockBytes + i)
  ((blocks.flatMap (flashBlock f)).drop (a % blockBytes)).take n

def allZero (b : List Byte) : Bool := b.all (fun x => x == 0)

/-- A section of the image (R511): type, flags, offset, size, reserved. -/
structure Section where
  kind : Nat
  flags : Nat
  offset : Nat
  size : Nat
  rest : Nat
  deriving DecidableEq, Repr, Inhabited

/-- R511: the numeric field of `n` bytes at `a` of a header. -/
def hdr (h : List Byte) (a n : Nat) : Nat := leNat ((h.drop a).take n)

def sectionAt (h : List Byte) (i : Nat) : Section :=
  let a := 256 + 16 * i
  { kind := hdr h a 2, flags := hdr h (a + 2) 2, offset := hdr h (a + 4) 4, size := hdr h (a + 8) 4, rest := hdr h (a + 12) 4 }

/-- R511: a section is well formed within an image of `len` bytes. -/
def sectionOk (len : Nat) (s : Section) : Bool :=
  decide (1 ≤ s.kind) && decide (s.kind ≤ 4) && s.flags == 0 && s.offset % 4096 == 0 && decide (4096 ≤ s.offset) &&
    decide (s.offset + s.size ≤ len) && s.rest == 0

/-- Sections that do not overlap. -/
def sectionsApart : List Section → Bool
  | [] => true
  | s :: ss => ss.all (fun t => !overlaps s.offset s.size t.offset t.size) && sectionsApart ss

/-- R511, R512 check 1. -/
def formatOk (h : List Byte) : Bool :=
  let n := hdr h 6 2
  let len := hdr h 8 4
  let ss := (List.range n).map (sectionAt h)
  hdr h 0 4 == 0x46385843 && hdr h 4 2 == 1 && decide (1 ≤ n) && decide (n ≤ 16) && len % 4096 == 0 &&
    decide (1048576 ≤ len) && decide (len ≤ 134217728) && ss.all (sectionOk len) &&
    ([1, 2, 3, 4] : List Nat).all (fun t => (ss.filter (fun s => s.kind == t)).length == 1) && sectionsApart ss &&
    allZero ((h.drop (256 + 16 * n)).take (16 * (16 - n))) && allZero ((h.drop 192).take 64) && allZero ((h.drop 640).take 3456)

/-- R512: the first check that the stored image fails, 0 when it passes them all; with `upTo` only the first so many are made. -/
def verifyImage (f : Sparse (List Byte)) (owner : List Byte) (svn upTo : Nat) : Nat :=
  let h := flashRead f 0 4096
  let part (a n : Nat) : List Byte := (h.drop a).take n
  let owned := !allZero owner
  if !formatOk h then 1
  else if Config.sm3 (part 64 64) ≠ Config.vendorHash then 2
  else if !Config.sm2Verify (part 64 64) (part 0 512) (part 512 64) then 3
  else if owned && Config.sm3 (part 128 64) != owner then 4
  else if owned && !Config.sm2Verify (part 128 64) (part 0 512) (part 576 64) then 5
  else if upTo ≤ 5 then 0
  else if hdr h 12 4 < svn then 6
  else if Config.sm3 (flashRead f 4096 (hdr h 8 4 - 4096)) ≠ part 32 32 then 7
  else 0

/-! ### Flash stores (R452) -/

/-- What a stored value does to the flash. -/
def storeDone (s : Store) (x : Mgmt) : Mgmt :=
  match s with
  | .object idx sub b =>
    if idx = 0x0100 ∧ sub = 0x10 then { x with nodeStored := leNat b }
    else if idx = 0x0200 ∧ sub = 2 then { x with budgetStored := leNat b }
    else if idx = 0x0400 ∧ sub = 1 then { x with deviceIdStored := leNat b }
    else if idx = 0x0F00 ∧ sub = 8 then { x with memtestStored := leNat b }
    else x
  | .block n b => { x with flash := spSet x.flash n b }
  | .eraseBlock0 => { x with flash := spSet x.flash 0 (List.replicate blockBytes 0xFF#8) }
  | .log r => { x with faultLog := (x.faultLog ++ [r]).drop (x.faultLog.length + 1 - 65536) }

/-- R452: the stored values of RWS objects, accepted writes that wait for the flash included. -/
def storedNow (m : Mach) : Mgmt := m.mgmt.stores.foldl (fun a s => storeDone s a) m.mgmt

/-- R519: the image range as the accepted stores leave it. -/
def storedImage (m : Mach) : Sparse (List Byte) := (storedNow m).flash

/-! ### Boot (R514 to R517) -/

/-- R474, R481, R514 step 1: the gauges start from boot ROM and read their fuses, stored values take effect, and gauge 0 asks for the wedge. -/
def bootM (e : Env) (m : Mach) : Mach :=
  let g := m.mgmt
  if !m.power.alwaysOn || m.power.onHoldup || g.g0.alive || g.g1.alive then m
  else
    let start (i : Nat) (x : Gauge) : Gauge :=
      { Gauge.reset with alive := if i = 0 then g.die0Power else g.die1Power, restarted := g.holder == some i, epochSeen := g.epoch,
                         busOff := x.busOff }
    let m1 := { m with
      mgmt := { g with g0 := start 0 g.g0, g1 := start 1 g.g1, node := g.nodeStored, ownerRead := g.ownerHash, svnRead := g.fusedSvn },
      fabric := { m.fabric with deviceId := g.deviceIdStored },
      power := { m.power with state := 1, budget := g.budgetStored } }
    if g.holder.isNone && m1.mgmt.g0.alive then takeWedge e m1 0 else m1

/-- R427: an endpoint as the device's progress has it: LINKED, NEGOTIATED, READY or HALF. -/
def attachState (split : Bool) (m : Mach) (ep : Nat) : Nat :=
  if inRecovery m ep then 5 else if !m.host.selected then 1 else if !m.mgmt.ready then 2 else if split then 4 else 3

/-- R514 step 7: READY once step 5 has ended and VERSION_SEL is written; the lead writes BOOT_COMPLETE. -/
def checkReady (e : Env) (m : Mach) : Mach :=
  if m.mgmt.ready || !m.mgmt.coresDone || m.mgmt.memtesting || !m.host.selected then m
  else
    let up (x : Endpoint) : Endpoint := if x.attach = 2 then { x with attach := if e.k.split then 4 else 3 } else x
    raiseLead { m with mgmt := { m.mgmt with ready := true, bootState := 1 },
                       host := { m.host with ep0 := up m.host.ep0, ep1 := up m.host.ep1 } }
      (mkFault e m (spokesGauge m) famBoot 0x10 0)

/-- R517: recovery-listen. -/
def enterRecovery (m : Mach) (result : Nat) : Mach :=
  let rec5 (x : Endpoint) : Endpoint := if x.trained then { x with attach := 5 } else x
  { m with mgmt := { m.mgmt with bootState := 2, bootResult := result }, hbm := { m.hbm with on := false },
           host := { m.host with ep0 := rec5 m.host.ep0, ep1 := rec5 m.host.ep1 } }

/-- R513: a gauge without contact enters recovery-listen alone. -/
def recoverAlone (m : Mach) (g result : Nat) : Mach :=
  modEndpoint (modGauge m g (fun x => { x with recovery := result })) g (fun x => if x.trained then { x with attach := 5 } else x)

/-- R512, R513: gauge `g` has verified the image. -/
def imageVerifiedM (g : Nat) (e : Env) (m : Mach) : Mach :=
  let x := m.mgmt
  let done := if g = 0 then x.verified0 else x.verified1
  if 2 ≤ g ∨ !m.power.alwaysOn ∨ !(gaugeOf m g).alive ∨ x.bootState ≠ 0 ∨ (gaugeOf m g).recovery ≠ 0 ∨ done ∨ m.power.onHoldup then m
  else
    let r := verifyImage (storedImage m) x.ownerRead x.svnRead 7
    if r ≠ 0 then
      let m1 := raiseFault m g { mkFault e m g famBoot (0x10 + r) 0 with detail := r }
      if x.contact || !(gaugeOf m (1 - g)).alive || (gaugeOf m (1 - g)).recovery != 0 then enterRecovery m1 r
      else recoverAlone m1 g r
    else
      let h := flashRead (storedImage m) 0 4096
      let y := { x with verified0 := x.verified0 || g == 0, verified1 := x.verified1 || g == 1, bootResult := 0,
                        build := (h.drop 16).take 16, svn := hdr h 12 4, header := h.take 640 }
      let m1 := { m with mgmt := y }
      let other := if g = 0 then y.verified1 else y.verified0
      if other || !x.contact || !(gaugeOf m (1 - g)).alive then
        (if m1.hbm.on then m1 else trainAll e (trainStacks true { m1 with hbm := { m1.hbm with on := true } }))
      else m1

/-- R369: the lanes that training has remapped in a stack. -/
def remapLanes (m : Mach) (p : Nat × Nat) : Mach := m.modStack p.1 (fun x => { x with remapped := min 255 (x.remapped + p.2) })

/-- R369, R371, R374, R377, R514 step 3: training and BIST have ended, every granule zero, and every stack has its first reading. -/
def bistEndM (badPairs badStacks : List Nat) (lanes : List (Nat × Nat)) (temps : List Int) (e : Env) (m : Mach) : Mach :=
  if !m.hbm.on || m.mgmt.hbmDone || m.mgmt.bootState ≠ 0 then m
  else
    let m1 := trainStacks false { m with hbm := { m.hbm with cells := [], side := [] }, mgmt := { m.mgmt with hbmDone := true } }
    let m2 := (badPairs.filter (fun p => decide (p < 512))).foldl (fun a p => fencePair e a (p / 32) (p % 32) 1)
      ((lanes.filter (fun p => decide (p.1 < 16))).foldl remapLanes m1)
    let m3 := (badStacks.filter (fun s => decide (s < 16))).foldl (fun a s => fenceRegion e a (s / 2) 2) m2
    finish e (((List.range 16).zip temps).foldl (fun a p => tempReadM p.1 p.2 e a) m3)

/-- R484, R537: the dies that failed are fenced; the other cores that are fitted and not fenced come up. -/
def raiseCores (failed : List Nat) (e : Env) (m : Mach) : Mach :=
  let m1 := (failed.filter (fun d => decide (d < 2))).foldl (fun a d => fenceDie e a d 2) m
  ((List.range 64).filter (fun c => e.v.hasCore c && !coreFenced m1 c)).foldl coreComesUp m1

/-- R37, R506 step 4, R514 step 5: the cores come up. At boot the next boundary is stroke 1. -/
def coresUpM (failed : List Nat) (ms : Nat) (v : Variant) (k : Strokes) (m : Mach) : Strokes × Mach :=
  let e : Env := { v := v, k := k }
  if m.power.state = 5 ∧ m.hbm.on ∧ !m.power.onHoldup then
    let m1 := raiseCores failed e (trainStacks false m)
    (k, finish e { m1 with power := { m1.power with state := 2 } })
  else if m.mgmt.hbmDone && !m.mgmt.coresDone && m.mgmt.bootState == 0 && !m.power.onHoldup then
    let k1 := { k with running := true }
    let e1 : Env := { v := v, k := k1 }
    let m1 := raiseCores failed e1 m
    let full := m1.mgmt.memtestStored == 1
    (k1, finish e1 (checkReady e1 { m1 with
      mgmt := { m1.mgmt with coresDone := true, memtesting := full, bootState := if full then 0 else 1, msToStroke1 := ms },
      power := { m1.power with state := 2 } }))
  else (k, m)

/-- R345, R372, R515: the FULL memory test has ended: mismatching frames are withdrawn, every granule is zeroed, the roots return
to 0 and every context to FREE. -/
def memtestEndM (frames : List (Nat × Nat)) (e : Env) (m : Mach) : Mach :=
  if !m.mgmt.memtesting then m
  else
    let bad := ((frames.filter (fun f => decide (f.1 < 16) && decide (f.2 < framesPerStack))).eraseDups)
    let m1 := bad.foldl (fun a f =>
      raiseFault { a with hbm := { a.hbm with withdrawn := a.hbm.withdrawn ++ [f] } } (f.1 / 8) (mkFault e a (f.1 / 8) famMemory 0x1A 0)) m
    finish e (checkReady e { m1 with
      cores := m1.cores.map (fun p => (p.1, { p.2 with ctxs := [] })),
      hbm := { m1.hbm with cells := [], side := [], root0 := 0, root1 := 0, rootNext0 := none, rootNext1 := none },
      mgmt := { m1.mgmt with memtesting := false, bootState := 1, withdrawnByTest := bad.length } })

/-! ### Attach (R427, R428) -/

/-- R427: a UCIe module trains. In park and on hold-up energy it is unpowered. -/
def ucieM (ep : Nat) (half16 : Bool) (e : Env) (m : Mach) : Mach :=
  if 2 ≤ ep ∨ !m.power.alwaysOn ∨ m.power.onHoldup ∨ m.power.stopped ∨ m.power.state = 0 ∨ m.power.state = 4 ∨ m.power.state = 6 ∨
      (endpoint m ep).trained then m
  else drainRing ep 256
    (modEndpoint m ep (fun x => { x with trained := true, rate16 := half16, attach := attachState e.k.split m ep }))

/-- R425, R427, R428: a write of VERSION_SEL. -/
def versionSelM (ep v : Nat) (e : Env) (m : Mach) : Mach :=
  let x := endpoint m ep
  if 2 ≤ ep ∨ !x.trained ∨ x.attach = 5 then m
  else if x.attach ≠ 1 ∨ 0 < v % 256 ∨ 5 < v / 256 % 256 then refuse e m ep 0x10 cBounds
  else
    let up (x : Endpoint) : Endpoint := if x.attach = 1 then { x with attach := 2 } else x
    checkReady e { m with host := { m.host with selected := true, nativeMinor := v % 256, compatMinor := v / 256 % 256,
                                                compat := natBit v 16, ep0 := up m.host.ep0, ep1 := up m.host.ep1 } }

/-! ### Stores and image control (R452, R518, R519) -/

/-- R452, R489, R534: the oldest pending store completes. -/
def storeEndM (_ : Env) (m : Mach) : Mach :=
  match m.mgmt.stores with
  | [] => m
  | s :: ss => if m.power.alwaysOn then { m with mgmt := storeDone s { m.mgmt with stores := ss } } else m

/-- R519: BEGIN opens a session and queues the erase of block 0. -/
def beginRun (_ : Env) (m : Mach) : Nat × Mach :=
  if m.mgmt.session = 1 ∨ m.mgmt.session = 2 then (rBounds, m)
  else
    let r := askStore m .eraseBlock0
    if r.1 = rOk then (rOk, { r.2 with mgmt := { r.2.mgmt with session := 1 } }) else r

/-- R519: VERIFY starts on the stored image once the pending stores are done. -/
def verifyRun (_ : Env) (m : Mach) : Nat × Mach :=
  if m.mgmt.session = 1 then (rOk, { m with mgmt := { m.mgmt with session := 2, verifying := true } }) else (rBounds, m)

def verifyEndM (_ : Env) (m : Mach) : Mach :=
  let x := m.mgmt
  if !x.verifying || !x.stores.isEmpty then m
  else
    let r := verifyImage x.flash x.ownerRead x.svnRead 7
    { m with mgmt := { x with verifying := false, verifyResult := r, session := if r = 0 then 3 else 4 } }

/-- R519: the module restarts from step 1 of R514. The wedge, the pending stores and the counts since power-on stay. -/
def restart (m : Mach) : Mach :=
  let c := coldStart m
  { c with
    mgmt := { c.mgmt with
      holder := m.mgmt.holder, epoch := m.mgmt.epoch, leaseRunning := m.mgmt.leaseRunning, takeStroke := m.mgmt.takeStroke,
      takes := m.mgmt.takes, rejoins := m.mgmt.rejoins, linkUp := m.mgmt.linkUp, pathUp := m.mgmt.pathUp,
      die0Power := m.mgmt.die0Power, die1Power := m.mgmt.die1Power, contact := m.mgmt.linkUp || m.mgmt.pathUp,
      stores := m.mgmt.stores },
    power := { c.power with alwaysOn := true, energy := m.power.energy, inputMv := m.power.inputMv,
                            inputCurrent := m.power.inputCurrent } }

/-- R519: REBOOT is accepted in recovery-listen, PARKED and READY_TO_REMOVE. -/
def mayReboot (m : Mach) : Bool := inRecovery m (leadGauge m) || m.power.state == 4 || m.power.state == 6

/-- R519: the write is answered, then the gauges restart. -/
def rebootM (via : Via) (v : Variant) (k : Strokes) (m : Mach) : Strokes × Mach :=
  let m1 := dictM via 0x0F00 0x12 true (fun _ a => (if mayReboot a then rOk else rBounds, a)) { v := v, k := k } m
  if writeHeard m via 0x0F00 0x12 true && mayReboot m then (Strokes.reset, restart m1) else (k, m1)

/-! ### Fuses (R521) -/

/-- R521: the hash of an owner key that the stored image satisfies is fused into both banks. Checks go by it from the next boot on. -/
def ownerKeyRun (key : List Byte) (_ : Env) (m : Mach) : Nat × Mach :=
  let x := m.mgmt
  let h := Config.sm3 key
  if key.length ≠ 64 ∨ !allZero x.ownerHash ∨ verifyImage (storedImage m) h x.fusedSvn 5 ≠ 0 then (rBounds, m)
  else if !(x.contact && x.g0.alive && x.g1.alive) then (rUnreachable, m)
  else (rOk, { m with mgmt := { x with ownerHash := h } })

def svnRun (n : Nat) (_ : Env) (m : Mach) : Nat × Mach :=
  let x := m.mgmt
  if n ≠ x.svn ∨ n ≤ x.fusedSvn then (rBounds, m)
  else if !(x.contact && x.g0.alive && x.g1.alive) then (rUnreachable, m)
  else (rOk, { m with mgmt := { x with fusedSvn := n } })

/-! ### Attestation (R523 to R525) -/

/-- R523: a request copies the nonce. -/
def attestRun (g n : Nat) (_ : Env) (m : Mach) : Nat × Mach :=
  let x := gaugeOf m g
  if n ≠ 1 then (rBounds, m)
  else if x.attState = 1 then (rBusy, m)
  else (rOk, modGauge m g (fun y => { y with attState := 1, attResult := 0, attNonce := x.nonce }))

/-- R525: index, subindex, length and stored value of one RWS object. -/
def configPart (idx sub : Nat) (b : List Byte) : List Byte := leBytes 2 idx ++ leBytes 1 sub ++ leBytes 4 b.length ++ b

/-- R525: CONFIG_HASH over the RWS objects, pending stores counted. -/
def configHash (m : Mach) : List Byte :=
  let x := storedNow m
  Config.sm3 (configPart 0x0100 0x10 (leBytes 1 x.nodeStored) ++ configPart 0x0200 2 (leBytes 2 x.budgetStored) ++
    configPart 0x0400 1 (leBytes 2 x.deviceIdStored) ++ configPart 0x0F00 8 (leBytes 1 x.memtestStored) ++
    configPart 0x0F00 0x11 (flashBlock x.flash x.blockSel))

/-- R1: the part number. -/
def partString (v : Variant) : List Nat :=
  let digits (n : Nat) : List Nat := [48 + n / 10, 48 + n % 10]
  [79, 81, 88, 56, 45] ++ digits v.cores ++ [45] ++ digits v.links ++ [45, if v.train then 84 else 83]

/-- R9: the feature word, 0x0100.05. -/
def featureWord (v : Variant) : Nat := 4 + 3 * bit v.train

/-- R524: bytes 0 to 319 of a report. -/
def reportBody (e : Env) (m : Mach) (g ns : Nat) : List Byte :=
  let x := m.mgmt
  padTo 320 (leBytes 4 0x41385843 ++ leBytes 2 1 ++ leBytes 1 g ++ leBytes 1 (deviceMode e m) ++ padTo 32 (gaugeOf m g).attNonce ++
    leBytes 8 (strokeAt e.k g) ++ leBytes 2 (storedNow m).deviceIdStored ++ leBytes 2 0 ++ leBytes 4 (featureWord e.v) ++
    leBytes 8 e.v.coreMap.toNat ++ leBytes 8 e.v.linkMap0.toNat ++ leBytes 8 e.v.linkMap1.toNat ++
    padTo 32 ((partString e.v).map (fun n => BitVec.ofNat 8 n)) ++ padTo 32 (Config.sm3 x.header) ++
    padTo 32 ((x.header.drop 32).take 32) ++ padTo 16 x.build ++ leBytes 4 x.svn ++ leBytes 4 x.fusedSvn ++
    padTo 32 x.ownerHash ++ padTo 32 (configHash m) ++ leBytes 8 ns)

def attestEndM (g ns : Nat) (e : Env) (m : Mach) : Mach :=
  if 2 ≤ g ∨ !(gaugeOf m g).alive ∨ (gaugeOf m g).attState ≠ 1 then m
  else
    let b := reportBody e m g ns
    modGauge m g (fun y => { y with attState := 2, report := b ++ padTo 64 (Config.identitySign b) })

/-! ### The commands -/

/-- R514 step 1. -/
def execBoot : State → Host.Outcome State Fault Refusal := liftM bootM
/-- R512. -/
def execImageVerified (g : Nat) : State → Host.Outcome State Fault Refusal := liftM (imageVerifiedM g)
/-- R514 step 3. -/
def execHbmBistEnd (badPairs : List Nat) (x : BistFound) : State → Host.Outcome State Fault Refusal :=
  liftM (bistEndM badPairs x.badStacks x.lanes x.temps)
/-- R514 step 5. -/
def execCoresUp (failed : List Nat) (ms : Nat) : State → Host.Outcome State Fault Refusal := liftK (coresUpM failed ms)
/-- R515. -/
def execMemtestEnd (frames : List (Nat × Nat)) : State → Host.Outcome State Fault Refusal := liftM (memtestEndM frames)
/-- R427. -/
def execUcieTrained (ep : Nat) (half16 : Bool) : State → Host.Outcome State Fault Refusal := liftM (ucieM ep half16)
/-- R428. -/
def execVersionSel (ep v : Nat) : State → Host.Outcome State Fault Refusal := liftM (versionSelM ep v)
/-- R452. -/
def execFlashStoreEnd : State → Host.Outcome State Fault Refusal := liftM storeEndM
/-- R519. -/
def execImageBegin (via : Via) : State → Host.Outcome State Fault Refusal := liftM (dictM via 0x0F00 0x12 true beginRun)
/-- R519. -/
def execVerify (via : Via) : State → Host.Outcome State Fault Refusal := liftM (dictM via 0x0F00 0x12 true verifyRun)
/-- R519. -/
def execImageVerifyEnd : State → Host.Outcome State Fault Refusal := liftM verifyEndM
/-- R519. -/
def execReboot (via : Via) : State → Host.Outcome State Fault Refusal := liftK (rebootM via)
/-- R521. -/
def execOwnerKeyWrite (via : Via) (key : List Byte) : State → Host.Outcome State Fault Refusal :=
  liftM (dictM via 0x0F00 0x20 true (ownerKeyRun key))
/-- R521. -/
def execSvnAdvance (via : Via) (n : Nat) : State → Host.Outcome State Fault Refusal := liftM (dictM via 0x0F00 0x22 true (svnRun n))
/-- R523. -/
def execAttestationRequest (via : Via) (n : Nat) : State → Host.Outcome State Fault Refusal :=
  liftM (dictM via 0x0F00 0x41 false (attestRun (viaGauge via) n))
/-- R524. -/
def execAttestationEnd (g ns : Nat) : State → Host.Outcome State Fault Refusal := liftM (attestEndM g ns)

end Sys2Proof.Machine
end

