-- ==== Sys2Proof/Machine/Dictionary.lean ====
section
/-! DEFINITION. The objects of the dictionary with their types, access codes and values, and their reads over CAN FD (R8, R9, R41,
R192, R204, R258, R302, R307, R332, R345, R368, R377, R397, R408, R447, R449 to R451, R456, R460, R466 to R471, R478, R518, R521,
R522, R523, R533, R540). A register whose write is accepted and not yet in effect reads as written (notes/assumptions/58). -/

namespace Sys2Proof.Machine

/-- R450. -/
inductive ObjAccess where
  | ro | rw | wo | rws | lrw
  deriving DecidableEq, Repr, Inhabited

/-- R449: a number of a width in bytes, a string or a domain. -/
inductive ObjValue where
  | num (width value : Nat)
  | str (bytes : List Byte)
  | dom (bytes : List Byte)
  deriving DecidableEq, Repr, Inhabited

/-- An object as a gauge holds it. -/
structure Obj where
  access : ObjAccess
  value : ObjValue
  deriving DecidableEq, Repr, Inhabited

def numObj (a : ObjAccess) (width v : Nat) : Option Obj := some { access := a, value := .num width (v % 256 ^ width) }
def roObj (width v : Nat) : Option Obj := numObj .ro width v
def domObj (a : ObjAccess) (b : List Byte) : Option Obj := some { access := a, value := .dom b }
def strObj (b : List Byte) : Option Obj := some { access := .ro, value := .str (padTo 32 b) }

/-- Subindices `lo` to `lo + n - 1`. -/
def subIn (sub lo n : Nat) : Bool := decide (lo ≤ sub) && decide (sub < lo + n)

/-- R377, R500: a temperature in 1/16 °C; 0x8000_0000 before the first reading. -/
def tempWord (t : Option Int) : Nat :=
  match t with
  | none => 0x80000000
  | some x => image 32 x

/-! ### The ranges -/

/-- R8, R9, R458. -/
def identityObj (e : Env) (m : Mach) (sub : Nat) : Option Obj :=
  if sub = 1 then strObj ((partString e.v).map (fun n => BitVec.ofNat 8 n))
  else if sub = 2 then roObj 8 e.v.coreMap.toNat
  else if sub = 3 then roObj 8 e.v.linkMap0.toNat
  else if sub = 4 then roObj 8 e.v.linkMap1.toNat
  else if sub = 5 then roObj 4 (featureWord e.v)
  else if sub = 0x10 then numObj .rws 1 (storedNow m).nodeStored
  else none

/-- R495: the whole budget, or half of it while each gauge admits alone; half a watt is a free rounding. -/
def budgetUsed (e : Env) (m : Mach) : Nat :=
  let b := m.power.budget
  if e.k.split && !m.mgmt.contact then b / 2 + (if b % 2 = 1 then freeNow m % 2 else 0) else b

/-- R490, R503 to R508. -/
def powerObj (e : Env) (m : Mach) (g sub : Nat) : Option Obj :=
  let p := m.power
  if sub = 1 then numObj .lrw 2 (p.budgetNext.getD p.budget)
  else if sub = 2 then numObj .rws 2 (storedNow m).budgetStored
  else if sub = 3 then roObj 2 (budgetUsed e m)
  else if sub = 4 then roObj 4 (if e.k.split && !m.mgmt.contact && g == 1 then p.charged1 else p.charged)
  else if sub = 5 then roObj 4 p.measured
  else if sub = 6 then numObj .lrw 1 (p.hostLimitNext.getD p.hostLimit)
  else if sub = 7 then roObj 2 p.inputMv
  else if sub = 8 then roObj 2 p.inputCurrent
  else if sub = 9 then roObj 4 p.energy
  else if sub = 0x0A then roObj 1 p.state
  else if sub = 0x0B then numObj .lrw 1 0
  else if subIn sub 0x10 8 then numObj .lrw 1 (spGet (p.regionLimits.getD (sub - 0x10) 125) p.regionLimitsNext (sub - 0x10))
  else if sub = 0x20 then roObj 8 p.batchReduced.toNat
  else if sub = 0x21 then roObj 8 p.idleCycles.toNat
  else if sub = 0x22 then roObj 8 p.holdupLow.toNat
  else none

/-- R377, R500. -/
def thermalObj (m : Mach) (sub : Nat) : Option Obj :=
  if subIn sub 1 4 then numObj .lrw 1 (m.hbm.thresholds.getD (sub - 1) 0)
  else if sub = 5 then roObj 1 105
  else if subIn sub 0x10 16 then roObj 4 (tempWord (m.stack (sub - 0x10)).temp)
  else if subIn sub 0x20 16 then roObj 1 (m.stack (sub - 0x20)).level
  else if sub = 0x30 then roObj 4 (tempWord m.power.dieTemp0)
  else if sub = 0x31 then roObj 4 (tempWord m.power.dieTemp1)
  else if sub = 0x32 then numObj .lrw 1 m.power.dieLimit
  else none

/-- R398: the state word of a link. -/
def linkWord (e : Env) (m : Mach) (n : Nat) : Nat :=
  if !e.v.hasLink n then 4 + 0xFFFF0000
  else
    let x := m.link n
    x.state % 8 + 8 * bit x.versionFail + 16 * (x.major % 16) + 256 * (x.minor % 16) + 4096 * bit (x.slowLeft != 0) +
      65536 * (x.peer % 65536)

/-- R399: the latency word of a link. -/
def latencyWord (m : Mach) (n : Nat) : Nat := (m.link n).latency % 65536 + 65536 * ((m.link n).peerLink % 128)

/-- R408: a routing entry in its 32 bits. -/
def routeWord (r : Route) : Nat := r.primary % 128 + 256 * (r.alternate % 128) + 65536 * (r.vcOut % 4)

/-- R397. -/
def linkObj (e : Env) (m : Mach) (sub : Nat) : Option Obj :=
  let f := m.fabric
  if sub = 1 then numObj .rws 2 (storedNow m).deviceIdStored
  else if sub = 2 then numObj .lrw 8 (f.exportNext.getD f.exportBase)
  else if sub = 3 then numObj .lrw 2 (f.beatNext.getD f.beatPeriod)
  else if sub = 4 then numObj .lrw 8 f.collBase
  else if sub = 5 then roObj 8 f.noRoute.toNat
  else if sub = 6 then roObj 8 f.majorDrops.toNat
  else if sub = 7 then numObj .lrw 1 0
  else if sub = 8 then roObj 8 f.lostSignals.toNat
  else if subIn sub 0x10 96 then roObj 4 (linkWord e m (sub - 0x10))
  else none

/-- R397, R408: 0x0401 to 0x0403 and the routing entries. -/
def fabricObj (e : Env) (m : Mach) (g idx sub : Nat) : Option Obj :=
  if idx = 0x0401 ∧ sub < 96 then roObj 4 (latencyWord m sub)
  else if idx = 0x0402 ∧ sub < 96 then roObj 8 (m.link sub).resends.toNat
  else if idx = 0x0403 ∧ sub < 96 then roObj 8 (m.link sub).codewords.toNat
  else if 0x0440 ≤ idx ∧ idx ≤ 0x045F then
    let d := 256 * (idx - 0x0440) + sub
    let cur := m.route e.k g d
    numObj .lrw 4 (routeWord (if e.k.split && g != leadGauge m then cur else spGet cur m.fabric.routesNext d))
  else none

/-- R345, R368. -/
def memoryObj (m : Mach) (g sub : Nat) : Option Obj :=
  let h := m.hbm
  if sub = 1 then roObj 4 framesPerStack
  else if sub = 2 then roObj 4 firstRelief
  else if sub = 0x10 then numObj .lrw 8 (h.rootNext0.getD h.root0)
  else if sub = 0x11 then numObj .lrw 8 (h.rootNext1.getD h.root1)
  else if subIn sub 0x20 16 then roObj 4 (stackObject (m.stack (sub - 0x20)) (regionFenced m ((sub - 0x20) / 2)))
  else if subIn sub 0x30 16 then roObj 8 (m.stack (sub - 0x30)).corrected.toNat
  else if subIn sub 0x40 16 then roObj 8 (m.stack (sub - 0x40)).uncorrected.toNat
  else if sub = 0x50 then numObj .rw 4 (rwRead m g (rwKey 0x0500 0x50) h.retrainLimit)
  else if sub = 0x61 then roObj 8 h.trayCorrected.toNat
  else if sub = 0x62 then roObj 8 h.drawerParity.toNat
  else if sub = 0x63 then roObj 8 h.glueLost.toNat
  else none

/-- R192, R332, R471. -/
def counterObj (e : Env) (m : Mach) (g sub : Nat) : Option Obj :=
  let t := m.tables
  if sub = 0x40 then numObj .rw 8 (rwRead m g (rwKey 0x0600 0x40) (spGet t.counterBlock t.counterNext 0x40))
  else if sub = 0x41 then numObj .rw 1 (rwRead m g (rwKey 0x0600 0x41) (spGet t.counterOn t.counterNext 0x41))
  else if sub = 0x42 then roObj 8 m.signalsLost.toNat
  else if sub = 0x50 then roObj 4 (2650000 / e.k.period)
  else none

/-- R302, R307, R308, R469, R470, R490: the per-core objects; `c` is a core below 64. -/
def coreObj (e : Env) (m : Mach) (range c sub : Nat) : Option Obj :=
  let x := m.core c
  if range = 0x0201 then numObj .rw 1 (x.batchNext.getD x.batchClass)
  else if range = 0x0202 then roObj 1 x.admitted
  else if range = 0x0660 then if subIn sub 1 16 then roObj 4 (stateObject (x.ctx (sub - 1))) else none
  else if !e.v.hasCore c then none
  else if range = 0x0620 then
    if subIn sub 1 4 || subIn sub 0x10 8 then roObj 8 (spGet Counter48.reset x.prefetch sub).latched else none
  else if subIn sub 1 48 then roObj 4 (spGet (0, 0) x.stalls sub).2.toNat else none

/-- R467: the range and the core of a per-core object. -/
def coreOf (idx sub : Nat) : Option (Nat × Nat) :=
  if (idx = 0x0201 ∨ idx = 0x0202) ∧ sub < 64 then some (idx, sub)
  else if 0x0620 ≤ idx ∧ idx < 0x0660 then some (0x0620, idx - 0x0620)
  else if 0x0660 ≤ idx ∧ idx < 0x06A0 then some (0x0660, idx - 0x0660)
  else if 0x06A0 ≤ idx ∧ idx < 0x06E0 then some (0x06A0, idx - 0x06A0)
  else none

/-- R297, R464, R533, R540. -/
def faultObj (m : Mach) (g sub : Nat) : Option Obj :=
  let f := m.faults
  if sub = 1 ∨ sub = 2 then numObj .rw 8 (rwRead m g (rwKey 0x0700 sub) (faultRing m (sub - 1)).base)
  else if sub = 3 then numObj .rw 1 (ringLog2 m g)
  else if sub = 4 ∨ sub = 5 then numObj .rw 4 (rwRead m g (rwKey 0x0700 sub) (faultRing m (sub - 4)).head.toNat)
  else if sub = 6 then roObj 4 f.ring0.tail.toNat
  else if sub = 7 then roObj 4 f.ring1.tail.toNat
  else if sub = 8 then roObj 8 f.notWritten.toNat
  else if sub = 9 then roObj 8 f.notLogged.toNat
  else if sub = 0x10 ∨ sub = 0x11 then
    numObj .rw 4 (rwRead m g (rwKey 0x0700 sub) (faultRing m (sub - 0x10)).clear.toNat)
  else if sub = 0x12 then roObj 4 f.ring0.heldCount
  else if sub = 0x13 then roObj 4 f.ring1.heldCount
  else if sub = 0x14 then domObj .ro ((faultRing m g).held.flatMap faultBytes)
  else if sub = 0x20 then numObj .rw 4 (rwRead m g (rwKey 0x0700 0x20) (m.mgmt.watchdogNext.getD m.mgmt.watchdog))
  else if sub = 0x21 then roObj 8 f.canLimited.toNat
  else if sub = 0x30 then roObj 8 m.fences.cores.toNat
  else if sub = 0x31 then roObj 1 m.fences.regions.toNat
  else if sub = 0x32 then roObj 1 m.fences.dies.toNat
  else if subIn sub 0x40 3 then numObj .lrw 1 0
  else none

/-- R258: TOTAL of job `j` as gauge `g` holds it. -/
def jobTotal (m : Mach) (g j : Nat) : Nat := rwRead m g (rwKey 0x0800 j) (spGet 0 m.mgmt.totals j).toNat

/-- R259: DONE of job `j`: of the whole device, or of the answering gauge's die while split. -/
def jobDone (e : Env) (m : Mach) (g j : Nat) : Nat :=
  let die (d : Nat) : Nat := (spGet 0 m.mgmt.done (16 * d + j)).toNat
  if e.k.split then die g else (die 0 + die 1) % 2 ^ 64

/-- R258. -/
def progressObj (e : Env) (m : Mach) (g sub : Nat) : Option Obj :=
  let j := sub % 16
  if j = 0 then none
  else if sub < 0x10 then numObj .rw 8 (jobTotal m g j)
  else if sub < 0x20 then roObj 8 (jobDone e m g j)
  else if sub < 0x30 then
    roObj 2 (if jobTotal m g j = 0 then 0 else min 10000 (jobDone e m g j * 10000 / jobTotal m g j))
  else none

/-- The die whose published tables gauge `g` shows. -/
def shownDie (e : Env) (m : Mach) (g : Nat) : Nat := if e.k.split then g else leadGauge m

/-- R204. -/
def tableObj (e : Env) (m : Mach) (g sub : Nat) : Option Obj :=
  let t := m.tables
  let later (cur : Nat) : Nat := spGet cur t.next sub
  let heads (a b : Nat) : Nat := if e.k.split then b else a
  if sub = 1 then numObj .lrw 8 (later t.pubBase)
  else if sub = 2 then numObj .lrw 1 (later t.pubSize)
  else if sub = 3 then numObj .rw 4 (rwRead m g (rwKey 0x0900 3) t.pubTail)
  else if sub = 4 then roObj 4 (dieTables m (if e.k.split then 0 else leadGauge m)).pubHead
  else if sub = 5 then roObj 4 (heads (dieTables m (leadGauge m)).pubHead t.die1.pubHead)
  else if sub = 6 then numObj .lrw 8 (later t.updBase)
  else if sub = 7 then numObj .lrw 1 (later t.updSize)
  else if sub = 8 then numObj .lrw 1 (later t.updEntry)
  else if sub = 9 then numObj .rw 4 (rwRead m g (rwKey 0x0900 9) t.updTail)
  else if sub = 0x0A then roObj 4 (dieTables m (if e.k.split then 0 else leadGauge m)).updHead
  else if sub = 0x0B then roObj 4 (heads (dieTables m (leadGauge m)).updHead t.die1.updHead)
  else if sub = 0x0C then numObj .lrw 8 (later t.die0.region)
  else if sub = 0x0D then numObj .lrw 8 (later t.die1.region)
  else if sub = 0x10 then roObj 8 t.accepted.toNat
  else if sub = 0x11 then roObj 8 t.superseded.toNat
  else if sub = 0x12 then roObj 8 t.notOwner.toNat
  else if sub = 0x13 then roObj 8 t.overlayFull.toNat
  else if sub = 0x14 then roObj 8 t.migrating.toNat
  else if sub = 0x15 then roObj 8 t.discarded.toNat
  else none

/-- R204, R211: the versions of slot `t`. -/
def versionWord (e : Env) (m : Mach) (g t : Nat) : Nat :=
  let d := shownDie e m g
  if (dieTables m d).region = 0 then 0
  else
    let x := spGet Slot.reset (dieTables m d).slots t
    dVersion x.desc % 2 ^ 32 + 2 ^ 32 * (oldestOf x % 2 ^ 32)

/-- R41, R58, R59. -/
def strokeObj (e : Env) (m : Mach) (g sub : Nat) : Option Obj :=
  let k := e.k
  if sub = 1 then roObj 2 k.period
  else if sub = 2 then numObj .lrw 2 k.pendingPeriod
  else if sub = 3 then numObj .lrw 8 k.target
  else if sub = 4 then numObj .lrw 1 (k.windowNext.getD k.window)
  else if sub = 5 then roObj 8 (strokeAt k g)
  else if sub = 6 then roObj 8 (if halfOf k g = 1 then k.timestamp1 else k.timestamp)
  else if sub = 7 then numObj .lrw 4 (alignCtlWord (k.alignNext.getD k.align))
  else if sub = 8 then roObj 4 (alignStatusWord { k with secondClock := k.secondClock && !(gaugeOf m g).lead })
  else if sub = 9 then roObj 4 (image 32 k.phaseErr)
  else if sub = 0x0A then numObj .lrw 2 k.inDelay
  else if sub = 0x0B then roObj 8 k.numberOffset.toNat
  else if sub = 0x0C then roObj 8 k.overruns.toNat
  else if sub = 0x0D then roObj 8 k.deferred.toNat
  else if sub = 0x0E then roObj 8 k.extended.toNat
  else if sub = 0x0F then roObj 8 k.carried.toNat
  else none

/-- R478: REMAINING as last read, in µs: a time that no command measures, hence a free value while a lease runs. -/
def remainingWord (m : Mach) (g : Nat) : Nat :=
  if !reachesWedge m g then 0xFFFFFFFF else if m.mgmt.holder.isNone then 0 else freeNow m % 50001

/-- R478: the paths as gauge `g` sees them. -/
def pathByte (m : Mach) (g : Nat) : Nat :=
  bit m.mgmt.linkUp + 2 * bit m.mgmt.pathUp + 4 * bit (reachesWedge m g) +
    8 * bit ((gaugeOf m (1 - g)).alive && (m.mgmt.linkUp || m.mgmt.pathUp)) +
    16 * bit (if g = 0 then m.mgmt.die1Power else m.mgmt.die0Power)

/-- R478. -/
def leadObj (e : Env) (m : Mach) (g sub : Nat) : Option Obj :=
  let x := m.mgmt
  if sub = 1 then roObj 1 (deviceMode e m)
  else if sub = 2 then roObj 1 (leadKnown m g)
  else if sub = 3 then roObj 1 (roleOf m g)
  else if sub = 4 then roObj 8 (gaugeOf m g).epochSeen
  else if sub = 5 then roObj 4 (remainingWord m g)
  else if sub = 6 then roObj 1 (pathByte m g)
  else if sub = 7 then roObj 8 x.takeStroke
  else if sub = 8 then roObj 8 x.takes.toNat
  else if sub = 9 then numObj .lrw 1 x.preferred
  else if sub = 0x0A then roObj 8 x.rejoins.toNat
  else if sub = 0x0B then roObj 8 x.strokesAdded.toNat
  else if sub = 0x0C then roObj 4 x.rwDiffering
  else none

/-- R466, R518, R521 to R523. -/
def trustObj (m : Mach) (g sub : Nat) : Option Obj :=
  let x := m.mgmt
  let y := gaugeOf m g
  let sel := rwRead m g (rwKey 0x0F00 0x10) x.blockSel
  if sub = 1 then roObj 1 (if inRecovery m g then 2 else x.bootState)
  else if sub = 2 then roObj 1 (if y.recovery = 0 then x.bootResult else y.recovery)
  else if sub = 3 then strObj x.build
  else if sub = 4 then roObj 4 x.svn
  else if sub = 6 then roObj 4 x.msToStroke1
  else if sub = 7 then roObj 4 x.withdrawnByTest
  else if sub = 8 then numObj .rws 1 (storedNow m).memtestStored
  else if sub = 0x10 then numObj .rw 2 sel
  else if sub = 0x11 then domObj .rws (flashBlock (storedNow m).flash sel)
  else if sub = 0x12 then numObj .lrw 1 0
  else if sub = 0x13 then roObj 1 x.session
  else if sub = 0x14 then roObj 1 x.verifyResult
  else if sub = 0x20 then domObj .lrw x.ownerHash
  else if sub = 0x21 then roObj 1 x.fusedSvn
  else if sub = 0x22 then numObj .lrw 1 0
  else if sub = 0x30 then domObj .ro Config.certificateChain
  else if sub = 0x31 then domObj .ro (padTo 64 Config.identityPublic)
  else if sub = 0x32 then strObj Config.serialNumber
  else if sub = 0x40 then domObj .rw y.nonce
  else if sub = 0x41 then numObj .wo 1 0
  else if sub = 0x42 then domObj .ro y.report
  else if sub = 0x43 then roObj 4 (y.attState % 256 + 256 * (y.attResult % 256))
  else if sub = 0xE0 then numObj .rw 4 y.domTarget
  else if sub = 0xE1 then numObj .rw 8 y.domBuffer
  else if sub = 0xE2 then numObj .rw 4 y.domLength
  else if sub = 0xE3 then numObj .wo 1 0
  else if sub = 0xE4 then roObj 4 (y.domStatus % 256 + 256 * (y.domResult % 256))
  else if sub = 0xE5 then roObj 4 y.domMoved
  else none

/-- R467: the object at index.subindex, as gauge `g` answers for it. -/
def objAt (e : Env) (m : Mach) (g idx sub : Nat) : Option Obj :=
  match coreOf idx sub with
  | some (range, c) => coreObj e m range c sub
  | none =>
    if idx = 0x0100 then identityObj e m sub
    else if idx = 0x0200 then powerObj e m g sub
    else if idx = 0x0300 then thermalObj m sub
    else if idx = 0x0400 then linkObj e m sub
    else if idx < 0x0500 then fabricObj e m g idx sub
    else if idx = 0x0500 then memoryObj m g sub
    else if idx = 0x0600 then counterObj e m g sub
    else if idx = 0x0700 then faultObj m g sub
    else if idx = 0x0800 then progressObj e m g sub
    else if idx = 0x0900 then tableObj e m g sub
    else if 0x0910 ≤ idx ∧ idx ≤ 0x091F then roObj 8 (versionWord e m g (256 * (idx - 0x0910) + sub))
    else if idx = 0x0A00 then strokeObj e m g sub
    else if idx = 0x0B00 then leadObj e m g sub
    else if idx = 0x0F00 then trustObj m g sub
    else none

/-- R517: the object as it is served now; in recovery-listen every object but some reads as absent. -/
def servedObj (e : Env) (m : Mach) (g idx sub : Nat) : Option Obj :=
  if inRecovery m g && !servedInRecovery idx sub then none else objAt e m g idx sub

/-- R467: the object is served by the other die's gauge, and the gauges have no contact. -/
def unreached (m : Mach) (g idx sub : Nat) : Bool :=
  match coreOf idx sub with
  | some (_, c) => dieOf c != g && !bothTalk m
  | none => false

/-! ### Reads -/

/-- R450, R454, R460, R467: what a READ over CAN FD answers: a result and the value. -/
def readResult (e : Env) (m : Mach) (g idx sub : Nat) : Nat × List Byte :=
  if unreached m g idx sub then (rUnreachable, [])
  else
    match servedObj e m g idx sub with
    | some { access := .wo, value := _ } => (rBounds, [])
    | some { access := _, value := .num w v } => (rOk, leBytes w v)
    | some { access := _, value := .str b } => (rOk, b)
    | some { access := _, value := .dom _ } => (rBounds, [])
    | none => (rBounds, [])

/-- R460, R461. -/
def readM (g txn idx sub : Nat) (e : Env) (m : Mach) : Mach :=
  if !onBus m g then m
  else if repeated m g 1 txn idx sub then sendCan m g 5 (gaugeOf m g).lastResponse
  else
    let r := readResult e m g idx sub
    respond (freeStep m) g 1 txn idx sub r.1 r.2

/-- R447, R467, R485: the 32 bytes of a slot of the window at endpoint `g`. -/
def slotBytes (e : Env) (m : Mach) (g idx sub : Nat) : List Byte :=
  if !(gaugeOf m g).alive || unreached m g idx sub then List.replicate 32 0xFF#8
  else
    match servedObj e m g idx sub with
    | some { access := .wo, value := _ } => List.replicate 32 0
    | some { access := _, value := .num w v } => padTo 32 (leBytes w v)
    | some { access := _, value := .str b } => padTo 32 b
    | some { access := _, value := .dom _ } => List.replicate 32 0
    | none => List.replicate 32 0

/-- R460. -/
def execRead (g txn idx sub : Nat) : State → Host.Outcome State Fault Refusal := liftM (readM g txn idx sub)

end Sys2Proof.Machine
end

