-- ==== Sys2Proof/Machine/DictWrites.lean ====
section
/-! DEFINITION. Writes of dictionary objects by index and subindex: their validity rules and their effects (R34, R39 to R41, R58,
R192, R204, R258, R297, R345, R368, R377, R397, R408, R448, R451 to R455, R458, R478, R490, R500, R503, R518, R519, R521, R523,
R533, R540). -/

namespace Sys2Proof.Machine

/-- R34: a device virtual address at a multiple of `n`. -/
def vaOk (n v : Nat) : Bool := v % n == 0 && decide (v < 2 ^ 52)

/-- A value in a range is taken; another is refused with BOUNDS. -/
def ranged (lo hi v : Nat) (m m1 : Mach) : Nat × Mach := if lo ≤ v ∧ v ≤ hi then (rOk, m1) else (rBounds, m)

/-- A valid value is taken; another is refused with BOUNDS. -/
def checked (ok : Bool) (m m1 : Mach) : Nat × Mach := if ok then (rOk, m1) else (rBounds, m)

/-- R452: a valid value of an RWS object goes to the flash. -/
def stored (ok : Bool) (idx sub : Nat) (b : List Byte) (m : Mach) : Nat × Mach :=
  if ok then askStore m (.object idx sub b) else (rBounds, m)

/-- R490, R500, R503. -/
def setPower (e : Env) (sub v : Nat) (m : Mach) : Nat × Mach :=
  let p := m.power
  if sub = 1 then ranged 600 1900 v m { m with power := { p with budgetNext := some v } }
  else if sub = 2 then stored (decide (600 ≤ v) && decide (v ≤ 1900)) 0x0200 2 (leBytes 2 v) m
  else if sub = 6 then ranged 60 180 v m { m with power := { p with hostLimitNext := some v } }
  else if sub = 0x0B then
    if v = 1 then askPark false m else if v = 2 then wakeUp e m else if v = 3 then askPark true m else (rBounds, m)
  else if subIn sub 0x10 8 then
    ranged 20 125 v m { m with power := { p with regionLimitsNext := spSet p.regionLimitsNext (sub - 0x10) v } }
  else (rBounds, m)

/-- R490: the batch class of core `c`. -/
def setBatch (e : Env) (c v : Nat) (m : Mach) : Nat × Mach :=
  if !e.v.hasCore c then (rUnitAbsent, m)
  else checked (classOk v) m (m.modCore c (fun x => { x with batchNext := some v }))

/-- R377: each value is below the next. -/
def ascending : List Nat → Bool
  | a :: b :: t => decide (a < b) && ascending (b :: t)
  | _ => true

/-- R377, R500. -/
def setThermal (sub v : Nat) (m : Mach) : Nat × Mach :=
  if subIn sub 1 4 then
    let t := m.hbm.thresholds.set (sub - 1) v
    checked (ascending (t ++ [105])) m { m with hbm := { m.hbm with thresholds := t } }
  else if sub = 0x32 then ranged 90 110 v m { m with power := { m.power with dieLimit := v } }
  else (rBounds, m)

/-- R397. -/
def setLink (e : Env) (sub v : Nat) (m : Mach) : Nat × Mach :=
  let f := m.fabric
  if sub = 1 then stored (decide (v ≤ 8191)) 0x0400 1 (leBytes 2 v) m
  else if sub = 2 then checked (vaOk 0x200000 v) m { m with fabric := { f with exportNext := some v } }
  else if sub = 3 then ranged 10 10000 v m { m with fabric := { f with beatNext := some v } }
  else if sub = 4 then checked (vaOk 0x2000 v) m { m with fabric := { f with collBase := v } }
  else if sub = 7 then retrainRun v e m
  else (rBounds, m)

/-- R12, R408: why a link number of a routing entry is refused. -/
def routeLinkBad (e : Env) (n : Nat) : Option Nat :=
  if n = 127 then none else if 96 ≤ n then some rBounds else if e.v.hasLink n then none else some rUnitAbsent

/-- R408: the entry of destination `d`. -/
def setRoute (e : Env) (d v : Nat) (m : Mach) : Nat × Mach :=
  let r : Route := { primary := natBits v 6 0, alternate := natBits v 14 8, vcOut := natBits v 17 16 }
  if r.vcOut = 3 then (rBounds, m)
  else
    match routeLinkBad e r.primary, routeLinkBad e r.alternate with
    | none, none => (rOk, { m with fabric := { m.fabric with routesNext := spSet m.fabric.routesNext d r } })
    | some c, _ => (c, m)
    | none, some c => (c, m)

/-- R345: a root table is a window-0 physical address. -/
def setMemory (g sub v : Nat) (m : Mach) : Nat × Mach :=
  let rootOk := v % 65536 == 0 && decide (v < 2 ^ 40)
  if sub = 0x10 then checked rootOk m { m with hbm := { m.hbm with rootNext0 := some v } }
  else if sub = 0x11 then checked rootOk m { m with hbm := { m.hbm with rootNext1 := some v } }
  else if sub = 0x50 then
    ranged 16 1000000 v m (rwWrite m g (rwKey 0x0500 0x50) v (fun y => { y with hbm := { y.hbm with retrainLimit := v } }))
  else (rBounds, m)

/-- R192. -/
def setCounter (g sub v : Nat) (m : Mach) : Nat × Mach :=
  let put := rwWrite m g (rwKey 0x0600 sub) v (fun y =>
    { y with tables := { y.tables with counterNext := spSet y.tables.counterNext sub v } })
  if sub = 0x40 then checked (vaOk 0x200000 v) m put
  else if sub = 0x41 then ranged 0 1 v m put
  else (rBounds, m)

/-- R540: the unit that a fence control value names, when its zero bits are 0. -/
def fenceWrite (e : Env) (sub v : Nat) (m : Mach) : Nat × Mach :=
  let on := natBit v 7
  if sub = 0x40 then if natBit v 6 then (rBounds, m) else coreControl (v % 64) on e m
  else if sub = 0x41 then if natBits v 6 3 ≠ 0 then (rBounds, m) else regionControl (v % 8) on e m
  else if natBits v 6 1 ≠ 0 then (rBounds, m) else dieControl (v % 2) on e m

/-- R528: 0x0700.03; records that wait are written as far as the new size leaves room. -/
def setRingSize (g v : Nat) (m : Mach) : Nat × Mach :=
  let m1 := rwWrite m g (rwKey 0x0700 3) v (fun y => { y with faults := { y.faults with sizeLog2 := v } })
  ranged 6 16 v m
    (([0, 1] : List Nat).foldl (fun y r => if ringReached m g r then drainRing r 256 y else y) m1)

/-- R297, R528, R533, R540. -/
def setFault (e : Env) (g sub v : Nat) (m : Mach) : Nat × Mach :=
  if sub = 1 ∨ sub = 2 then ringBaseRun g (sub - 1) v e m
  else if sub = 3 then setRingSize g v m
  else if sub = 4 ∨ sub = 5 then ringHeadRun g (sub - 4) v e m
  else if sub = 0x10 ∨ sub = 0x11 then clearRun g (sub - 0x10) v e m
  else if sub = 0x20 then
    ranged 4096 16777214 v m
      (rwWrite m g (rwKey 0x0700 0x20) v (fun y => { y with mgmt := { y.mgmt with watchdogNext := some v } }))
  else if subIn sub 0x40 3 then fenceWrite e sub v m
  else (rBounds, m)

/-- R204: every descriptor slot is EMPTY. -/
def slotsEmpty (m : Mach) : Bool :=
  (m.tables.die0.slots.all (fun p => dKind (descOn m 0 p.1) == 0)) && (m.tables.die1.slots.all (fun p => dKind (descOn m 1 p.1) == 0))

/-- R204. A tail through this path reached the device in time. -/
def setTable (e : Env) (g sub v : Nat) (m : Mach) : Nat × Mach :=
  let later : Mach := { m with tables := { m.tables with next := spSet m.tables.next sub v } }
  if sub = 1 ∨ sub = 6 then checked (v % 4096 == 0) m later
  else if sub = 2 then ranged 4 12 v m later
  else if sub = 3 then pubTailRun g v true e m
  else if sub = 7 then ranged 6 16 v m later
  else if sub = 8 then ranged 7 13 v m later
  else if sub = 9 then updTailRun g v e m
  else if sub = 0x0C ∨ sub = 0x0D then checked (vaOk 0x100000 v && slotsEmpty m) m later
  else (rBounds, m)

/-- R523: the nonce. -/
def setNonce (g : Nat) (b : List Byte) : Mach → Mach := writeOwn g (fun x => { x with nonce := b })

/-- R518, R519, R521, R523: the numbers of 0x0F00 but for REBOOT and the transfers. -/
def setTrust (e : Env) (g sub v : Nat) (m : Mach) : Nat × Mach :=
  if sub = 8 then stored (decide (v ≤ 1)) 0x0F00 8 (leBytes 1 v) m
  else if sub = 0x10 then
    ranged 0 511 v m (rwWrite m g (rwKey 0x0F00 0x10) v (fun y => { y with mgmt := { y.mgmt with blockSel := v } }))
  else if sub = 0x12 then if v = 1 then beginRun e m else if v = 2 then verifyRun e m else (rBounds, m)
  else if sub = 0x22 then svnRun v e m
  else if sub = 0x41 then attestRun g v e m
  else (rBounds, m)

/-! ### Domain transfers through the window (R466) -/

/-- R452, R465, R518, R521, R523: what is checked when a write of a domain starts: rights, length, hold-up. -/
def domWriteCheck (e : Env) (m : Mach) (g idx sub len : Nat) : Nat :=
  match servedObj e m g idx sub with
  | some { access := a, value := .dom _ } =>
    match writeBarred m g idx sub (a == .rws || a == .lrw) with
    | some code => code
    | none =>
      if len = 0xFFFFFFFF then rReservedCount
      else if sub = 0x11 then
        if m.mgmt.session ≠ 1 ∨ len ≠ blockBytes then rBounds
        else if 16 ≤ m.mgmt.stores.length then rBusy
        else if bankHolds m (.block 0 []) then rOk else rHoldupLow
      else if sub = 0x20 then if len = 64 then rOk else rBounds
      else if sub = 0x40 then if len = 32 then rOk else rBounds
      else rBounds
  | _ => match writeBarred m g idx sub false with | some code => code | none => rBounds

/-- R465: what a read of a domain starts with: its bytes or why there is none. -/
def domReadCheck (e : Env) (m : Mach) (g idx sub : Nat) : Nat × List Byte :=
  match servedObj e m g idx sub with
  | some { access := _, value := .dom b } => (rOk, b)
  | _ => (rBounds, [])

/-- R465: a complete write replaces the whole object at once. -/
def domApply (e : Env) (g sub : Nat) (b : List Byte) (m : Mach) : Nat × Mach :=
  if m.mgmt.leaderless then (rLeaderless, m)
  else if sub = 0x11 then
    if 16 ≤ m.mgmt.stores.length then (rBusy, m)
    else (rOk, pushStore m (.block (rwRead m g (rwKey 0x0F00 0x10) m.mgmt.blockSel) b))
  else if sub = 0x20 then ownerKeyRun b e m
  else (rOk, setNonce g b m)

/-- R466: the transfer ends FAILED with a code before it moves anything. -/
def copyFails (g code : Nat) (m : Mach) : Mach :=
  modGauge (if code = rHoldupLow then countHoldupLow m else m) g
    (fun x => { x with domStatus := 3, domResult := code, domMoved := 0 })

/-- R466: a write of 0x0F00.E3: 1 READ, 2 WRITE. -/
def copyRun (g n : Nat) (e : Env) (m : Mach) : Nat × Mach :=
  let x := gaugeOf m g
  let idx := x.domTarget / 256 % 65536
  let sub := x.domTarget % 256
  let begins (w : Bool) (len : Nat) (b : List Byte) : Mach :=
    modGauge m g (fun y => { y with
      domStatus := 1, domResult := 0, domMoved := 0, domLapsed := none
      dom := some { index := idx, sub := sub, isWrite := w, window := true, length := len, nextSeg := 0, data := b } })
  if n = 1 then
    if x.dom.isSome then (rBusy, m)
    else
      let r := domReadCheck e m g idx sub
      if r.1 ≠ rOk then (rOk, copyFails g r.1 m)
      else if x.domLength < r.2.length then (rOk, copyFails g rBounds m)
      else (rOk, begins false r.2.length r.2)
  else if n = 2 then
    if x.dom.isSome then (rBusy, m)
    else
      let code := domWriteCheck e m g idx sub x.domLength
      if code ≠ rOk then (rOk, copyFails g code m) else (rOk, begins true x.domLength [])
  else (rBounds, m)

/-- R451, R466: 0x0F00.E0 to .E3, written at gauge `g`. -/
def setCopy (e : Env) (g sub v : Nat) (m : Mach) : Nat × Mach :=
  if sub = 0xE0 then (rOk, writeOwn g (fun x => { x with domTarget := v % 2 ^ 24 }) m)
  else if sub = 0xE1 then checked (v % 64 == 0) m (writeOwn g (fun x => { x with domBuffer := v }) m)
  else if sub = 0xE2 then
    if v = 0xFFFFFFFF then (rReservedCount, m) else (rOk, writeOwn g (fun x => { x with domLength := v }) m)
  else copyRun g v e m

/-! ### The dispatch of a write -/

/-- Every object but those of the stroke clock. -/
def setObj (e : Env) (g idx sub v : Nat) (m : Mach) : Nat × Mach :=
  if idx = 0x0100 then
    if sub = 0x10 then stored (v % 2 == 0 && decide (2 ≤ v) && decide (v ≤ 124)) 0x0100 0x10 (leBytes 1 v) m else (rBounds, m)
  else if idx = 0x0200 then setPower e sub v m
  else if idx = 0x0201 then setBatch e sub v m
  else if idx = 0x0300 then setThermal sub v m
  else if idx = 0x0400 then setLink e sub v m
  else if 0x0440 ≤ idx ∧ idx ≤ 0x045F then setRoute e (256 * (idx - 0x0440) + sub) v m
  else if idx = 0x0500 then setMemory g sub v m
  else if idx = 0x0600 then setCounter g sub v m
  else if idx = 0x0700 then setFault e g sub v m
  else if idx = 0x0800 then totalRun g sub v e m
  else if idx = 0x0900 then setTable e g sub v m
  else if idx = 0x0B00 then if sub = 9 then handoverRun v e m else (rBounds, m)
  else if idx = 0x0F00 then if 0xE0 ≤ sub then setCopy e g sub v m else setTrust e g sub v m
  else (rBounds, m)

/-- R58: why an alignment control word is refused. -/
def alignBad (a : AlignCtl) : Option Nat :=
  if a.lossCount = 0 then some rBounds else if a.lossCount = 15 then some rReservedCount else none

/-- R39 to R41, R58: the objects of the stroke clock. -/
def strokeRun (sub n : Nat) : DictRun := fun v k m =>
  if sub = 2 then periodRun n v k m
  else if sub = 3 then (rOk, { k with target := n }, m)
  else if sub = 4 then windowRun n v k m
  else if sub = 7 then
    match alignBad (alignCtlOf n) with
    | some code => (code, k, m)
    | none => (rOk, { k with alignNext := some (alignCtlOf n) }, m)
  else if sub = 0x0A then if n ≤ 2000 then (rOk, { k with inDelay := n }, m) else (rBounds, k, m)
  else (rBounds, k, m)

/-- The write of an object that gauge `g` has found and whose width the write has. -/
def objRun (g idx sub n : Nat) : DictRun := fun v k m =>
  if idx = 0x0A00 then strokeRun sub n v k m
  else
    let r := setObj { v := v, k := k } g idx sub n m
    (r.1, k, r.2)

/-- R448, R450, R454: a refused write. -/
def refusedRun (code : Nat) : DictRun := fun _ k m => (code, k, m)

/-- R448, R450, R454, R460: the value that a write brings to an object of a width: in the window exactly that wide, over CAN FD
followed by zeros. -/
def fitsWidth (via : Via) (bytes : List Byte) (w : Nat) : Bool :=
  match via with
  | .window _ => bytes.length == w
  | .can _ _ => decide (bytes.length ≤ 56) && allZero (bytes.drop w)

/-- R519: a write of REBOOT to the image control. -/
def isReboot (via : Via) (idx sub : Nat) (bytes : List Byte) : Bool :=
  idx == 0x0F00 && sub == 0x12 && fitsWidth via bytes 1 && leNat (bytes.take 1) == 3

/-- R448, R450, R460, R467: a write of an object by its number. -/
def writeObj (via : Via) (idx sub : Nat) (bytes : List Byte) (v : Variant) (k : Strokes) (m : Mach) : Strokes × Mach :=
  let g := viaGauge via
  let e : Env := { v := v, k := k }
  if isReboot via idx sub bytes then rebootM via v k m
  else if unreached m g idx sub then dictWrite via idx sub false (refusedRun rUnreachable) v k m
  else
    match objAt e m g idx sub with
    | some { access := a, value := .num w _ } =>
      if a = .ro ∨ !fitsWidth via bytes w then dictWrite via idx sub false (refusedRun rBounds) v k m
      else dictWrite via idx sub (a == .rws || a == .lrw) (objRun g idx sub (leNat (bytes.take w))) v k m
    | _ => dictWrite via idx sub false (refusedRun rBounds) v k m

/-- R460: a request with no OP of the table. -/
def oddRequest (g op txn idx sub : Nat) (m : Mach) : Mach :=
  if !onBus m g then m
  else if repeated m g op txn idx sub then sendCan m g 5 (gaugeOf m g).lastResponse
  else respond m g op txn idx sub rBounds []

/-- R460: a WRITE request, or one whose OP names nothing. The OPs of the other requests come with their own commands. -/
def requestM (g op txn idx sub : Nat) (bytes : List Byte) (v : Variant) (k : Strokes) (m : Mach) : Strokes × Mach :=
  if op = 2 then writeObj (.can g txn) idx sub bytes v k m
  else if op = 0 ∨ 6 < op then (k, oddRequest g op txn idx sub m)
  else (k, m)

/-- R460. -/
def execWrite (g : Nat) (x : ReqHead) (idx sub : Nat) (bytes : List Byte) : State → Host.Outcome State Fault Refusal :=
  liftK (requestM g x.op x.txn idx sub bytes)

end Sys2Proof.Machine
end

