-- ==== Sys2Proof/Machine/Domains.lean ====
section
/-! DEFINITION. Domain transfers over CAN FD and through the window (R454, R460, R461, R465, R466). -/

namespace Sys2Proof.Machine

/-! ### CAN FD (R465) -/

/-- R461: a request that gauge `g` answers anew. -/
def request (g op txn idx sub : Nat) (f : Env → Mach → Mach) (e : Env) (m : Mach) : Mach :=
  if !onBus m g then m
  else if repeated m g op txn idx sub then sendCan m g 5 (gaugeOf m g).lastResponse
  else f e m

/-- R465: a transfer opens, for an object that holds or takes at least one byte. -/
def openDom (g idx sub : Nat) (w : Bool) (len : Nat) (b : List Byte) (m : Mach) : Mach :=
  let d : Dom := { index := idx, sub := sub, isWrite := w, window := false, length := len, nextSeg := 0, data := b }
  modGauge m g (fun x => { x with domLapsed := none, dom := if len = 0 then none else some d })

def domReadStartM (g txn idx sub : Nat) : Env → Mach → Mach :=
  request g 3 txn idx sub (fun e m =>
    let r := domReadCheck e m g idx sub
    if r.1 ≠ rOk then respond m g 3 txn idx sub r.1 []
    else if (gaugeOf m g).dom.isSome then respond m g 3 txn idx sub rBusy []
    else respond (openDom g idx sub false r.2.length r.2 m) g 3 txn idx sub rOk (leBytes 4 r.2.length))

def domWriteStartM (g txn idx sub len : Nat) : Env → Mach → Mach :=
  request g 4 txn idx sub (fun e m =>
    let code := domWriteCheck e m g idx sub len
    if code ≠ rOk then respond (if code = rHoldupLow then countHoldupLow m else m) g 4 txn idx sub code []
    else if (gaugeOf m g).dom.isSome then respond m g 4 txn idx sub rBusy []
    else respond (openDom g idx sub true len [] m) g 4 txn idx sub rOk [])

/-- The transfer over CAN FD that a request names. -/
def openOn (x : Gauge) (idx sub : Nat) : Option Dom :=
  x.dom.filter (fun d => !d.window && d.index == idx && d.sub == sub)

def endDom (g : Nat) (m : Mach) : Mach := modGauge m g (fun x => { x with dom := none })

def keepDom (g : Nat) (d : Dom) (m : Mach) : Mach := modGauge m g (fun x => { x with dom := some d })

/-- R465: segment `seg` of an open transfer, in order. The result, the bytes of the response, the state. -/
def segmentRun (e : Env) (g : Nat) (d : Dom) (seg : Nat) (data : List Byte) (m : Mach) : Nat × List Byte × Mach :=
  if seg ≠ d.nextSeg then (rSequence, [], endDom g m)
  else if d.isWrite then
    let n := min 56 (d.length - 56 * seg)
    let b := d.data ++ padTo n data
    if b.length < d.length then (rOk, leBytes 4 seg, keepDom g { d with nextSeg := seg + 1, data := b } m)
    else
      let r := domApply e g d.sub b (endDom g m)
      (r.1, leBytes 4 seg, r.2)
  else
    let b := (d.data.drop (52 * seg)).take 52
    let m1 := if d.length ≤ 52 * (seg + 1) then endDom g m else keepDom g { d with nextSeg := seg + 1 } m
    (rOk, leBytes 4 seg ++ b, m1)

/-- R465: a segment of no open transfer: the one that was abandoned for idling answers TIMEOUT, once. -/
def domSegmentM (g txn idx sub seg : Nat) (data : List Byte) : Env → Mach → Mach :=
  request g 5 txn idx sub (fun e m =>
    match openOn (gaugeOf m g) idx sub with
    | some d =>
      let r := segmentRun e g d seg data m
      respond r.2.2 g 5 txn idx sub r.1 r.2.1
    | none =>
      if (gaugeOf m g).domLapsed = some (idx, sub) then
        respond (modGauge m g (fun x => { x with domLapsed := none })) g 5 txn idx sub rTimeout []
      else respond m g 5 txn idx sub rBounds [])

def domAbortM (g txn idx sub : Nat) : Env → Mach → Mach :=
  request g 6 txn idx sub (fun _ m =>
    match openOn (gaugeOf m g) idx sub with
    | some _ => respond (endDom g m) g 6 txn idx sub rOk []
    | none => respond m g 6 txn idx sub rBounds [])

/-- R465: 1 s without a request. -/
def domTimeoutM (g : Nat) (_ : Env) (m : Mach) : Mach :=
  match (gaugeOf m g).dom with
  | some d => if d.window ∨ 2 ≤ g then m else modGauge m g (fun x => { x with dom := none, domLapsed := some (d.index, d.sub) })
  | none => m

/-! ### The window (R466) -/

/-- R466: the gauge moves the bytes between the object and host-die memory; the transfer ends DONE or FAILED. -/
def copyDoneM (g : Nat) (e : Env) (m : Mach) : Mach :=
  let x := gaugeOf m g
  match x.dom with
  | none => m
  | some d =>
    if !d.window || !x.alive || !(endpoint m g).trained || decide (2 ≤ g) then m
    else
      let finished (code n : Nat) (m : Mach) : Mach :=
        modGauge m g (fun y => { y with domStatus := if code = rOk then 2 else 3, domResult := code, domMoved := n })
      if d.isWrite then
        let r := domApply e g d.sub (hostRead m x.domBuffer d.length) (endDom g m)
        finished r.1 d.length r.2
      else finished rOk d.length (hostWrite (endDom g m) x.domBuffer d.data)

/-! ### The commands -/

/-- R465. -/
def execDomReadStart (g txn idx sub : Nat) : State → Host.Outcome State Fault Refusal := liftM (domReadStartM g txn idx sub)
/-- R465. -/
def execDomWriteStart (g txn idx sub len : Nat) : State → Host.Outcome State Fault Refusal :=
  liftM (domWriteStartM g txn idx sub len)
/-- R465. -/
def execDomSegment (g txn idx sub seg : Nat) (data : List Byte) : State → Host.Outcome State Fault Refusal :=
  liftM (domSegmentM g txn idx sub seg data)
/-- R465. -/
def execDomAbort (g txn idx sub : Nat) : State → Host.Outcome State Fault Refusal := liftM (domAbortM g txn idx sub)
/-- R465. -/
def execDomTimeout (g : Nat) : State → Host.Outcome State Fault Refusal := liftM (domTimeoutM g)
/-- R466. -/
def execDomCopyRead (ep : Nat) : State → Host.Outcome State Fault Refusal :=
  liftM (dictM (.window ep) 0x0F00 0xE3 false (copyRun ep 1))
/-- R466. -/
def execDomCopyWrite (ep : Nat) : State → Host.Outcome State Fault Refusal :=
  liftM (dictM (.window ep) 0x0F00 0xE3 false (copyRun ep 2))
/-- R466. -/
def execDomCopyEnd (g : Nat) : State → Host.Outcome State Fault Refusal := liftM (copyDoneM g)

end Sys2Proof.Machine
end

