-- ==== Sys2Proof/Machine/HostRegs.lean ====
section
/-! DEFINITION. The registers of BAR0 and the slots of BAR2 as the host die reads and writes them (R423, R425 to R427, R431,
R433, R435, R438, R439, R442, R447, R448, R563). -/

namespace Sys2Proof.Machine

/-! ### The layout (R426, R563) -/

/-- R426: a block of BAR0. -/
inductive RegBlock where
  | control
  | comp (r : Nat)
  | intake (i : Nat)
  | plan (c : Nat)
  | ctx (c k : Nat)
  | reserved
  deriving DecidableEq, Repr, Inhabited

/-- R426: the block of an offset and the offset within it. -/
def regBlock (off : Nat) : RegBlock × Nat :=
  if off < 0x1000 then (.control, off)
  else if off < 0x1000 + 32 * 64 then (.comp ((off - 0x1000) / 32), off % 32)
  else if 0x10040 ≤ off ∧ off < 0x10000 + 64 * 1025 then (.intake ((off - 0x10000) / 64), off % 64)
  else if 0x100000 ≤ off ∧ off < 0x140000 then
    let c := (off - 0x100000) / 0x1000
    let r := off % 0x1000
    if r < 0x100 then (.plan c, r)
    else if r < 0x900 then (.ctx c ((r - 0x100) / 0x80), r % 0x80)
    else (.reserved, 0)
  else (.reserved, 0)

/-- R563: offsets and widths of the registers of a block; DESC as its three words. -/
def blockRegs : RegBlock → List (Nat × Nat)
  | .control => [(0, 4), (8, 4), (0x10, 4), (0x18, 4), (0x20, 4), (0x24, 4)]
  | .comp _ => [(0, 8), (8, 1), (9, 1), (0xA, 2), (0xC, 4), (0x10, 4), (0x18, 8)]
  | .intake _ => [(0, 8), (8, 8), (0x10, 8), (0x18, 4), (0x1C, 4), (0x20, 8), (0x28, 8), (0x30, 8), (0x38, 8)]
  | .plan _ => [(0, 8), (8, 4), (0xC, 4), (0x10, 4), (0x14, 4)]
  | .ctx _ _ => [(0, 8), (8, 8), (0x10, 4), (0x14, 4), (0x18, 4), (0x1C, 4), (0x20, 4), (0x24, 4), (0x28, 4)]
  | .reserved => []

/-- R423: the die that a block belongs to; a block of the device as a whole belongs to the endpoint's. -/
def blockDie (m : Mach) (ep : Nat) : RegBlock → Nat
  | .intake i => ringDie m ep i
  | .plan c => dieOf c
  | .ctx c _ => dieOf c
  | _ => ep

/-! ### Reads (R426, R563) -/

/-- R438: word `w` of the descriptor last applied. -/
def descWord (d : IntakeDesc) (w : Nat) : Nat :=
  if w = 0 then
    bit d.enable + 2 * bit d.fill + 4 * bit d.drop + 16 * (d.ageLimit % 16) + 2 ^ 8 * (d.sizeLog2 % 32) +
      2 ^ 16 * (d.entryLog2 % 16) + 2 ^ 20 * (d.comp % 64) + 2 ^ 32 * (d.cap % 65536)
  else if w = 1 then d.base else d.reqBase

def controlValue (m : Mach) (ep reg : Nat) : Nat :=
  let x := endpoint m ep
  let other := endpoint m (1 - ep)
  if reg = 0 then x.attach % 8 + 8 * bit x.rate16 + 16 * bit other.trained + 32 * (ep % 2)
  else if reg = 8 then 0x05030004
  else if reg = 0x10 then m.host.nativeMinor % 256 + 256 * (m.host.compatMinor % 256) + 65536 * bit m.host.compat
  else if reg = 0x18 then x.refusalOffset % 2 ^ 22 + 2 ^ 24 * (x.refusalCode % 256)
  else if reg = 0x20 then x.resultCount.toNat + 65536 * (x.resultCode % 256)
  else x.resultObject

def compValue (x : CompRing) (reg : Nat) : Nat :=
  if reg = 0 then x.base else if reg = 8 then x.sizeLog2 else if reg = 9 then x.vector else if reg = 0xA then x.moderation
  else if reg = 0xC then x.head.toNat else if reg = 0x10 then x.tail.toNat else x.lost.toNat

def intakeValue (x : Intake) (reg : Nat) : Nat :=
  if reg < 0x18 then descWord x.desc (reg / 8) else if reg = 0x18 then 0 else if reg = 0x1C then x.head.toNat
  else if reg = 0x20 then x.taken.toNat else if reg = 0x28 then x.late.toNat else if reg = 0x30 then x.dropped.toNat
  else x.leftOver.toNat

def planValue (x : Core) (reg : Nat) : Nat :=
  if reg = 0 then x.planBase else if reg = 8 then x.planSize else if reg = 0xC then 0
  else if reg = 0x10 then x.planHead.toNat else x.planComp

def ctxValue (x : Ctx) (reg : Nat) : Nat :=
  if reg = 0 then x.descriptor.toNat else if reg = 8 then x.subBase else if reg = 0x10 then x.subSize
  else if reg = 0x18 then x.subHead.toNat else if reg = 0x1C then x.comp
  else if reg = 0x24 then ((x.pendAction.map (fun p => actionCode p.1)).getD 0) % 8 + 8 * bit x.held
  else if reg = 0x28 then stateObject x
  else 0

/-- The value of the register at `reg` of a block; a WO register, and a block of a fused-off core, reads 0. -/
def regValue (e : Env) (m : Mach) (ep : Nat) (b : RegBlock) (reg : Nat) : Nat :=
  match b with
  | .control => controlValue m ep reg
  | .comp r => compValue (m.compRing r) reg
  | .intake i => intakeValue (m.intake i) reg
  | .plan c => if e.v.hasCore c then planValue (m.core c) reg else 0
  | .ctx c k => if e.v.hasCore c then ctxValue (m.ctx c k) reg else 0
  | .reserved => 0

/-- A free value of `n` bytes. -/
def openBytes (m : Mach) (n : Nat) : List Byte := leBytes n (freeNow m)

/-- R423, R427, R563: a read of BAR0. A read that lies within no register but touches one has no stated value. -/
def barReadM (ep off len : Nat) (e : Env) (m : Mach) : Mach :=
  let x := endpoint m ep
  let b := (regBlock off).1
  let r := (regBlock off).2
  if 2 ≤ ep ∨ !x.trained ∨ x.attach = 5 then m
  else if dieFenced m ep then pushRead m (List.replicate len 0xFF) false
  else if !reaches e m ep (blockDie m ep b) then pushRead (halfUnreachable e m ep) (List.replicate len 0xFF) false
  else
    match (blockRegs b).find? (fun q => decide (q.1 ≤ r) && decide (r + len ≤ q.1 + q.2)) with
    | some q =>
      if len = 0 ∨ off % len ≠ 0 then pushRead (freeStep m) (openBytes m len) false
      else pushRead m (((leBytes q.2 (regValue e m ep b q.1)).drop (r - q.1)).take len) false
    | none =>
      if (blockRegs b).any (fun q => overlaps r len q.1 q.2) then pushRead (freeStep m) (openBytes m len) false
      else pushRead m (List.replicate len 0) false

/-- R447, R485: a read of the window. -/
def windowReadM (ep off len : Nat) (e : Env) (m : Mach) : Mach :=
  let x := endpoint m ep
  if 2 ≤ ep ∨ !x.trained then m
  else if dieFenced m ep then pushRead m (List.replicate len 0xFF) false
  else
    let slots := (List.range ((off % 32 + len + 31) / 32)).flatMap (fun i =>
      slotBytes e m ep ((off / 32 + i) / 256) ((off / 32 + i) % 256))
    pushRead (freeStep m) ((slots.drop (off % 32)).take len) false

/-! ### Writes (R425, R431, R435, R442, R563) -/

/-- A valid register value is taken; another is refused with BOUNDS. -/
def regTake (ep off : Nat) (ok : Bool) (m1 : Mach) (e : Env) (m : Mach) : Mach := if ok then m1 else refuse e m ep off cBounds

/-- R442. -/
def compRegM (ep r reg v : Nat) : Env → Mach → Mach :=
  compWrite ep r reg (fun e m =>
    let x := m.compRing r
    let put (y : CompRing) : Mach := drainStore r 1024 (m.setComp r y)
    if reg = 0 then regTake ep (compOff r reg) (v % 4096 == 0) (put { x with base := v }) e m
    else if reg = 8 then regTake ep (compOff r reg) (decide (6 ≤ v) && decide (v ≤ 20)) (put { x with sizeLog2 := v }) e m
    else if reg = 9 then m.setComp r { x with vector := v }
    else if reg = 0xA then regTake ep (compOff r reg) (decide (v ≤ 1000)) (m.setComp r { x with moderation := v }) e m
    else refuse e m ep (compOff r reg) cBounds)

/-- R435. -/
def planRegM (ep c reg v : Nat) : Env → Mach → Mach :=
  coreWrite ep (planOff c reg) c (fun e m =>
    let x := m.core c
    let still := x.planHead == x.planTail
    if reg = 0 then regTake ep (planOff c reg) (still && vaOk 4096 v) (m.setCore c { x with planBase := v }) e m
    else if reg = 8 then
      regTake ep (planOff c reg) (still && decide (4 ≤ v) && decide (v ≤ 10)) (m.setCore c { x with planSize := v }) e m
    else if reg = 0x14 then regTake ep (planOff c reg) (decide (v < 64)) (m.setCore c { x with planComp := v }) e m
    else refuse e m ep (planOff c reg) cBounds)

/-- R433: the action of a code. -/
def actionOf (v : Nat) : Option Action :=
  if v = 1 then some .preempt else if v = 2 then some .release else if v = 3 then some .cancel
  else if v = 4 then some .kill else if v = 5 then some .reset else if v = 6 then some .resume else none

/-- R431: the ring registers of a context. -/
def ctxRegM (ep c k reg v : Nat) : Env → Mach → Mach :=
  ctxWrite ep c k reg (fun e m =>
    let quiet := idleOnly m c k
    let off := ctxOff c k reg
    if reg = 8 then regTake ep off (quiet && vaOk 4096 v) (m.modCtx c k (fun x => { x with subBase := v })) e m
    else if reg = 0x10 then
      regTake ep off (quiet && decide (4 ≤ v) && decide (v ≤ 12)) (m.modCtx c k (fun x => { x with subSize := v })) e m
    else if reg = 0x1C then
      regTake ep off (quiet && decide (v < 64)) (m.modCtx c k (fun x => { x with comp := v })) e m
    else refuse e m ep off cBounds)

/-- R563: a write that covers exactly the register at `reg` of a block. -/
def regWriteM (ep off v : Nat) (b : RegBlock) (reg : Nat) (e : Env) (m : Mach) : Mach :=
  match b with
  | .control => if reg = 0x10 then versionSelM ep v e m else barWrite ep off ep (fun e m => refuse e m ep off cBounds) e m
  | .comp r => if reg = 0xC then completionHeadM ep r v e m else compRegM ep r reg v e m
  | .intake i =>
    if reg < 0x18 then intakeDescM ep i (reg / 8) v e m
    else if reg = 0x18 then intakeTailM ep i v e m
    else intakeWrite ep i reg (fun e m => refuse e m ep off cBounds) e m
  | .plan c => if reg = 0xC then planTailM ep c v e m else planRegM ep c reg v e m
  | .ctx c k =>
    if reg = 0 then descriptorM ep c k v e m
    else if reg = 0x14 then subTailM ep c k v e m
    else if reg = 0x20 then
      match actionOf v with
      | some a => actionM ep c k a e m
      | none => ctxRegM ep c k reg v e m
    else ctxRegM ep c k reg v e m
  | .reserved => barWrite ep off ep (fun e m => refuse e m ep off cBounds) e m

/-- R563: a write of a width that covers no register exactly is refused with BOUNDS. -/
def regMissM (ep off : Nat) (b : RegBlock) : Env → Mach → Mach :=
  match b with
  | .plan c => coreWrite ep off c (fun e m => refuse e m ep off cBounds)
  | .ctx c _ => coreWrite ep off c (fun e m => refuse e m ep off cBounds)
  | .intake i => fun e m => barWrite ep off (ringDie m ep i) (fun e m => refuse e m ep off cBounds) e m
  | _ => barWrite ep off ep (fun e m => refuse e m ep off cBounds)

/-- R426, R563: a write of BAR0. -/
def barWriteM (ep off width v : Nat) (e : Env) (m : Mach) : Mach :=
  let b := (regBlock off).1
  let r := (regBlock off).2
  if (blockRegs b).contains (r, width) then regWriteM ep off (v % 256 ^ width) b r e m else regMissM ep off b e m

/-- R447, R448: a write of the window; one that does not start a slot is refused with BOUNDS. -/
def slotWriteM (ep off width n : Nat) (v : Variant) (k : Strokes) (m : Mach) : Strokes × Mach :=
  let idx := off / 8192
  let sub := off / 32 % 256
  if dieFenced m ep then (k, m)
  else if off % 32 = 0 then writeObj (.window ep) idx sub (leBytes width n) v k m
  else dictWrite (.window ep) idx sub false (refusedRun rBounds) v k m

/-- R423, R426, R448, R563: a register write of BAR0 (4 MiB) or BAR2 (32 MiB). -/
def registerM (ep bar off width n : Nat) (v : Variant) (k : Strokes) (m : Mach) : Strokes × Mach :=
  if 2 ≤ ep then (k, m)
  else if bar = 2 then if off < 2 ^ 25 then slotWriteM ep off width n v k m else (k, m)
  else if bar = 0 ∧ off < 2 ^ 22 then (k, barWriteM ep off width n { v := v, k := k } m)
  else (k, m)

/-- R426, R448, R563. -/
def execRegisterWrite (ep bar off width n : Nat) : State → Host.Outcome State Fault Refusal := liftK (registerM ep bar off width n)

/-! ### Device memory (R445, R446) -/

/-- R445: the memory at an offset of a window: HBM at a physical address with its attribute, a tray, or nothing. -/
inductive HostPlace where
  | hbm (pa : Nat) (detect : Bool)
  | tray (core a : Nat)
  | outside
  deriving DecidableEq, Repr, Inhabited

def hostPlace (window a : Nat) : HostPlace :=
  if window < 2 then if a < 2 ^ 40 then .hbm a (window == 1) else .outside
  else if window < 4 then if a < 5 * 2 ^ 40 then .hbm (2 ^ 40 + a) (window == 3) else .outside
  else if window = 4 ∧ a < 2 ^ 31 then .tray (a / trayBytes) (a % trayBytes)
  else .outside

/-- R446: why an access to a place reads poison and discards writes: its record, and nothing when the place is served. -/
def hostRefused (e : Env) (m : Mach) (ep : Nat) : HostPlace → Option Mach
  | .hbm pa _ =>
    if !reaches e m ep (stackOf pa / 8) then some (if dieFenced m ep then m else halfUnreachable e m ep)
    else if winOf pa ≠ 0 ∧ e.v.train = false then some (hostAbsent e m ep)
    else if !hbmServes m pa || frameWithdrawn m (stackOf pa) (offOf pa / 2 ^ 21) then some (hostRange e m ep)
    else if lostBlock m pa then some m
    else none
  | .tray c _ =>
    if !reaches e m ep (dieOf c) then some (if dieFenced m ep then m else halfUnreachable e m ep)
    else if !e.v.hasCore c then some (hostAbsent e m ep)
    else if !(m.core c).up then some (hostRange e m ep)
    else none
  | .outside => some (hostRange e m ep)

/-- R356, R366, R446: bytes of one place within 64 bytes, and poison. -/
def hostGet (e : Env) (m : Mach) (ep n : Nat) (p : HostPlace) : Mach × List Byte × Bool :=
  match hostRefused e m ep p with
  | some m1 => (freeStep m1, openBytes m n, true)
  | none =>
    match p with
    | .hbm pa detect =>
      let r := hbmRead e m pa n detect
      if r.2.2 then (freeStep r.1, openBytes m n, true) else r
    | .tray c a =>
      match trayBad m c [(a, n)] with
      | some w =>
        let m1 := raiseFault m (dieOf c) { mkFault e m (dieOf c) famMemory 0x13 0 with core := c, addr := w }
        (freeStep (noteTray e c m1), openBytes m n, true)
      | none => (trayCount m c [(a, n)], trayRead m c a n, false)
    | .outside => (m, [], true)

/-- R446: one place within 64 bytes is written, or the write is discarded. -/
def hostPut (e : Env) (ep : Nat) (data : List Byte) (p : HostPlace) (m : Mach) : Mach :=
  match hostRefused e m ep p with
  | some m1 => m1
  | none =>
    match p with
    | .hbm pa detect =>
      if winOf pa = 0 then hbmWrite e m pa data detect else glueM (winOf pa) (.host ep) (plainOf pa) detect data e m
    | .tray c a => trayWrite m c a data
    | .outside => m

/-- A read line by line: state, bytes, poison. -/
def hostLines (e : Env) (ep window : Nat) : Nat → Nat → Nat → Mach → Mach × List Byte × Bool
  | 0, _, _, m => (m, [], false)
  | fuel + 1, a, n, m =>
    if n = 0 then (m, [], false)
    else
      let k := min n (64 - a % 64)
      let r := hostGet e m ep k (hostPlace window a)
      let q := hostLines e ep window fuel (a + k) (n - k) r.1
      (q.1, r.2.1 ++ q.2.1, r.2.2 || q.2.2)

/-- A write line by line. -/
def hostStore (e : Env) (ep window : Nat) : Nat → Nat → List Byte → Mach → Mach
  | 0, _, _, m => m
  | fuel + 1, a, data, m =>
    if data.isEmpty then m
    else
      let k := 64 - a % 64
      hostStore e ep window fuel (a + k) (data.drop k) (hostPut e ep (data.take k) (hostPlace window a) m)

/-- The endpoint answers CXL.mem. -/
def memAnswers (m : Mach) (ep : Nat) : Bool := decide (ep < 2) && (endpoint m ep).trained && (endpoint m ep).attach != 5

def memReadM (ep window a len : Nat) (e : Env) (m : Mach) : Mach :=
  if !memAnswers m ep then m
  else
    let r := hostLines e ep window (len / 64 + 2) a len m
    pushRead r.1 r.2.1 r.2.2

/-- R381, R446: a glue write that is not whole elements on element boundaries applies none. -/
def memWriteM (ep window a : Nat) (data : List Byte) (e : Env) (m : Mach) : Mach :=
  if !memAnswers m ep then m
  else
    match hostPlace window a with
    | .hbm pa detect =>
      if winOf pa ≠ 0 ∧ (hostRefused e m ep (.hbm pa detect)).isNone ∧ !glueAligned (winOf pa) pa data.length then hostRange e m ep
      else hostStore e ep window (data.length / 64 + 2) a data m
    | _ => hostStore e ep window (data.length / 64 + 2) a data m

/-- R422: a read of the configuration space. -/
def configReadM (ep a len : Nat) (_ : Env) (m : Mach) : Mach :=
  if 2 ≤ ep ∨ !(endpoint m ep).trained then m
  else pushRead m ((List.range len).map (fun i => Config.configSpace ep (endpoint m ep).config ((a + i) % 4096))) false

/-- R422: a write of the configuration space. -/
def configWriteM (ep a : Nat) (data : List Byte) (m : Mach) : Mach :=
  if 2 ≤ ep ∨ !(endpoint m ep).trained then m
  else modEndpoint m ep (fun x =>
    { x with config := x.config ++ ((List.range data.length).zip data).map (fun p => ((a + p.1) % 4096, p.2)) })

def hostReadM (ep : Nat) (space : HostSpace) (a len : Nat) : Env → Mach → Mach :=
  match space with
  | .mem w => memReadM ep w a len
  | .bar0 => barReadM ep (a % 2 ^ 22) len
  | .bar2 => windowReadM ep (a % 2 ^ 25) len
  | .config => configReadM ep a len

/-- R423, R446, R447, R563. -/
def execHostMemRead (ep : Nat) (space : HostSpace) (a len : Nat) : State → Host.Outcome State Fault Refusal :=
  liftM (hostReadM ep space a len)
/-- R381, R446. Windows 5 and 6 are none of R445: the host writes its own memory, where its rings lie (R432, R435, R438; log 60), or
the configuration space (R422; log 69). -/
def hostWriteM (ep window a : Nat) (data : List Byte) (e : Env) (m : Mach) : Mach :=
  if window = 5 then hostWrite m a data else if window = 6 then configWriteM ep a data m else memWriteM ep window a data e m

/-- R446. -/
def execHostMemWrite (ep window a : Nat) (data : List Byte) : State → Host.Outcome State Fault Refusal :=
  liftM (hostWriteM ep window a data)

end Sys2Proof.Machine
end

