-- ==== Sys2Proof/Machine/Dispatch.lean ====
section
/-! DEFINITION. One arm per command. -/

namespace Sys2Proof.Machine

def exec (i : Instr) (s : State) : Host.Outcome State Fault Refusal :=
  match i with
  | .boundary obs => Sys2Proof.Machine.execBoundary obs s
  | .windowEnd half extended => Sys2Proof.Machine.execWindowEnd half extended s
  | .windowExtended half => Sys2Proof.Machine.execWindowExtended half s
  | .pendingPeriodWrite via us => Sys2Proof.Machine.execPendingPeriodWrite via us s
  | .windowLengthWrite via us => Sys2Proof.Machine.execWindowLengthWrite via us s
  | .strokeInEdge ns width => Sys2Proof.Machine.execStrokeInEdge ns width s
  | .alignmentLock => Sys2Proof.Machine.execAlignmentLock s
  | .sourceLoss => Sys2Proof.Machine.execSourceLoss s
  | .pass core ctx w => Sys2Proof.Machine.execPass core ctx w s
  | .preload core ctx w => Sys2Proof.Machine.execPreload core ctx w s
  | .swap core ctx w => Sys2Proof.Machine.execSwap core ctx w s
  | .drain core ctx w => Sys2Proof.Machine.execDrain core ctx w s
  | .passFill core => Sys2Proof.Machine.execPassFill core s
  | .passStreamingEnd core => Sys2Proof.Machine.execPassStreamingEnd core s
  | .preloadLoadEnd core => Sys2Proof.Machine.execPreloadLoadEnd core s
  | .tileDrainEnd core => Sys2Proof.Machine.execTileDrainEnd core s
  | .elem core ctx w => Sys2Proof.Machine.execElem core ctx w s
  | .reduce core ctx w => Sys2Proof.Machine.execReduce core ctx w s
  | .norm core ctx w => Sys2Proof.Machine.execNorm core ctx w s
  | .smaxBlock core ctx w => Sys2Proof.Machine.execSmaxBlock core ctx w s
  | .smaxMerge core ctx w => Sys2Proof.Machine.execSmaxMerge core ctx w s
  | .smaxFinal core ctx w => Sys2Proof.Machine.execSmaxFinal core ctx w s
  | .wideAdd core ctx w => Sys2Proof.Machine.execWideAdd core ctx w s
  | .convert core ctx w => Sys2Proof.Machine.execConvert core ctx w s
  | .vectorCommandEnd core => Sys2Proof.Machine.execVectorCommandEnd core s
  | .gather core ctx w => Sys2Proof.Machine.execGather core ctx w s
  | .pool core ctx w => Sys2Proof.Machine.execPool core ctx w s
  | .sample core ctx w => Sys2Proof.Machine.execSample core ctx w s
  | .merge core ctx w => Sys2Proof.Machine.execMerge core ctx w s
  | .mergeFlush core ctx w => Sys2Proof.Machine.execMergeFlush core ctx w s
  | .gatherCommandEnd core => Sys2Proof.Machine.execGatherCommandEnd core s
  | .hbmReadReturn pa detect symbols => Sys2Proof.Machine.execHbmReadReturn pa detect symbols s
  | .hbmWrite pa detect data => Sys2Proof.Machine.execHbmWrite pa detect data s
  | .addFp32 src offset detect data => Sys2Proof.Machine.execAddFp32 src offset detect data s
  | .addBf16 src offset detect data => Sys2Proof.Machine.execAddBf16 src offset detect data s
  | .addInt32 src offset detect data => Sys2Proof.Machine.execAddInt32 src offset detect data s
  | .addInt64 src offset detect data => Sys2Proof.Machine.execAddInt64 src offset detect data s
  | .maxInt64 src offset detect data => Sys2Proof.Machine.execMaxInt64 src offset detect data s
  | .publicationTailWrite via tail early => Sys2Proof.Machine.execPublicationTailWrite via tail early s
  | .updateTailWrite via tail => Sys2Proof.Machine.execUpdateTailWrite via tail s
  | .put die => Sys2Proof.Machine.execPut die s
  | .compactionBaseWrites die slot => Sys2Proof.Machine.execCompactionBaseWrites die slot s
  | .compactionFilterBuild die slot => Sys2Proof.Machine.execCompactionFilterBuild die slot s
  | .search core ctx w => Sys2Proof.Machine.execSearch core ctx w s
  | .expand core ctx w => Sys2Proof.Machine.execExpand core ctx w s
  | .apply core ctx w => Sys2Proof.Machine.execApply core ctx w s
  | .traversalCommandEnd x => Sys2Proof.Machine.execTraversalCommandEnd x s
  | .progressTotalWrite via job total => Sys2Proof.Machine.execProgressTotalWrite via job total s
  | .stream core ctx w => Sys2Proof.Machine.execStream core ctx w s
  | .rearm core ctx w => Sys2Proof.Machine.execRearm core ctx w s
  | .cancel core ctx w => Sys2Proof.Machine.execCancel core ctx w s
  | .retire core ctx w => Sys2Proof.Machine.execRetire core ctx w s
  | .streamEarlyDispatch core ctx next between w => Sys2Proof.Machine.execStreamEarlyDispatch core ctx next between w s
  | .streamPassEnd core slot => Sys2Proof.Machine.execStreamPassEnd core slot s
  | .streamCancellation core slot inFlight => Sys2Proof.Machine.execStreamCancellation core slot inFlight s
  | .chainRelay core slot hop => Sys2Proof.Machine.execChainRelay core slot hop s
  | .railTake core ctx w => Sys2Proof.Machine.execRailTake core ctx w s
  | .railPush core ctx w => Sys2Proof.Machine.execRailPush core ctx w s
  | .railPop core ctx w lead => Sys2Proof.Machine.execRailPop core ctx w lead s
  | .railRelease core ctx w => Sys2Proof.Machine.execRailRelease core ctx w s
  | .railSet core ctx w => Sys2Proof.Machine.execRailSet core ctx w s
  | .poolSet core ctx w => Sys2Proof.Machine.execPoolSet core ctx w s
  | .railDeadlock rails => Sys2Proof.Machine.execRailDeadlock rails s
  | .nop core ctx w => Sys2Proof.Machine.execNop core ctx w s
  | .loop core ctx w => Sys2Proof.Machine.execLoop core ctx w s
  | .waitIdle core ctx w => Sys2Proof.Machine.execWaitIdle core ctx w s
  | .yield core ctx w => Sys2Proof.Machine.execYield core ctx w s
  | .stop core ctx w => Sys2Proof.Machine.execStop core ctx w s
  | .clampInit core ctx w => Sys2Proof.Machine.execClampInit core ctx w s
  | .clampSignal core ctx w => Sys2Proof.Machine.execClampSignal core ctx w s
  | .clampWait core ctx w => Sys2Proof.Machine.execClampWait core ctx w s
  | .clampSet core ctx w => Sys2Proof.Machine.execClampSet core ctx w s
  | .clampRead core ctx w => Sys2Proof.Machine.execClampRead core ctx w s
  | .clampRelease core ctx w => Sys2Proof.Machine.execClampRelease core ctx w s
  | .clampSignalArrival sender core index => Sys2Proof.Machine.execClampSignalArrival sender core index s
  | .contextDescriptor ep core ctx value => Sys2Proof.Machine.execContextDescriptor ep core ctx value s
  | .engineSaveEnd core e progress => Sys2Proof.Machine.execEngineSaveEnd core e progress s
  | .contextRestore core ctx => Sys2Proof.Machine.execContextRestore core ctx s
  | .preempt ep core ctx => Sys2Proof.Machine.execPreempt ep core ctx s
  | .release ep core ctx => Sys2Proof.Machine.execRelease ep core ctx s
  | .contextCancel ep core ctx => Sys2Proof.Machine.execContextCancel ep core ctx s
  | .kill ep core ctx => Sys2Proof.Machine.execKill ep core ctx s
  | .reset ep core ctx => Sys2Proof.Machine.execReset ep core ctx s
  | .resume ep core ctx => Sys2Proof.Machine.execResume ep core ctx s
  | .sequencerFetch core ctx parity => Sys2Proof.Machine.execSequencerFetch core ctx parity s
  | .commandPrefetch core ctx => Sys2Proof.Machine.execCommandPrefetch core ctx s
  | .pageWalk core ctx va write source slot => Sys2Proof.Machine.execPageWalk core ctx va write source slot s
  | .channelRetrain stack channel => Sys2Proof.Machine.execChannelRetrain stack channel s
  | .channelRetrainEnd stack channel failing spares cause => Sys2Proof.Machine.execChannelRetrainEnd stack channel failing spares cause s
  | .pairEvacuationEnd pair lost => Sys2Proof.Machine.execPairEvacuationEnd pair lost s
  | .stackTempRead stack temp => Sys2Proof.Machine.execStackTempRead stack temp s
  | .regionDomainFault region => Sys2Proof.Machine.execRegionDomainFault region s
  | .peerSignalDetect link => Sys2Proof.Machine.execPeerSignalDetect link s
  | .linkTrained link t => Sys2Proof.Machine.execLinkTrained link t s
  | .peerSignalLoss link => Sys2Proof.Machine.execPeerSignalLoss link s
  | .retrainRequest via link => Sys2Proof.Machine.execRetrainRequest via link s
  | .linkFence link => Sys2Proof.Machine.execLinkFence link s
  | .uncorrectableCodeword x => Sys2Proof.Machine.execUncorrectableCodeword x s
  | .writeFrame link h b => Sys2Proof.Machine.execWriteFrame link h b s
  | .signal link h b => Sys2Proof.Machine.execSignal link h b s
  | .marker link number hops ns => Sys2Proof.Machine.execMarker link number hops ns s
  | .heartbeat link h b => Sys2Proof.Machine.execHeartbeat link h b s
  | .slow link level => Sys2Proof.Machine.execSlow link level s
  | .abort link h collId abortOrigin reason => Sys2Proof.Machine.execAbort link h collId abortOrigin reason s
  | .nack link h offset reason core ctx => Sys2Proof.Machine.execNack link h offset reason core ctx s
  | .unreachable link h dest => Sys2Proof.Machine.execUnreachable link h dest s
  | .heartbeatPeriod => Sys2Proof.Machine.execHeartbeatPeriod s
  | .pathLoss die origin => Sys2Proof.Machine.execPathLoss die origin s
  | .peerDead slot peer => Sys2Proof.Machine.execPeerDead slot peer s
  | .ucieTrained ep half16 => Sys2Proof.Machine.execUcieTrained ep half16 s
  | .versionSel ep value => Sys2Proof.Machine.execVersionSel ep value s
  | .subTail ep core ctx tail => Sys2Proof.Machine.execSubTail ep core ctx tail s
  | .submissionTake core ctx => Sys2Proof.Machine.execSubmissionTake core ctx s
  | .planTail ep core tail => Sys2Proof.Machine.execPlanTail ep core tail s
  | .intakeTail ep ring tail => Sys2Proof.Machine.execIntakeTail ep ring tail s
  | .intakeDesc ep ring word value => Sys2Proof.Machine.execIntakeDesc ep ring word value s
  | .intakeBatchCopyEnd ring => Sys2Proof.Machine.execIntakeBatchCopyEnd ring s
  | .strokeWorkComplete core ctx => Sys2Proof.Machine.execStrokeWorkComplete core ctx s
  | .completionHead ep ring head => Sys2Proof.Machine.execCompletionHead ep ring head s
  | .msixModerationEnd ep ring => Sys2Proof.Machine.execMsixModerationEnd ep ring s
  | .hostMemRead ep space addr len => Sys2Proof.Machine.execHostMemRead ep space addr len s
  | .hostMemWrite ep window addr data => Sys2Proof.Machine.execHostMemWrite ep window addr data s
  | .registerWrite ep bar offset width value => Sys2Proof.Machine.execRegisterWrite ep bar offset width value s
  | .read gauge txn index sub => Sys2Proof.Machine.execRead gauge txn index sub s
  | .write gauge head index sub value => Sys2Proof.Machine.execWrite gauge head index sub value s
  | .domReadStart gauge txn index sub => Sys2Proof.Machine.execDomReadStart gauge txn index sub s
  | .domWriteStart gauge txn index sub len => Sys2Proof.Machine.execDomWriteStart gauge txn index sub len s
  | .domSegment gauge txn index sub seg data => Sys2Proof.Machine.execDomSegment gauge txn index sub seg data s
  | .domAbort gauge txn index sub => Sys2Proof.Machine.execDomAbort gauge txn index sub s
  | .domTimeout gauge => Sys2Proof.Machine.execDomTimeout gauge s
  | .domCopyRead ep => Sys2Proof.Machine.execDomCopyRead ep s
  | .domCopyWrite ep => Sys2Proof.Machine.execDomCopyWrite ep s
  | .domCopyEnd gauge => Sys2Proof.Machine.execDomCopyEnd gauge s
  | .statusFrame gauge => Sys2Proof.Machine.execStatusFrame gauge s
  | .flashStoreEnd => Sys2Proof.Machine.execFlashStoreEnd s
  | .wedgeRenew gauge confirmed => Sys2Proof.Machine.execWedgeRenew gauge confirmed s
  | .wedgeLeaseExpiry => Sys2Proof.Machine.execWedgeLeaseExpiry s
  | .leadLapse gauge => Sys2Proof.Machine.execLeadLapse gauge s
  | .wedgePoll gauge => Sys2Proof.Machine.execWedgePoll gauge s
  | .wedgeAskDelay => Sys2Proof.Machine.execWedgeAskDelay s
  | .contactLoss gauge cause => Sys2Proof.Machine.execContactLoss gauge cause s
  | .contactRegained link => Sys2Proof.Machine.execContactRegained link s
  | .leadHandover via gauge => Sys2Proof.Machine.execLeadHandover via gauge s
  | .gaugeWatchdog gauge => Sys2Proof.Machine.execGaugeWatchdog gauge s
  | .presentMate => Sys2Proof.Machine.execPresentMate s
  | .presentBreak => Sys2Proof.Machine.execPresentBreak s
  | .startPermitted => Sys2Proof.Machine.execStartPermitted s
  | .alwaysOnPower => Sys2Proof.Machine.execAlwaysOnPower s
  | .inputLoss cause => Sys2Proof.Machine.execInputLoss cause s
  | .holdupExhausted => Sys2Proof.Machine.execHoldupExhausted s
  | .thermalTrip => Sys2Proof.Machine.execThermalTrip s
  | .overcurrent => Sys2Proof.Machine.execOvercurrent s
  | .dieHot die temp => Sys2Proof.Machine.execDieHot die temp s
  | .holdupMeasure microfarad millivolt => Sys2Proof.Machine.execHoldupMeasure microfarad millivolt s
  | .park via => Sys2Proof.Machine.execPark via s
  | .wake via => Sys2Proof.Machine.execWake via s
  | .remove via => Sys2Proof.Machine.execRemove via s
  | .removeReq => Sys2Proof.Machine.execRemoveReq s
  | .boot => Sys2Proof.Machine.execBoot s
  | .imageVerified gauge => Sys2Proof.Machine.execImageVerified gauge s
  | .hbmBistEnd badPairs found => Sys2Proof.Machine.execHbmBistEnd badPairs found s
  | .coresUp failedDies ms => Sys2Proof.Machine.execCoresUp failedDies ms s
  | .memtestEnd frames => Sys2Proof.Machine.execMemtestEnd frames s
  | .imageBegin via => Sys2Proof.Machine.execImageBegin via s
  | .verify via => Sys2Proof.Machine.execVerify via s
  | .imageVerifyEnd => Sys2Proof.Machine.execImageVerifyEnd s
  | .reboot via => Sys2Proof.Machine.execReboot via s
  | .ownerKeyWrite via key => Sys2Proof.Machine.execOwnerKeyWrite via key s
  | .svnAdvance via value => Sys2Proof.Machine.execSvnAdvance via value s
  | .attestationRequest via value => Sys2Proof.Machine.execAttestationRequest via value s
  | .attestationEnd gauge ns => Sys2Proof.Machine.execAttestationEnd gauge ns s
  | .faultRecordDelivery gauge => Sys2Proof.Machine.execFaultRecordDelivery gauge s
  | .faultRingHead via ring head => Sys2Proof.Machine.execFaultRingHead via ring head s
  | .faultClear via ring seq => Sys2Proof.Machine.execFaultClear via ring seq s
  | .coreFence core cause => Sys2Proof.Machine.execCoreFence core cause s
  | .coreFenceRequest via core => Sys2Proof.Machine.execCoreFenceRequest via core s
  | .coreUnfenceRequest via core => Sys2Proof.Machine.execCoreUnfenceRequest via core s
  | .regionFenceRequest via region => Sys2Proof.Machine.execRegionFenceRequest via region s
  | .regionUnfenceRequest via region => Sys2Proof.Machine.execRegionUnfenceRequest via region s
  | .dieFenceRequest via die => Sys2Proof.Machine.execDieFenceRequest via die s
  | .dieUnfenceRequest via die => Sys2Proof.Machine.execDieUnfenceRequest via die s
  | .coreSelfTestEnd core passed => Sys2Proof.Machine.execCoreSelfTestEnd core passed s
  | .regionUnfenceEnd region passed => Sys2Proof.Machine.execRegionUnfenceEnd region passed s
  | .gaugeLinkDown => Sys2Proof.Machine.execGaugeLinkDown s
  | .dieToDiePathDown => Sys2Proof.Machine.execDieToDiePathDown s
  | .busOffRecovery x => Sys2Proof.Machine.execBusOffRecovery x s

end Sys2Proof.Machine
end

