-- ==== Sys2Proof/Safety.lean ====
section
/-! DEFINITION. The terms in which statements about the block are made: what a command does, when a command-stream command issues,
when a dictionary write is looked at, when nothing waits, and the bounds of the stroke clock. -/

namespace Sys2Proof.Machine

/-! ### What a command does -/

/-- Command `c` turns the machine into `m` and changes nothing else. -/
def Does (c : Instr) (s : State) (m : Mach) : Prop := exec c s = .next { s with mach := m }

/-- Command `c` turns the stroke clock into `k` and the machine into `m` and changes nothing else. -/
def DoesK (c : Instr) (s : State) (k : Strokes) (m : Mach) : Prop := exec c s = .next { s with strokes := k, mach := m }

/-- Command `c` runs and leaves the machine in a state with the property `P`; it changes neither the identity nor the queue, nor
the stroke clock. -/
def Reaches (c : Instr) (s : State) (P : Mach → Prop) : Prop := ∃ m, Does c s m ∧ P m

/-- Commands that can write the stroke clock (R36 to R67): the boundary and its window, its alignment and its dictionary objects,
what loses or restores contact between the halves, and what powers or restarts the module. -/
def writesClock : Instr → Bool
  | .boundary _ => true
  | .windowEnd _ _ => true
  | .windowExtended _ => true
  | .pendingPeriodWrite _ _ => true
  | .windowLengthWrite _ _ => true
  | .strokeInEdge _ _ => true
  | .alignmentLock => true
  | .sourceLoss => true
  | .marker _ _ _ _ => true
  | .coresUp _ _ => true
  | .reboot _ => true
  | .write _ _ _ _ _ => true
  | .registerWrite _ _ _ _ _ => true
  | .contactLoss _ _ => true
  | .gaugeLinkDown => true
  | .dieToDiePathDown => true
  | .presentBreak => true
  | .alwaysOnPower => true
  | .inputLoss _ => true
  | .holdupExhausted => true
  | .thermalTrip => true
  | _ => false

/-! ### Commands of a command stream -/

/-- Context `k` of core `c` is the one that issues (R310), and the command at its position, `w` or the one it waits with, has
opcode `op`. -/
def issuing (s : State) (c k op : Nat) (w : Word) : Bool :=
  issues s.env s.mach c k && fld ((s.mach.ctx c k).waitCmd.getD w) 7 0 == op &&
    decide ((s.mach.ctx c k).pos < (s.mach.ctx c k).length)

/-- The machine once the sequencer has turned to the context. -/
def chosen (s : State) (c k : Nat) : Mach := chooseCtx s.env s.mach c k

/-- The command as it is executed: with the intake patches and the rail patches that fall on it, and as a compatibility stream
has it (R292, R429, R437). -/
def issuedWord (s : State) (c k : Nat) (w : Word) : Word := issueWord ((chosen s c k).ctx c k) w

/-- The machine as the command finds it: the sequencer on its context, the pending rail patches counted (R292). -/
def issuedMach (s : State) (c k : Nat) (w : Word) : Mach :=
  (chosen s c k).modCtx c k (fun _ => (dispatched ((chosen s c k).ctx c k) w).1)

/-- The dispatched command names a command, its intake patches fit their fields (R437), and a compatibility stream can express it
(R429). -/
def decodes (s : State) (c k : Nat) (w : Word) : Bool :=
  let x := (chosen s c k).ctx c k
  opcodeKnown (fld (issuedWord s c k w) 7 0) && !(x.cx6 && cx6Bad (issuedWord s c k w)) && !(x.waitCmd.isNone && intakeTooWide x)

/-- The context issues the command, and it decodes. -/
def dispatches (s : State) (c k op : Nat) (w : Word) : Bool := issuing s c k op w && decodes s c k w

/-- Issue goes on past the command `w` (R311, R326, R429). -/
def goesOn (c k : Nat) (w : Word) (m : Mach) : Mach := m.modCtx c k (fun x => x.past w)

/-- Nobody that the command outranks holds what it needs (R313). -/
def nobodyPreempted (m : Mach) (c k : Nat) (w : Word) : Bool :=
  (inTheWay m c k w).eraseDups.all (fun j => !outranks m c k j)

/-! ### Dictionary writes -/

/-- A write of `idx`.`sub` by this path is one whose value the gauge looks at (R448, R450, R453, R460, R461, R485, R517): the path
answers, the request is new, and nothing bars the write. -/
def writeReaches (s : State) (via : Via) (idx sub : Nat) (wedge : Bool) : Bool := writeHeard s.mach via idx sub wedge

/-- A host write of BAR0 that concerns die `d` is applied (R423, R427): the endpoint is READY or HALF and reaches the die. -/
def barOpen (s : State) (ep d : Nat) : Bool :=
  (endpoint s.mach ep).trained && (endpoint s.mach ep).attach != 5 && decide (3 ≤ (endpoint s.mach ep).attach) &&
    reaches s.env s.mach ep d

/-- A host write to the block of core `c` is applied (R12, R536). -/
def coreOpen (s : State) (ep c : Nat) : Bool :=
  decide (c < 64) && barOpen s ep (dieOf c) && s.variant.hasCore c && !coreFenced s.mach c

/-! ### Nothing waits -/

/-- The context waits neither for a unit nor for a fence, and has neither work to begin nor saved work to take back. -/
def Ctx.calm (x : Ctx) : Bool :=
  !((x.state == .waiting || x.state == .saved) && (x.cause == .unit || x.cause == .idleFence)) && !x.retakes && x.coming.isEmpty

/-- No stream of the core has an occurrence to move, and none has stopped at a fault. -/
def Core.streamsRest (x : Core) : Bool := x.streams.all (fun p => !p.2.driven && !p.2.faulted)

/-- No fault waits to be acted on, no stream moves, and no context can go on by itself: what follows a command has nothing to do. -/
def quiet (m : Mach) : Bool :=
  m.due.isEmpty && m.cores.all (fun p => p.2.streamsRest && (List.range 16).all (fun k => (m.ctx p.1 k).calm))

/-- No context waits for the boundary, for a unit or for a fence, none is FAULTED, and none has work to begin. -/
def boundaryQuiet (m : Mach) : Bool :=
  quiet m && m.cores.all (fun p => (List.range 16).all (fun k =>
    (m.ctx p.1 k).state != .waiting && (m.ctx p.1 k).state != .saved && (m.ctx p.1 k).state != .faulted))

/-! ### The bounds of the stroke clock (R36, R39, R40) -/

/-- The periods in effect and armed, and the window lengths in effect and written. -/
def periodsOf (k : Strokes) : List Nat := k.period :: (k.armed.map (fun a => a.1)).toList
def windowsOf (k : Strokes) : List Nat := k.window :: k.windowNext.toList

/-- Every period lies in 10 to 65,535 µs, every window length in 4 to 32 µs, and every pairing of one with the other leaves a window
shorter than half the period. -/
def strokeBounds (k : Strokes) : Bool :=
  (periodsOf k).all (fun p => decide (10 ≤ p) && decide (p ≤ 65535)) &&
    (windowsOf k).all (fun w => decide (4 ≤ w) && decide (w ≤ 32)) &&
    (periodsOf k).all (fun p => (windowsOf k).all (fun w => decide (2 * w < p)))

end Sys2Proof.Machine
end

