-- ==== Sys2Proof/Certificates/Slice0/Obligations.lean ====
section
/-! DEFINITION. The statements for the provers: the queue and the stroke clock, the command streams, the engines, memory, tables and
streams, contexts and host registers, the dictionary, the gauges, power and boot, fences, links and collectives. -/

open Sys2Proof Sys2Proof.Machine

/-! ### The queue and the step -/

/-- A step takes the command at the front of the queue and runs it with the queue's rest; on an empty queue the block idles (the
model's choice, notes/assumptions/10). -/
def Obligations.StepRunsFront : Prop :=
  (∀ (s : State) (c : Instr) (rest : List Instr), s.pending = c :: rest → step s = exec c { s with pending := rest }) ∧
  (∀ s : State, s.pending = [] → step s = .next s)

/-- Every command of every state answers a next state, and none changes the identity of the module as manufactured (R10) or the
queue. -/
def Obligations.EveryCommandGoesOn : Prop :=
  ∀ (c : Instr) (s : State), ∃ (k : Strokes) (m : Mach), DoesK c s k m

/-- A command that is not one of those named by `writesClock` leaves the whole stroke clock alone. -/
def Obligations.OtherCommandsLeaveTheClock : Prop :=
  ∀ (c : Instr) (s : State), writesClock c = false → ∃ m, Does c s m

/-! ### The stroke clock -/

/-- The periods and window lengths in effect, armed and written keep their ranges and leave every window shorter than half of every
period (R36, R39, R40), over every step from every state that has the bounds. -/
def Obligations.StrokeBoundsKept : Prop :=
  ∀ s t : State, strokeBounds s.strokes = true → step s = .next t → strokeBounds t.strokes = true

/-- At reset the period is 250 µs, the window 4 µs, the counter 0, nothing is armed, and the bounds hold (R36, R37, R40, R41). -/
def Obligations.StrokeClockAtReset : Prop :=
  State.reset.strokes.period = 250 ∧ State.reset.strokes.window = 4 ∧ State.reset.strokes.counter = 0 ∧
    State.reset.strokes.target = 0 ∧ State.reset.strokes.inDelay = 0 ∧ State.reset.strokes.armed = none ∧
    State.reset.strokes.windowNext = none ∧ strokeBounds State.reset.strokes = true

/-- Over every step the stroke counter of die 0's half does not fall, and while the device stays split neither does that of die 1's
half; the one exception is a step that restarts the module and so returns the whole clock to its reset (R37). -/
def Obligations.CounterNeverFalls : Prop :=
  ∀ s t : State, step s = .next t →
    t.strokes = Strokes.reset ∨
      (s.strokes.counter ≤ t.strokes.counter ∧
        (s.strokes.split = true → t.strokes.split = true → s.strokes.counter1 ≤ t.strokes.counter1))

/-- A boundary of a device that runs as one and has no half to take back. One that nobody may issue changes nothing. Otherwise the cores
note its EPOCH (R475) and the input's measurements of the last stroke are taken (R508). In park, in wake and on hold-up energy only the
clock goes on (R38, R489). Otherwise a rejoin that waits repeats its comparison (R483), the steps of R42 run, what they count is added,
and the window has begun unless park is entered. The clock goes on thus: the counter goes up by one, or to the source's number when a
lock adopts it (R37, R67), the timestamp is that of T0, an armed period whose stroke has begun takes effect (R39), and so does a written
window length (R40). -/
def Obligations.BoundaryCounts : Prop :=
  ∀ (s : State) (obs : BoundaryObs), s.strokes.split = false → joins s.strokes s.mach 0 obs.aligned = false →
    (mayTick s.strokes s.mach 0 = false → DoesK (.boundary obs) s s.strokes s.mach) ∧
    (mayTick s.strokes s.mach 0 = true → windowRuns s.mach = false →
      DoesK (.boundary obs) s (tick s.strokes 0 obs.ns true false) (noteInput obs (noteEpoch s.strokes 0 s.mach))) ∧
    (mayTick s.strokes s.mach 0 = true → windowRuns s.mach = true →
      let k := tick s.strokes 0 obs.ns true true
      let e : Env := { v := s.variant, k := k }
      let r := runSteps e 0 true obs (compareTables e (sendTicks k (noteInput obs (noteEpoch s.strokes 0 s.mach)) 0))
      DoesK (.boundary obs) s
        { k with
          overruns := k.overruns + BitVec.ofNat 64 r.1.1
          carried := k.carried + BitVec.ofNat 64 r.1.2.1
          deferred := k.deferred + BitVec.ofNat 64 r.1.2.2.1
          inWindow := !r.1.2.2.2
          inWindow1 := s.strokes.inWindow1 && !r.1.2.2.2 } r.2) ∧
    (∀ full : Bool,
      let k := tick s.strokes 0 obs.ns true full
      k.counter = nextNumber s.strokes 0 obs.ns ∧ (s.strokes.adopt = false → k.counter = s.strokes.counter + 1) ∧
        k.timestamp = obs.ns ∧ k.split = false ∧ k.inWindow = full ∧
        k.period = (match s.strokes.armed with
          | some (p, n) => if n ≤ k.counter then p else s.strokes.period
          | none => s.strokes.period) ∧
        k.armed = (match s.strokes.armed with
          | some (p, n) => if n ≤ k.counter then none else some (p, n)
          | none => none) ∧
        k.window = s.strokes.windowNext.getD s.strokes.window ∧ k.windowNext = none ∧ k.target = s.strokes.target ∧
        k.pendingPeriod = s.strokes.pendingPeriod ∧ k.inDelay = s.strokes.inDelay)

/-- The end of a boundary window (R42 step 10, R46) when no context waits and none is FAULTED: the decided classes and guard ends
take effect, the start clamps of opened slots are signalled, a written handover happens, and nothing else changes; a window that
was extended is counted, and one that reached the limit writes its record. Outside a window nothing happens. -/
def Obligations.WindowEnds : Prop :=
  ∀ (s : State) (half : Nat), s.strokes.split = false →
    (s.strokes.inWindow = false →
      (∀ x, DoesK (.windowEnd half x) s s.strokes s.mach) ∧ DoesK (.windowExtended half) s s.strokes s.mach) ∧
    (s.strokes.inWindow = true → boundaryQuiet s.mach = true →
      (∀ x : Bool, DoesK (.windowEnd half x) s
        { s.strokes with inWindow := false, extended := s.strokes.extended + (if x then 1 else 0) }
        (handOver s.strokes.counter (startSignals (applyDecided s.strokes 0 s.mach)))) ∧
      DoesK (.windowExtended half) s
        { s.strokes with inWindow := false, extended := s.strokes.extended + 1 }
        (handOver s.strokes.counter (startSignals (applyDecided s.strokes 0
          (raiseFault s.mach (leadGauge s.mach) (mkFault s.env s.mach (leadGauge s.mach) famManagement 0x11 0))))))

/-- A write of the period or of the window length that reaches the lead (R39, R40): in range and with room for every window in
every period, the period is armed for the stroke that 0x0A00.03 names, or for the next one when that has begun, and the window
length waits for the next boundary; otherwise the write is refused with BOUNDS and changes no value of the clock. -/
def Obligations.PeriodAndWindowWrites : Prop :=
  ∀ (s : State) (via : Via) (us : Nat), s.strokes.split = false →
    (writeReaches s via 0x0A00 2 true = true →
      (10 ≤ us ∧ us ≤ 65535 ∧ (∀ p ∈ [s.strokes.period, us], ∀ w ∈ windowsOf s.strokes, 2 * w < p) →
        DoesK (.pendingPeriodWrite via us) s
          { s.strokes with
            pendingPeriod := us
            armed := some (us, if s.strokes.target ≤ s.strokes.counter then s.strokes.counter + 1 else s.strokes.target) }
          (dictResult via 0x0A00 2 0 s.mach)) ∧
      (¬(10 ≤ us ∧ us ≤ 65535 ∧ (∀ p ∈ [s.strokes.period, us], ∀ w ∈ windowsOf s.strokes, 2 * w < p)) →
        DoesK (.pendingPeriodWrite via us) s s.strokes (dictResult via 0x0A00 2 1 s.mach))) ∧
    (writeReaches s via 0x0A00 4 true = true →
      (4 ≤ us ∧ us ≤ 32 ∧ (∀ p ∈ periodsOf s.strokes, ∀ w ∈ [us, s.strokes.window], 2 * w < p) →
        DoesK (.windowLengthWrite via us) s { s.strokes with windowNext := some us } (dictResult via 0x0A00 4 0 s.mach)) ∧
      (¬(4 ≤ us ∧ us ≤ 32 ∧ (∀ p ∈ periodsOf s.strokes, ∀ w ∈ [us, s.strokes.window], 2 * w < p)) →
        DoesK (.windowLengthWrite via us) s s.strokes (dictResult via 0x0A00 4 1 s.mach)))

/-- What a follower receives. An edge of STROKE_IN of at least 50 ns, at least 5 µs behind the last, is the source's boundary,
compensated by 0x0A00.0A, where the clock follows STROKE_IN (R550); a marker on an UP link with hops 1 to 16, when no source is
known, is the source's boundary with the link's latency taken off (R60, R61); eight boundaries in tolerance lock the clock (R63);
and LOSS_COUNT missing boundaries lose the source (R66). None of them touches the machine. -/
def Obligations.FollowerEvents : Prop :=
  ∀ s : State,
    (∀ ns width : Nat, listens s.strokes s.mach 2 = true → 50 ≤ width → (∀ t, s.strokes.lastEdge = some t → t + 5000 ≤ ns) →
      DoesK (.strokeInEdge ns width) s
        { s.strokes with
          lastEdge := some ns
          source := some (noteSource s.strokes (ns - s.strokes.inDelay) none)
          hops := 0 } s.mach) ∧
    (∀ ns width : Nat, width < 50 → DoesK (.strokeInEdge ns width) s s.strokes s.mach) ∧
    (∀ n number hops ns : Nat, listens s.strokes s.mach 3 = true → s.variant.hasLink n = true → (s.mach.link n).state = 2 →
      1 ≤ hops → hops ≤ 16 → s.strokes.source = none →
      DoesK (.marker n number hops ns) s
        { s.strokes with
          source := some { ns := ns - (s.mach.link n).latency, marker := some (n, number, hops), period := none }
          hops := hops } s.mach) ∧
    (follows s.strokes.align = true → s.strokes.alignState = 1 → 8 ≤ s.strokes.good → s.strokes.periodMismatch = false →
      ∃ k, DoesK .alignmentLock s k s.mach ∧ k.alignState = 2 ∧ k.counter = s.strokes.counter ∧
        ((∀ n, sourceNumber s.strokes s.strokes.timestamp = some n → s.strokes.split = false →
          (s.strokes.align.adoptNumber = true → s.strokes.counter ≤ n → k.adopt = true ∧ k.numberOffset = 0) ∧
          (n < s.strokes.counter → k.numberAhead = true ∧ k.numberOffset = BitVec.ofNat 64 (s.strokes.counter - n))))) ∧
    (follows s.strokes.align = true → s.strokes.align.lossCount ≤ s.strokes.missing →
      s.strokes.alignState = 1 ∨ s.strokes.alignState = 2 →
      DoesK .sourceLoss s { s.strokes with alignState := 3, good := 0, adopt := false, stretch := 0 } s.mach)

/-! ### Commands of a command stream -/

/-- The array's commands (R81, R83, R93, R94, R105): one that passes its checks, whose window has room and that nobody stands in the
way of joins the end of the array's queue, the swap that a context's last `PRELOAD` allows is noted (R100), the array goes on as
far as its queue allows, and issue goes on at the next command. -/
def Obligations.ArrayCommandsIssue : Prop :=
  ∀ (s : State) (c k : Nat) (w : Word),
    ∀ p ∈ [(0x10, Instr.pass c k w), (0x11, .preload c k w), (0x12, .swap c k w), (0x13, .drain c k w)],
      let m := issuedMach s c k w
      let v := issuedWord s c k w
      dispatches s c k p.1 w = true → firstBad (arrayChecks s.env m c k v) = none → unitBlocked m c k v = false →
        nobodyPreempted m c k v = true →
        Does p.2 s (finish s.env (goesOn c k v (arrayAdvance s.env ((notePreloaded m c k v).modArr c (fun a =>
          { a with queue := a.queue ++ [{ ctx := k, w := v, stroke := strokeAt s.strokes (dieOf c) }] })) c)))

/-- The Chisel's commands (R147 to R157): one that passes its checks, whose window has room and that nobody stands in the way of joins
the end of the Chisel's queue, which starts its head when it can, and issue goes on at the next command. -/
def Obligations.VectorCommandsIssue : Prop :=
  ∀ (s : State) (c k : Nat) (w : Word),
    ∀ p ∈ [(0x20, Instr.elem c k w), (0x21, .reduce c k w), (0x22, .norm c k w), (0x23, .smaxBlock c k w),
        (0x24, .smaxMerge c k w), (0x25, .smaxFinal c k w), (0x26, .wideAdd c k w), (0x27, .convert c k w)],
      let m := issuedMach s c k w
      let v := issuedWord s c k w
      dispatches s c k p.1 w = true → firstBad (vecChecks s.env m v) = none → unitBlocked m c k v = false →
        nobodyPreempted m c k v = true →
        Does p.2 s (finish s.env (goesOn c k v (engStart s.env (setEngQueue m c
          (engQueue m c .chisel ++ [engCmd s.env c k v []]) .chisel) c .chisel)))

/-- The Marquetry engine's commands (R163 to R188): one that passes its checks joins the engine's queue with the version of its
table that is published now (R68). In the boundary window one that reads a table waits for the window's end (R50). -/
def Obligations.GatherCommandsIssue : Prop :=
  ∀ (s : State) (c k : Nat) (w : Word),
    ∀ p ∈ [(0x30, Instr.gather c k w), (0x31, .pool c k w), (0x32, .sample c k w), (0x33, .merge c k w), (0x34, .mergeFlush c k w)],
      let m := issuedMach s c k w
      let v := issuedWord s c k w
      dispatches s c k p.1 w = true → trayBad m c (gatCheckReads v) = none → firstBad (gatChecks s.env m c k v) = none →
        (windowAt s.strokes (dieOf c) = true → fld v 7 0 ≠ 0x34 →
          Does p.2 s (finish s.env (setState s.env (m.modCtx c k (fun x => { x with waitCmd := some v })) c k .waiting .boundary 0))) ∧
        (windowAt s.strokes (dieOf c) = false ∨ fld v 7 0 = 0x34 → unitBlocked m c k v = false → nobodyPreempted m c k v = true →
          Does p.2 s (finish s.env (goesOn c k v (engStart s.env (setEngQueue m c
            (engQueue m c .marquetry ++ [engCmd s.env c k v [bindSlot m c (gtTable v)]]) .marquetry) c .marquetry))))

/-- The Scribe unit's commands (R235 to R254): one that passes its checks joins the unit's queue; a `SEARCH` binds its two tables, an
`EXPAND` its adjacency, an `APPLY` none. In the boundary window the command waits for the window's end (R50). -/
def Obligations.TraversalCommandsIssue : Prop :=
  ∀ (s : State) (c k : Nat) (w : Word),
    ∀ p ∈ [(0x40, Instr.search c k w), (0x41, .expand c k w), (0x42, .apply c k w)],
      let m := issuedMach s c k w
      let v := issuedWord s c k w
      dispatches s c k p.1 w = true → trayBad m c (scrCheckReads v) = none → firstBad (scrChecks s.env m c v) = none →
        (windowAt s.strokes (dieOf c) = true →
          Does p.2 s (finish s.env (setState s.env (m.modCtx c k (fun x => { x with waitCmd := some v })) c k .waiting .boundary 0))) ∧
        (windowAt s.strokes (dieOf c) = false → unitBlocked m c k v = false → nobodyPreempted m c k v = true →
          Does p.2 s (finish s.env (goesOn c k v (engStart s.env (setEngQueue m c
            (engQueue m c .scribe ++ [engCmd s.env c k v ((if fld v 7 0 = 0x40 then [scEmb v, scAdj v]
              else if fld v 7 0 = 0x41 then [exAdj v] else []).map (bindSlot m c))]) .scribe) c .scribe))))

/-- R530: a command of one of the four engines that fails a check ends its context's work with the first code that applies, in the
family of its opcode, and starts nothing. -/
def Obligations.EngineCommandsRejected : Prop :=
  ∀ (s : State) (c k code : Nat) (w : Word),
    let m := issuedMach s c k w
    let v := issuedWord s c k w
    (∀ p ∈ [(0x10, Instr.pass c k w), (0x11, .preload c k w), (0x12, .swap c k w), (0x13, .drain c k w)],
      dispatches s c k p.1 w = true → firstBad (arrayChecks s.env m c k v) = some code →
        Does p.2 s (finish s.env (failCtx s.env m c k (opcodeFamily (fld v 7 0)) code))) ∧
    (∀ p ∈ [(0x20, Instr.elem c k w), (0x21, .reduce c k w), (0x22, .norm c k w), (0x23, .smaxBlock c k w),
        (0x24, .smaxMerge c k w), (0x25, .smaxFinal c k w), (0x26, .wideAdd c k w), (0x27, .convert c k w)],
      dispatches s c k p.1 w = true → firstBad (vecChecks s.env m v) = some code →
        Does p.2 s (finish s.env (failCtx s.env m c k (opcodeFamily (fld v 7 0)) code))) ∧
    (∀ p ∈ [(0x30, Instr.gather c k w), (0x31, .pool c k w), (0x32, .sample c k w), (0x33, .merge c k w), (0x34, .mergeFlush c k w)],
      dispatches s c k p.1 w = true → trayBad m c (gatCheckReads v) = none → firstBad (gatChecks s.env m c k v) = some code →
        Does p.2 s (finish s.env (failCtx s.env m c k (opcodeFamily (fld v 7 0)) code))) ∧
    (∀ p ∈ [(0x40, Instr.search c k w), (0x41, .expand c k w), (0x42, .apply c k w)],
      dispatches s c k p.1 w = true → trayBad m c (scrCheckReads v) = none → firstBad (scrChecks s.env m c v) = some code →
        Does p.2 s (finish s.env (failCtx s.env m c k (opcodeFamily (fld v 7 0)) code)))

/-- The control commands (R326). `NOP` does nothing; `LOOP` with COUNT 0 skips its body, and otherwise opens a level that ends behind
its body; `WAIT_IDLE` goes on once the context's earlier commands are complete, and waits with IDLE_FENCE until then; `YIELD` waits
for the boundary at the next command; `STOP` of a batch context, once its commands are complete and it holds no tile, ends the
stream: the entry is done and the context IDLE. -/
def Obligations.ControlCommands : Prop :=
  ∀ (s : State) (c k : Nat) (w : Word),
    let m := issuedMach s c k w
    let v := issuedWord s c k w
    let x := m.ctx c k
    firstBad (controlChecks v) = none →
    (dispatches s c k 0x70 w = true → Does (.nop c k w) s (finish s.env (goesOn c k v m))) ∧
    (dispatches s c k 0x71 w = true → loopFits x (ctBody v) = true →
      (ctCount v = 0 → Does (.loop c k w) s (finish s.env (m.modCtx c k (fun y => y.advanceTo (x.pos + 1 + ctBody v))))) ∧
      (ctCount v ≠ 0 → Does (.loop c k w) s (finish s.env (m.modCtx c k (fun y =>
        ({ y with loops := x.loops ++ [{ start := x.pos + 1, stop := x.pos + 1 + ctBody v, remaining := ctCount v }] } : Ctx).advanceTo
          (x.pos + 1)))))) ∧
    (dispatches s c k 0x72 w = true →
      (fenceMet m c k = true → Does (.waitIdle c k w) s (finish s.env (goesOn c k v m))) ∧
      (fenceMet m c k = false → Does (.waitIdle c k w) s (finish s.env
        (setState s.env (m.modCtx c k (fun y => { y with waitCmd := some v })) c k .waiting .idleFence 0)))) ∧
    (dispatches s c k 0x73 w = true →
      Does (.yield c k w) s (finish s.env (setState s.env
        (m.modCtx c k (fun y => { y.advanceTo (y.pos + 1) with yielded := y.serving })) c k .waiting .boundary 0))) ∧
    (dispatches s c k 0x74 w = true → fenceMet m c k = true → (m.arr c).active.any (fun t => t.ctx == k) = false →
      x.serving = false →
      Does (.stop c k w) s (finish s.env (setState s.env (streamDone s.env ((drainForStop m c k).modCtx c k (fun y =>
        { y with loops := [], patches := [], waitCmd := none, yielded := y.serving })) c k) c k .idle .none 0)))

/-- The clamp commands (R330 to R338). `CLAMP_INIT` makes a clamp that is not OWNED this context's, with the counter given and nobody
waiting. `CLAMP_SIGNAL` sends its signal to a clamp of this device. `CLAMP_WAIT` on an OWNED clamp whose counter reaches the value goes
on, and takes the value off when it consumes; below the value the context joins the clamp's waiters. `CLAMP_SET` sets the owner's clamp
and checks its waiters, `CLAMP_READ` writes the clamp's image to the tray, and `CLAMP_RELEASE` frees a clamp of its owner that nobody
waits on. A slot of a collective whose progress clamp a `CLAMP_INIT` or `CLAMP_SET` brings to TARGET is DONE, with the heartbeats that
follow (R417, R419). A wait on a FREE clamp ends the context's work with CLAMP_FREE, on a BROKEN one with CLAMP_BROKEN (R336, R337). -/
def Obligations.ClampCommands : Prop :=
  ∀ (s : State) (c k : Nat) (w : Word),
    let m := issuedMach s c k w
    let v := issuedWord s c k w
    let i := clIndex v
    let y := m.clamp c i
    firstBad (clampChecks c v) = none →
    (dispatches s c k 0x60 w = true → y.state ≠ .owned →
      Does (.clampInit c k w) s (watched s.env (fun _ => finish s.env (goesOn c k v (m.modClamp c i (fun _ =>
        { state := .owned, counter := clValue v, owner := k, waiters := [] })))) s.mach)) ∧
    (dispatches s c k 0x61 w = true → clRemote v = false → s.variant.hasCore (clCore v) = true → coreFenced m (clCore v) = false →
      (clFence v = false ∨ fenceMet m c k = true) →
      Does (.clampSignal c k w) s (finish s.env (goesOn c k v
        { m with signals := m.signals ++ [{ sender := .context c k, core := clCore v, index := i, value := clValue v }] }))) ∧
    (dispatches s c k 0x62 w = true → y.state = .owned →
      (clValue v ≤ y.counter → clConsume v = true →
        Does (.clampWait c k w) s (finish s.env (goesOn c k v (m.modClamp c i (fun z => { z with counter := z.counter - clValue v }))))) ∧
      (clValue v ≤ y.counter → clConsume v = false → Does (.clampWait c k w) s (finish s.env (goesOn c k v m))) ∧
      (y.counter < clValue v →
        Does (.clampWait c k w) s (finish s.env (setState s.env ((m.modClamp c i (fun z =>
          { z with waiters := z.waiters.filter (fun q => q.ctx != k) ++ [{ ctx := k, value := clValue v, consume := clConsume v }] })).modCtx
            c k (fun z => { z with waitCmd := some v })) c k .waiting .clamp i)))) ∧
    (dispatches s c k 0x63 w = true → y.state = .owned → y.owner = k →
      Does (.clampSet c k w) s (watched s.env (fun _ => finish s.env (goesOn c k v
        (checkWaiters s.env (m.modClamp c i (fun z => { z with counter := clValue v })) c i))) s.mach)) ∧
    (dispatches s c k 0x64 w = true →
      Does (.clampRead c k w) s (finish s.env (goesOn c k v (trayWrite m c (clDst v) (clampImage y))))) ∧
    (dispatches s c k 0x65 w = true → y.state = .owned → y.owner = k → y.waiters = [] →
      Does (.clampRelease c k w) s (finish s.env (goesOn c k v (m.modClamp c i (fun _ => Clamp.reset))))) ∧
    (dispatches s c k 0x62 w = true →
      (y.state = .free → Does (.clampWait c k w) s (finish s.env (failCtxAt s.env m c k famClamp 0x14 0 0 0))) ∧
      (y.state = .broken → Does (.clampWait c k w) s (finish s.env (failCtxAt s.env m c k famClamp 0x13 0 0 0))))

/-- The rail commands (R288 to R293). `RAIL_TAKE` takes a free buffer of the rail's pool into an empty handle slot; `RAIL_PUSH` puts
the buffer of its slot on a rail with room; `RAIL_POP` of a rail that holds a handle moves the oldest one into an empty slot;
`RAIL_RELEASE` returns the buffer of its slot; `RAIL_SET` binds a rail to the issuing context, or unbinds it; `POOL_SET` lays out a
pool that no rail uses. Each goes on at the next command. -/
def Obligations.RailCommands : Prop :=
  ∀ (s : State) (c k : Nat) (w : Word),
    let m := issuedMach s c k w
    let v := issuedWord s c k w
    let r := rlRail v
    let at_ (b : Nat) : Nat := if b = 255 then 0 else bufferAddr (m.pool c (m.rail c r).pool) b
    (dispatches s c k 0x68 w = true → rlHead v = false → patchesOk v = true → notProducer m c k r = false →
      hslotOf m c k (rlSlot v) = none → mayTake m c r = true →
      let a := takeBuffer (m.modRail c r (fun x => { x with prodContext := some k })) c r
      Does (.railTake c k w) s (finish s.env (goesOn c k v (wakeRails s.env (addPatches (setSlot a.1 c k (rlSlot v)
        { h := { buffer := a.2, length := 0, last := false, cancelled := false, poisoned := false, tag := 0 }, taken := true, rail := r })
        c k (newPatches v (bufferAddr (m.pool c (m.rail c r).pool) a.2))) c)))) ∧
    (∀ y : HSlot, dispatches s c k 0x69 w = true → rlHead v = false → notProducer m c k r = false →
      rlLength v ≤ 2 ^ (m.pool c (m.rail c r).pool).sizeLog2 → hslotOf m c k (rlSlot v) = some y → y.taken = true → y.rail = r →
      (m.rail c r).entries.length < 64 →
      Does (.railPush c k w) s (finish s.env (goesOn c k v (pushHandle s.env (clearSlot m c k (rlSlot v)) c r
        { h := { y.h with length := rlLength v, last := rlLast v, tag := rlTag v }, origin := none, spent := false, generated := false,
          maker := some (k, (m.ctx c k).workStroke) })))) ∧
    (∀ (lead : Nat) (x : Entry) (xs : List Entry), dispatches s c k 0x6A w = true → rlHead v = false → patchesOk v = true →
      (m.rail c r).consumer = some k → hslotOf m c k (rlSlot v) = none → (m.rail c r).entries = x :: xs →
      Does (.railPop c k w lead) s (finish s.env (goesOn c k v (wakeRails s.env (addPatches (setSlot
        (notePop (m.modRail c r (fun y => { y with entries := xs, consumed := y.consumed + 1 })) x
          (if (m.ctx c k).waitCmd.isSome then 0 else lead)) c k (rlSlot v) { h := x.h, taken := false, rail := r })
        c k (newPatches v (at_ x.h.buffer))) c)))) ∧
    (∀ y : HSlot, dispatches s c k 0x6B w = true → rlHead v = false → hslotOf m c k (rlSlot v) = some y →
      Does (.railRelease c k w) s (finish s.env (goesOn c k v
        (releaseBuffer s.env (clearSlot m c k (rlSlot v)) c y.rail y.h.buffer)))) ∧
    (dispatches s c k 0x6C w = true → rlHead v = false → rlFloor v ≤ 64 → railBusy m c k r = false →
      (rlUnbind v = true → Does (.railSet c k w) s (finish s.env (goesOn c k v
        (wakeRails s.env (m.modRail c r (fun _ => Rail.reset)) c)))) ∧
      (rlUnbind v = false →
        (((railsOf m c (rlPool v)).filter (fun q => q.1 != r)).map (fun q => q.2.floor)).sum + rlFloor v ≤ (m.pool c (rlPool v)).count →
        Does (.railSet c k w) s (finish s.env (goesOn c k v (wakeRails s.env (m.modRail c r (fun _ =>
          { Rail.reset with consumer := some k, pool := rlPool v, floor := rlFloor v, prodIsContext := rlProducer v })) c))))) ∧
    (dispatches s c k 0x6D w = true → rlHead v = false → 1 ≤ rlCount v → rlCount v ≤ 128 → 12 ≤ rlSize v → rlSize v ≤ 20 →
      railsOf m c (rlPool v) = [] → beyondTray (rlBase v) (rlCount v * 2 ^ rlSize v) = false →
      Does (.poolSet c k w) s (finish s.env (goesOn c k v (m.modPool c (rlPool v) (fun _ =>
        { base := rlBase v, sizeLog2 := rlSize v, count := rlCount v, used := [] })))))

/-- A rail command that its rail or pool cannot serve makes the context wait and be executed again: a `RAIL_TAKE` without a free buffer
with cause BUFFER, a `RAIL_PUSH` to a full rail and a `RAIL_POP` of an empty one whose stream does not run with cause RAIL (R290,
R297, R308). -/
def Obligations.RailWaits : Prop :=
  ∀ (s : State) (c k : Nat) (w : Word),
    let m := issuedMach s c k w
    let v := issuedWord s c k w
    let r := rlRail v
    let waits (cause : Cause) : Mach :=
      finish s.env (setState s.env (m.modCtx c k (fun x => { x with waitCmd := some v })) c k .waiting cause r)
    (dispatches s c k 0x68 w = true → rlHead v = false → patchesOk v = true → notProducer m c k r = false →
      hslotOf m c k (rlSlot v) = none → mayTake m c r = false → Does (.railTake c k w) s (waits .buffer)) ∧
    (∀ y : HSlot, dispatches s c k 0x69 w = true → rlHead v = false → notProducer m c k r = false →
      rlLength v ≤ 2 ^ (m.pool c (m.rail c r).pool).sizeLog2 → hslotOf m c k (rlSlot v) = some y → y.taken = true → y.rail = r →
      64 ≤ (m.rail c r).entries.length → Does (.railPush c k w) s (waits .rail)) ∧
    (∀ lead : Nat, dispatches s c k 0x6A w = true → rlHead v = false → patchesOk v = true → (m.rail c r).consumer = some k →
      hslotOf m c k (rlSlot v) = none → (m.rail c r).entries = [] → (m.rail c r).prodStream = none →
      Does (.railPop c k w lead) s (waits .rail))

/-- The stream commands (R269, R275, R276). `STREAM` starts its stream in a free slot, unless it has been dispatched early, and waits
for the window's end when it reads by a table inside the boundary window (R50). `REARM` of an idle persistent stream begins its next
pass, of a running one it is held; that of an idle stream with a TABLE source waits for the window's end too, which R50 does not say and
the model chooses (notes/assumptions/39). `CANCEL` marks the streams of its context for cancellation, saved ones as well. `RETIRE` ends
an idle persistent stream with its record, of a running one it waits for the pass. -/
def Obligations.StreamCommands : Prop :=
  ∀ (s : State) (c k : Nat) (w : Word),
    let m := issuedMach s c k w
    let v := issuedWord s c k w
    let slot := fld v 67 64
    (dispatches s c k 0x50 w = true →
      ((m.ctx c k).early.contains v = true →
        Does (.stream c k w) s (finish s.env (goesOn c k v (m.modCtx c k (fun y => { y with early := y.early.erase v }))))) ∧
      ((m.ctx c k).early.contains v = false → firstBad (streamChecks s.env m c k v) = none →
        (stSrcKind v = 2 → windowAt s.strokes (dieOf c) = true →
          Does (.stream c k w) s (finish s.env (setState s.env (m.modCtx c k (fun x => { x with waitCmd := some v })) c k .waiting .boundary 0))) ∧
        (stSrcKind v ≠ 2 ∨ windowAt s.strokes (dieOf c) = false → unitBlocked m c k v = false →
          Does (.stream c k w) s (finish s.env (goesOn c k v (startStream s.env m c k v)))))) ∧
    (firstBad (rearmChecks m c k v) = none →
      (∀ y : Stream, dispatches s c k 0x51 w = true → slotAwaited m c k slot = false → persistentOf m c k slot = some y →
        (y.active = false → (stSrcKind y.w = 2 ∧ flag v 72 = false ∧ windowAt s.strokes (dieOf c) = true) →
          Does (.rearm c k w) s (finish s.env (setState s.env (m.modCtx c k (fun x => { x with waitCmd := some v })) c k .waiting .boundary 0))) ∧
        (y.active = false → ¬(stSrcKind y.w = 2 ∧ flag v 72 = false ∧ windowAt s.strokes (dieOf c) = true) →
          Does (.rearm c k w) s (finish s.env (goesOn c k v (beginPass s.env (m.setStream c slot (applyRearm v y)) c slot)))) ∧
        (y.active = true → y.rearmHeld = none →
          Does (.rearm c k w) s (finish s.env (goesOn c k v (m.setStream c slot { y with rearmHeld := some v }))))) ∧
      (dispatches s c k 0x52 w = true →
        Does (.cancel c k w) s (finish s.env (goesOn c k v
          (((((m.ctx c k).saved.map (fun x => x.streams)).getD []).filter (fun p => flag v 72 || p.1 == slot)).foldl
            (cancelSaved s.env c k { drop := false, quiet := [], fenced := [], unbound := [] })
            ((((m.core c).streams.filter (fun p => p.2.ctx == k && (flag v 72 || p.1 == slot))).map (fun p => p.1)).foldl
              (fun a n => markCancel a c n { drop := false, quiet := [], fenced := [], unbound := [] }) m))))) ∧
      (∀ y : Stream, dispatches s c k 0x53 w = true → slotAwaited m c k slot = false → persistentOf m c k slot = some y →
        (y.active = false →
          Does (.retire c k w) s (finish s.env (goesOn c k v (freeSlot (endRecord s.env m c slot y 2 false) c slot y.w)))) ∧
        (y.active = true →
          Does (.retire c k w) s (finish s.env (goesOn c k v (m.setStream c slot { y with retirePending := true }))))))

/-- Where nothing waits, a command that only counts, waits or writes its own unit changes exactly that: `NOP` and a met `WAIT_IDLE`
nothing but the context's position, `YIELD` its context, `CLAMP_INIT` and `CLAMP_RELEASE` their clamp, the former also the slots of
collectives that watch it (R419), `CLAMP_READ` its tray bytes,
`POOL_SET` its pool, and a command of the Chisel the queue that it joins. -/
def Obligations.CommandsInQuiet : Prop :=
  ∀ (s : State) (c k : Nat) (w : Word),
    let m := issuedMach s c k w
    let v := issuedWord s c k w
    quiet m = true →
    (firstBad (controlChecks v) = none →
      (dispatches s c k 0x70 w = true → Does (.nop c k w) s (goesOn c k v m)) ∧
      (dispatches s c k 0x72 w = true → fenceMet m c k = true → Does (.waitIdle c k w) s (goesOn c k v m)) ∧
      (dispatches s c k 0x73 w = true → Does (.yield c k w) s (setState s.env
        (m.modCtx c k (fun y => { y.advanceTo (y.pos + 1) with yielded := y.serving })) c k .waiting .boundary 0))) ∧
    (firstBad (clampChecks c v) = none →
      (dispatches s c k 0x60 w = true → (m.clamp c (clIndex v)).state ≠ .owned →
        Does (.clampInit c k w) s (watched s.env (fun _ => goesOn c k v (m.modClamp c (clIndex v) (fun _ =>
          { state := .owned, counter := clValue v, owner := k, waiters := [] }))) s.mach)) ∧
      (dispatches s c k 0x64 w = true →
        Does (.clampRead c k w) s (goesOn c k v (trayWrite m c (clDst v) (clampImage (m.clamp c (clIndex v)))))) ∧
      (dispatches s c k 0x65 w = true → (m.clamp c (clIndex v)).state = .owned → (m.clamp c (clIndex v)).owner = k →
        (m.clamp c (clIndex v)).waiters = [] →
        Does (.clampRelease c k w) s (goesOn c k v (m.modClamp c (clIndex v) (fun _ => Clamp.reset))))) ∧
    (dispatches s c k 0x6D w = true → rlHead v = false → 1 ≤ rlCount v → rlCount v ≤ 128 → 12 ≤ rlSize v → rlSize v ≤ 20 →
      railsOf m c (rlPool v) = [] → beyondTray (rlBase v) (rlCount v * 2 ^ rlSize v) = false →
      Does (.poolSet c k w) s (goesOn c k v (m.modPool c (rlPool v) (fun _ =>
        { base := rlBase v, sizeLog2 := rlSize v, count := rlCount v, used := [] })))) ∧
    (∀ p ∈ [(0x20, Instr.elem c k w), (0x21, .reduce c k w), (0x22, .norm c k w), (0x23, .smaxBlock c k w),
        (0x24, .smaxMerge c k w), (0x25, .smaxFinal c k w), (0x26, .wideAdd c k w), (0x27, .convert c k w)],
      dispatches s c k p.1 w = true → firstBad (vecChecks s.env m v) = none → unitBlocked m c k v = false →
        nobodyPreempted m c k v = true →
        Does p.2 s (goesOn c k v (engStart s.env (setEngQueue m c (engQueue m c .chisel ++ [engCmd s.env c k v []]) .chisel) c .chisel)))

/-! ### The engines -/

/-- What the array reports. A fill ends with its pass streaming: a fresh tile over the preloaded set, the old one draining (R87, R88),
or, with CONTINUE, on in the active tile, or in a fresh tile over the set that `SWAP` made active (R93). The end of streaming adds the
rest of the slices to the tile's cells and leaves the tile active, and counts the single-bit errors and stretch cycles it met (R87,
R356, R499). A preload has read its source values (R89); only a drain that was there before it holds its reads (R92). A drain has
written the tile's outputs and status, sent its signal, and left the inactive set free (R91); a preload that is older than it and
still had to read what it writes has read first (R92). -/
def Obligations.ArrayEvents : Prop :=
  ∀ (s : State) (c : Nat),
    let m := s.mach
    let a := m.arr c
    let drained (m : Mach) (t : Tile) : Mach :=
      finish s.env (startAll s.env (arrayAdvance s.env
        ((passSignal (drainTile s.env m c t (t.ended.getD (lateWork m c t.ctx))) c t.w).modArr c (fun x =>
          { x with draining := none, drainCmd := false })) c) c)
    coreClocked s.env m c = true →
    (∀ q rest, a.queue = q :: rest → fld q.w 7 0 = 0x10 → psEmpty q.w = false → setsQuiet a = true → 0 < arrayClass m c →
      (∀ p, psContinue q.w = false → a.preload = some p →
        Does (.passFill c) s (finish s.env (m.modArr c (fun x =>
          { x with queue := rest, streaming := some { cmd := q, streamed := 0 }, draining := x.active, activeRaw := none,
                   active := some (tileFrom p q.w q.ctx), preload := none, drainCmd := false })))) ∧
      (∀ t, psContinue q.w = true → a.active = some t →
        Does (.passFill c) s (finish s.env (m.modArr c (fun x =>
          { x with queue := rest, streaming := some { cmd := q, streamed := 0 }, active := some { t with w := q.w } })))) ∧
      (∀ p, psContinue q.w = true → a.active = none → a.activeRaw = some p →
        Does (.passFill c) s (finish s.env (m.modArr c (fun x =>
          { x with queue := rest, streaming := some { cmd := q, streamed := 0 }, activeRaw := none,
                   active := some (tileFrom p q.w q.ctx) }))))) ∧
    (∀ r t, a.streaming = some r → a.active = some t → 0 < arrayClass m c →
      readsHeld a (passReads r.cmd.w r.streamed (psShare r.cmd.w)) = false → (m.ctx c r.cmd.ctx).saving.contains .array = false →
      trayBad m c (passReads r.cmd.w r.streamed (psShare r.cmd.w)) = none →
      let m1 := trayCount m c (passReads r.cmd.w r.streamed (psShare r.cmd.w))
      let m2 := countIdle m1 c (stretchIdle m1 c r.cmd.w (psShare r.cmd.w - r.streamed))
      Does (.passStreamingEnd c) s (finish s.env (startAll s.env (arrayAdvance s.env (m2.modArr c (fun x =>
        { x with streaming := none, active := some (streamTile m1 c r.cmd.w r.streamed (psShare r.cmd.w) t) })) c) c))) ∧
    (∀ p, a.preload = some p → p.loaded = false → (p.after = false ∨ readsHeld a (preloadReads p.w) = false) →
      trayBad m c (preloadReads p.w) = none →
      let m1 := trayCount m c (preloadReads p.w)
      Does (.preloadLoadEnd c) s (finish s.env (arrayAdvance s.env (m1.modArr c (fun x =>
        { x with preload := some { p with loaded := true, values := preloadValues m1 c p.w } })) c))) ∧
    (∀ t, a.draining = some t →
      ((∀ p, a.preload = some p → p.loaded = true ∨ p.after = true ∨ readsHeld a (preloadReads p.w) = false) →
        Does (.tileDrainEnd c) s (drained m t)) ∧
      (∀ p, a.preload = some p → p.loaded = false → p.after = false → readsHeld a (preloadReads p.w) = true →
        trayBad m c (preloadReads p.w) = none →
        let m1 := trayCount m c (preloadReads p.w)
        Does (.tileDrainEnd c) s (drained (m1.modArr c (fun x =>
          { x with preload := some { p with loaded := true, values := preloadValues m1 c p.w } })) t)))

/-- The end of the running command of the Chisel, the Marquetry engine or the Scribe unit (R147, R163, R235): the status and the signal
are written, and the engine starts its next command when it can. On a tray whose words are all readable the Chisel's always comes
(R159), but for a `SMAX_BLOCK` whose state record does not fit its POS (R154), here one in its last row or with none left; so does a
merge command's that is past its start, which needs nothing but the tray (R186, R188), and that of a command past its start that has
taken its last item. Any other command ends so when its run meets no fault. -/
def Obligations.EngineCommandsEnd : Prop :=
  ∀ (s : State) (c : Nat) (x : EngCmd) (xs : List EngCmd),
    let m := s.mach
    let reduced (m1 : Mach) (y : EngCmd) : Mach :=
      let m2 := setEngQueue m1 c (y :: xs) .chisel
      finish s.env (popHead s.env (vecStatus s.env m2 c y false (lateWork m2 c y.ctx)) c .chisel)
    let gathered (m1 : Mach) (y : EngCmd) : Mach :=
      let m2 := setEngQueue m1 c (y :: xs) .marquetry
      finish s.env (popHead s.env (gatStatus s.env m2 c y false (lateWork m2 c y.ctx)) c .marquetry)
    let traversed (m1 : Mach) (y : EngCmd) : Mach :=
      let m2 := setEngQueue m1 c (y :: xs) .scribe
      finish s.env (arrayAdvance s.env (popHead s.env (scrStatus s.env m2 c y false (lateWork m2 c y.ctx)) c .scribe) c)
    let op := fld x.w 7 0
    let readable := (m.core c).trayErr.all (fun p => decide (p.2 < 2))
    coreClocked s.env m c = true → x.started = true →
    (engQueue m c .chisel = x :: xs → (m.ctx c x.ctx).saving.contains .chisel = false →
      (readable = true →
        (op ≠ 0x23 ∨ vcRows x.w ≤ x.item ∨
          (vcRows x.w = x.item + 1 ∧ trayNat m c (stateAt x.w x.item + 8) 4 = vcPos x.w ∧
            trayNat m c (stateAt x.w x.item + 12) 4 ≤ 4194304)) →
        ∃ m1 y, Does (.vectorCommandEnd c) s (reduced m1 y) ∧ engRun s.env m c .chisel (2 ^ 64) x = (m1, y, .done) ∧
          y.ctx = x.ctx ∧ y.w = x.w ∧ vcRows x.w ≤ y.item) ∧
      (∀ m1 y, engRun s.env m c .chisel (2 ^ 64) x = (m1, y, .done) → Does (.vectorCommandEnd c) s (reduced m1 y))) ∧
    (engQueue m c .marquetry = x :: xs → (m.ctx c x.ctx).saving.contains .marquetry = false →
      (engFresh x = false →
        ((op = 0x30 ∧ gtIndices x.w ≤ x.item) ∨ (op = 0x31 ∧ gtBags x.w ≤ x.pos) ∨ (op = 0x32 ∧ smVertices x.w ≤ x.item) →
          Does (.gatherCommandEnd c) s (gathered m x)) ∧
        (op = 0x33 ∨ op = 0x34 → readable = true → (m.core c).merge.all (fun q => decide (q.tags.length < 2 ^ 32)) = true →
          ∃ m1 y, Does (.gatherCommandEnd c) s (gathered m1 y) ∧ y.ctx = x.ctx ∧ y.w = x.w ∧
            (op = 0x33 → mgIndices x.w ≤ y.item) ∧ (op = 0x34 → (m1.core c).merge = none))) ∧
      (∀ m1 y, engRun s.env m c .marquetry (2 ^ 64) x = (m1, y, .done) → Does (.gatherCommandEnd c) s (gathered m1 y))) ∧
    (engQueue m c .scribe = x :: xs → (m.ctx c x.ctx).saving.contains .scribe = false →
      (engFresh x = false →
        (op = 0x41 → exCount x.w ≤ x.item → Does (.traversalCommandEnd ⟨c, none⟩) s (traversed m { x with stop := 0 })) ∧
        (op = 0x42 → apInCount x.w ≤ x.item →
          Does (.traversalCommandEnd ⟨c, none⟩) s (traversed m { x with stop := if x.stop = 4 then 4 else 0 })) ∧
        (op = 0x40 →
          (x.search = none ∧ scQueries x.w = 0) ∨
            (∃ q, x.search = some q ∧ q.batch = [] ∧ q.pend = [] ∧ q.ids = [] ∧ q.todo = [] ∧
              q.qs.all (fun z => z.stop.isSome) = true) →
          Does (.traversalCommandEnd ⟨c, none⟩) s (traversed m x))) ∧
      (∀ m1 y, engRun s.env m c .scribe (2 ^ 64) x = (m1, y, .done) → Does (.traversalCommandEnd ⟨c, none⟩) s (traversed m1 y)))

/-- R315: an engine that a context waits for finishes saving. The array waits for its drain, streams on to the slice boundary that the
report names, and swaps its tile out (R106, R107); the Chisel, the Marquetry engine and the Scribe unit save their running command at
a safe point, at once or a number of steps on, the Marquetry engine with the merge session the context holds (R318) and the Scribe
unit with its dirty lines (R362); the Batten unit saves the context's streams when none of them is being cancelled (R303). The
context then waits for one engine less. -/
def Obligations.EngineSaves : Prop :=
  ∀ (s : State) (c k n : Nat),
    let m := s.mach
    let left (en : Engine) (m : Mach) : Mach :=
      let m1 := saveMerge (if en = .scribe then flushOwner s.env m c k 0 0 else m) c k en
      finish s.env (trySaved s.env (startAll s.env (arrayAdvance s.env
        (m1.modCtx c k (fun x => { x with saving := x.saving.filter (fun y => y != en) })) c) c) c k)
    let waitsFor (en : Engine) : Prop := (List.range 16).find? (fun j => (m.ctx c j).saving.contains en) = some k
    (waitsFor .array → (m.arr c).draining = none →
      (∀ r t, (m.arr c).streaming = some r → (m.arr c).active = some t →
        let hi := min (psShare r.cmd.w) (r.streamed + toBoundary r.cmd.w n)
        trayBad m c (passReads r.cmd.w r.streamed hi) = none →
        Does (.engineSaveEnd c .array n) s (left .array (modSaved ((streamOn m c r hi t).1.modArr c (fun y =>
          { y with streaming := none, active := none })) c k (fun v =>
            { v with tile := some (streamOn m c r hi t).2, streaming := some { r with streamed := hi } })))) ∧
      (∀ t, (m.arr c).streaming = none → (m.arr c).active = some t →
        Does (.engineSaveEnd c .array n) s (left .array (modSaved (m.modArr c (fun y => { y with active := none })) c k (fun v =>
          { v with tile := some t })))) ∧
      ((m.arr c).active = none →
        Does (.engineSaveEnd c .array n) s (left .array (modSaved (m.modArr c (fun y => { y with activeRaw := none })) c k (fun v =>
          { v with raw := (m.arr c).activeRaw }))))) ∧
    (∀ en ∈ [Engine.chisel, .marquetry, .scribe], waitsFor en →
      (∀ x xs, engQueue m c en = x :: xs →
        Does (.engineSaveEnd c en 0) s (left en (popHead s.env (parkHead (setEngQueue m c (x :: xs) en) c k en x) c en))) ∧
      (engQueue m c en = [] → Does (.engineSaveEnd c en n) s (left en m)) ∧
      (∀ m1, saveEngine s.env m c k en n = (m1, true) → Does (.engineSaveEnd c en n) s (left en m1))) ∧
    (waitsFor .batten → (m.core c).streams.any (fun p => p.2.ctx == k && p.2.cancel.isSome) = false →
      Does (.engineSaveEnd c .batten n) s (left .batten (saveStreams s.env m c k n)))

/-! ### HBM -/

/-- A granule returns (R365, R366, R368, R369). One whose check passes is unchanged; a single corrected symbol under PROTECT counts in
its stack and among its channel's of the running second, and the count of 0x0500.50 sends the channel into training.
A read under the other attribute, or one with more corrupted symbols than its attribute corrects, writes the poison code, counts in
the stack's uncorrected counter and writes its record. A granule that holds the poison code is left as it is. -/
def Obligations.GranuleReturns : Prop :=
  ∀ (s : State) (pa symbols : Nat) (detect : Bool),
    let m := s.mach
    let failed : Mach := raiseFault ((setSide m (granule pa) .poison).modStack (stackOf (64 * granule pa)) (fun x =>
      { x with uncorrected := x.uncorrected + 1 })) (stackOf pa / 8) (checkFault s.env m (granule pa) detect)
    hbmServes m pa = true →
    (checkGranule m (granule pa) detect = .pass → symbols = 0 → Does (.hbmReadReturn pa detect symbols) s m) ∧
    (checkGranule m (granule pa) detect = .pass → symbols = 1 → detect = false →
      let ch := channelOf (offOf pa)
      let old := spGet (0, 0) (m.stack (stackOf pa)).chan ch
      let q := inSecond (nsAt s.strokes (stackOf pa / 8)) old.1 old.2
      (q.1 < m.hbm.retrainLimit → Does (.hbmReadReturn pa detect symbols) s (m.modStack (stackOf pa) (fun x =>
        { x with corrected := x.corrected + 1, chan := spSet x.chan ch q }))) ∧
      (m.hbm.retrainLimit ≤ q.1 → Does (.hbmReadReturn pa detect symbols) s (m.modStack (stackOf pa) (fun x =>
        { x with corrected := x.corrected + 1, chan := spErase x.chan ch,
                 training := ch :: x.training.filter (fun y => y != ch) })))) ∧
    (checkGranule m (granule pa) detect = .pass → (2 ≤ symbols ∨ (1 ≤ symbols ∧ detect = true)) →
      Does (.hbmReadReturn pa detect symbols) s failed) ∧
    (checkGranule m (granule pa) detect = .bad → Does (.hbmReadReturn pa detect symbols) s failed) ∧
    (checkGranule m (granule pa) detect = .poison → Does (.hbmReadReturn pa detect symbols) s m)

/-- A plain write of HBM (R367) stores its bytes at its address and no byte elsewhere, and keeps the memory's canonical form. A write of
a whole granule computes a new check and replaces a poison code. A partial write computes a new check when the granule's own passes;
on a granule that holds the poison code it stores its bytes and leaves the code; on one that fails its check it stores its bytes,
writes the poison code, counts in the stack and writes the record of R366. Nothing outside HBM changes but the fault rings. -/
def Obligations.HbmWriteStores : Prop :=
  ∀ (s : State) (pa : Nat) (detect : Bool) (data : List Byte),
    let m := s.mach
    let g := granule pa
    let stored (a : Mach) : Mach := { a with hbm := { a.hbm with cells := memWrite a.hbm.cells pa data } }
    hbmServes m pa = true → winOf pa = 0 → (m.stack (stackOf pa)).pairB = 255 → Memory.wf m.hbm.cells = true →
    Reaches (.hbmWrite pa detect data) s (fun n =>
      memRead n.hbm.cells pa data.length = data ∧
      (∀ a, a < pa ∨ pa + data.length ≤ a → memGet n.hbm.cells a = memGet m.hbm.cells a) ∧
      Memory.wf n.hbm.cells = true ∧
      n.cores = m.cores ∧ n.tables = m.tables ∧ n.fabric = m.fabric ∧ n.host = m.host ∧ n.mgmt = m.mgmt ∧ n.power = m.power ∧
      n.fences = m.fences ∧ n.signals = m.signals ∧ n.due = m.due) ∧
    (pa % 64 = 0 → data.length = 64 → Does (.hbmWrite pa detect data) s (stored (setSide m g (sideOf detect)))) ∧
    (data ≠ [] → pa % 64 + data.length ≤ 64 → data.length < 64 →
      (checkGranule m g detect = .pass → Does (.hbmWrite pa detect data) s (stored (setSide m g (sideOf detect)))) ∧
      (checkGranule m g detect = .poison → Does (.hbmWrite pa detect data) s (stored m)) ∧
      (checkGranule m g detect = .bad → Does (.hbmWrite pa detect data) s (stored (raiseFault
        ((setSide m g .poison).modStack (stackOf (64 * g)) (fun x => { x with uncorrected := x.uncorrected + 1 }))
        (stackOf (64 * g) / 8) (checkFault s.env m g detect)))))

/-- What a glue window does to one element (R380): a rounded FP32 or BF16 sum, a sum of two's-complement integers modulo their width,
or the larger of two signed 64-bit integers. -/
def Obligations.GlueOperations : Prop :=
  ∀ a b : Nat,
    glueOp 1 a b = fencode fFP32 (vadd (fdecode fFP32 a) (fdecode fFP32 b)) ∧
    glueOp 2 a b = fencode fBF16 (vadd (fdecode fBF16 a) (fdecode fBF16 b)) ∧
    (BitVec.ofNat 32 (glueOp 3 a b) = BitVec.ofNat 32 a + BitVec.ofNat 32 b ∧ glueOp 3 a b < 2 ^ 32) ∧
    (BitVec.ofNat 64 (glueOp 4 a b) = BitVec.ofNat 64 a + BitVec.ofNat 64 b ∧ glueOp 4 a b < 2 ^ 64) ∧
    (a < 2 ^ 64 → b < 2 ^ 64 →
      (BitVec.ofNat 64 (glueOp 5 a b)).toInt = max (BitVec.ofNat 64 a).toInt (BitVec.ofNat 64 b).toInt)

/-- A glue write of one element through any of the five windows (R380, R382, R384): on a part that trains, aligned, on a granule whose
check passes, the element becomes the operation of what it held and of the payload, the granule's check is computed again for the
write's attribute, and no other byte changes. On a granule that holds the poison code the code stays, and the effect is lost and
counted; on one that fails its check the code is written, the effect is lost and counted, and the record is written, which a later
write, finding the code, does not repeat. -/
def Obligations.GlueWrites : Prop :=
  ∀ (s : State) (src : Writer) (off : Nat) (detect : Bool) (data : List Byte),
    ∀ p ∈ [(1, Instr.addFp32 src off detect data), (2, .addBf16 src off detect data), (3, .addInt32 src off detect data),
        (4, .addInt64 src off detect data), (5, .maxInt64 src off detect data)],
      let m := s.mach
      let pa := p.1 * 2 ^ 40 + off
      let g := granule pa
      off < 2 ^ 40 → hbmServes m pa = true → s.variant.train = true → glueAligned p.1 pa data.length = true →
      data.length = glueSize p.1 → lostBlock m pa = false →
      (checkGranule m g detect = .pass →
        let v := glueOp p.1 (memNat m.hbm.cells off data.length) (leNat data)
        let m1 := setSide m g (sideOf detect)
        Does p.2 s { m1 with hbm := { m1.hbm with cells := memWrite m1.hbm.cells off (leBytes data.length v) } }) ∧
      (checkGranule m g detect = .poison →
        Does p.2 s { m with hbm := { m.hbm with glueLost := m.hbm.glueLost + 1 } }) ∧
      (checkGranule m g detect = .bad →
        let m1 := raiseFault ((setSide m g .poison).modStack (stackOf (64 * g)) (fun x => { x with uncorrected := x.uncorrected + 1 }))
          (stackOf pa / 8) (checkFault s.env m g detect)
        Does p.2 s { m1 with hbm := { m1.hbm with glueLost := m1.hbm.glueLost + 1 } } ∧
          (lostBlock m (64 * g) = false → checkGranule m1 g detect = .poison))

/-- On a part that does not train the glue windows have no unit (R12, R385): a context's glue write, wherever it goes, ends its work
with UNIT_ABSENT; on a part that trains a glue write that breaks an element ends it with GLUE_ALIGN (R381). -/
def Obligations.GlueRefused : Prop :=
  ∀ (s : State) (c k off : Nat) (detect : Bool) (data : List Byte),
    ∀ p ∈ [(1, Instr.addFp32 (.context c k) off detect data), (2, .addBf16 (.context c k) off detect data),
        (3, .addInt32 (.context c k) off detect data), (4, .addInt64 (.context c k) off detect data),
        (5, .maxInt64 (.context c k) off detect data)],
      let pa := p.1 * 2 ^ 40 + off
      off < 2 ^ 40 → s.mach.hbm.on = true → s.mach.hbm.selfRefresh = false →
      (s.variant.train = false → Does p.2 s (finish s.env (failCtx s.env s.mach c k famMemory cUnitAbsent))) ∧
      (s.variant.train = true → hbmServes s.mach pa = true → glueAligned p.1 pa data.length = false →
        Does p.2 s (finish s.env (failCtxAt s.env s.mach c k famMemory 0x15 0 pa 0)))

/-- Lanes and pairs (R369 to R371). A channel pauses to train. When enough spare lanes are left the channel is remapped and goes on.
Without, the first pair of its stack is fenced, with an evacuation unless it fell at boot, the second one exhausts the stack, and any
further one is fenced too (R28). The end of an evacuation leaves the lost granules of the pair poisoned. -/
def Obligations.LanesAndPairs : Prop :=
  ∀ (s : State) (st ch failing spares cause : Nat),
    let m := s.mach
    m.hbm.on = true →
    (st < 16 → ch < 32 → Does (.channelRetrain st ch) s (m.modStack st (fun x =>
      { x with training := ch :: x.training.filter (fun y => y != ch) }))) ∧
    ((m.stack st).training.contains ch = true →
      let m1 := m.modStack st (fun x => { x with training := x.training.filter (fun y => y != ch) })
      (failing ≤ spares → Does (.channelRetrainEnd st ch failing spares cause) s
        (m1.modStack st (fun x => { x with remapped := min 255 (x.remapped + failing) }))) ∧
      (spares < failing → ch ≠ 255 → (m.stack st).more.contains ch = false →
        ((m.stack st).pairA = 255 → (m.stack st).pairB = 255 →
          let m2 := m1.modStack st (fun y => { y with pairA := ch, evacuating := decide (cause ≠ 1) })
          Does (.channelRetrainEnd st ch failing spares cause) s
            (raiseFault m2 (st / 8) { mkFault s.env m2 (st / 8) famMemory 0x16 1 with detail := st * 32 + ch + 65536 * cause })) ∧
        ((m.stack st).pairA ≠ 255 → (m.stack st).pairA ≠ ch → (m.stack st).pairB = 255 →
          Does (.channelRetrainEnd st ch failing spares cause) s
            (raiseFault (m1.modStack st (fun y => { y with pairB := ch })) (st / 8)
              { mkFault s.env m1 (st / 8) famMemory 0x17 1 with detail := st + 256 * ch })) ∧
        ((m.stack st).pairA ≠ 255 → (m.stack st).pairA ≠ ch → (m.stack st).pairB ≠ 255 → (m.stack st).pairB ≠ ch →
          let m2 := m1.modStack st (fun y => { y with more := y.more ++ [ch] })
          Does (.channelRetrainEnd st ch failing spares cause) s
            (raiseFault m2 (st / 8) { mkFault s.env m2 (st / 8) famMemory 0x16 1 with detail := st * 32 + ch + 65536 * cause })))) ∧
    (∀ pair lost, (m.stack (pair / 32)).evacuating = true → (m.stack (pair / 32)).pairA = pair % 32 →
      Does (.pairEvacuationEnd pair lost) s
        ((lost.filter (fun g => stackOf (64 * g) == pair / 32 && channelOf (offOf (64 * g)) == pair % 32)).foldl
          (evacuated s.env) (m.modStack (pair / 32) (fun y => { y with evacuating := false }))))

/-- What the sequencer and the engines read of memory (R346, R350, R360, R388, R389). A fetch reads the command at the context's
position through the drawer cache; a prefetch brings the next two lines of a READY or RUNNING context's stream, as far as it has them,
into the side buffer; a page that the translation buffer holds becomes its most recently used one; a page walk that finds its page
fills the translation buffers and does nothing else, and one that finds none leaves the context in FAULT_WAIT with a record and stops
the engine whose access it was. -/
def Obligations.FetchesAndWalks : Prop :=
  ∀ (s : State) (c k : Nat),
    let m := s.mach
    let x := m.ctx c k
    (issues s.env m c k = true → x.pos < x.length →
      Does (.sequencerFetch c k none) s (finish s.env (seqFetch s.env m c k (x.base + x.step * x.pos) x.step).1)) ∧
    (issues s.env m c k = true → x.length ≤ x.pos →
      Does (.sequencerFetch c k none) s (finish s.env (failCtx s.env m c k famHost 0x13))) ∧
    (coreClocked s.env m c = true → x.state = .ready ∨ x.state = .running →
      let line := (x.base + x.step * x.pos) / 128
      let ahead (n : Nat) (y : Mach) : Mach :=
        if 128 * n < x.base + x.step * x.length then prefetchLine s.env y c k (128 * n) else y
      Does (.commandPrefetch c k) s (ahead (line + 2) (ahead (line + 1) m))) ∧
    (∀ (va source slot : Nat) (write : Bool), coreClocked s.env m c = true →
      (∀ t pa d, va < 2 ^ 52 → isAperture va = false → (m.core c).tlb1.find? (fun y => y.page == va / 2 ^ 30) = none →
        (m.core c).tlb2.find? (fun y => y.page == va / 2 ^ 21) = some t →
        useLeaf s.env m false write t.frame va t.write t.detect = .ok pa d →
        Does (.pageWalk c k va write source slot) s
          (m.setCore c { m.core c with tlb2 := tlbTouch 1024 (m.core c).tlb2 t })) ∧
      (∀ m1 pa d, translate s.env m c va write = (m1, .ok pa d) → Does (.pageWalk c k va write source slot) s m1) ∧
      (∀ m1 kd l, translate s.env m c va write = (m1, .fault kd l) →
        Does (.pageWalk c k va write source slot) s (finish s.env
          (walkStops s.env (transFault s.env m1 c k kd l va write source slot) c k source slot))))

/-! ### Live tables -/

/-- The tail and progress registers of the tables (R206, R221, R258), while both gauges share one copy of them: a publication tail is
taken, and counts as in time when it came early enough; an update tail is taken; the total of jobs 1 to 15 is taken and the job's
count starts again at the next boundary, while a total of all ones is refused with RESERVED_COUNT and a job out of range with
BOUNDS. -/
def Obligations.TableRegisterWrites : Prop :=
  ∀ (s : State) (via : Via) (n : Nat), apartRegs s.mach = false →
    let m := s.mach
    (∀ early : Bool, writeReaches s via 0x0900 3 false = true →
      Does (.publicationTailWrite via n early) s (dictResult via 0x0900 3 0 { m with tables := { m.tables with
        pubTail := n % 2 ^ 32, pubTailEarly := if early then n % 2 ^ 32 else m.tables.pubTailEarly } })) ∧
    (writeReaches s via 0x0900 9 false = true →
      Does (.updateTailWrite via n) s (dictResult via 0x0900 9 0 { m with tables := { m.tables with updTail := n % 2 ^ 32 } })) ∧
    (∀ job : Nat, writeReaches s via 0x0800 job false = true →
      (1 ≤ job → job ≤ 15 → n % 2 ^ 64 ≠ 2 ^ 64 - 1 →
        Does (.progressTotalWrite via job n) s (dictResult via 0x0800 job 0 { m with mgmt := { m.mgmt with
          totals := spSet m.mgmt.totals job (BitVec.ofNat 64 n), zeroing := job :: m.mgmt.zeroing.filter (fun j => j != job) } })) ∧
      (1 ≤ job → job ≤ 15 → n % 2 ^ 64 = 2 ^ 64 - 1 → Does (.progressTotalWrite via job n) s (dictResult via 0x0800 job 2 m)) ∧
      (job = 0 ∨ 15 < job → Does (.progressTotalWrite via job n) s (dictResult via 0x0800 job 1 m)))

/-- The writer of a die takes its next update entry (R221, R222). An empty ring leaves everything as it is. An entry that breaks step 1's
rules, one of a table whose overlay does not lie on the other die, and on a split device every one, ends with a RESULT: the entry's
bytes are read from host-die memory, the RESULT and the stroke are written back into the entry, the RESULT is counted in its counter,
and the head moves on. One whose overlay lies on the other die is left to that die's writer. -/
def Obligations.UpdateTaken : Prop :=
  ∀ (s : State) (d : Nat),
    let m := s.mach
    let h := (dieTables m d).updHead
    let at_ := m.tables.updBase + h % 2 ^ m.tables.updSize * 2 ^ m.tables.updEntry
    let entry := hostRead m at_ 64
    let bad := updateBad m d (2 ^ m.tables.updEntry) entry
    let home := homeDie s.env d (dOverlayPtr (descOn m d (leNat ((entry.drop 2).take 2)))) m
    let takes := takeUpdate s.env d (2 ^ m.tables.updEntry) entry (hostRead m (at_ + 64) (2 ^ m.tables.updEntry - 64)) m
    (h = rwRead m d (rwKey 0x0900 9) m.tables.updTail → Does (.put d) s m) ∧
    (d < 2 → dieFenced m d = false → m.hbm.on = true → m.mgmt.leaderless = false → hostReached s.env m d = true →
      m.tables.updBase ≠ 0 → h ≠ rwRead m d (rwKey 0x0900 9) m.tables.updTail →
      (bad = true ∨ home ≠ some (1 - d) ∨ s.strokes.split = true →
        ∃ m1 r, takes = (m1, some r) ∧ r ≤ 6 ∧
          let m2 := hostWrite (hostWrite m1 (at_ + 24) (leBytes 4 r)) (at_ + 32) (leBytes 8 (strokeAt s.strokes d))
          Does (.put d) s (setUpdHead s.env d (h + 1) { m2 with tables := countUpdate m2.tables r })) ∧
      (bad = true → takes = (m, some 2)) ∧
      (bad = false → home = some (1 - d) → s.strokes.split = false → Does (.put d) s m))

/-- The stages of a compaction (R225). When every live version is past the cut, stage 2 folds the overlay's rows into the base and
stage 3, on a filter core in service that this half holds, builds the other filter, each once, over all rows of the overlay, and the
compaction has then finished that stage. So it is whenever the overlay's header can be read, as from a mapped page whose granule
passes its check. -/
def Obligations.CompactionStages : Prop :=
  ∀ (s : State) (d t : Nat) (c : Compaction),
    let m := s.mach
    let x := tableSlot m d t
    let ptr := dOverlayPtr x.desc
    let staged (m1 : Mach) (a : OverlayAt) : Prop :=
      let rows := allRows s.env a m1
      (c.stage = 1 → Does (.compactionBaseWrites d t) s
        (modSlot (rows.2.foldl (fun y b => foldRow s.env a x.desc c.cut b y) rows.1) d t (fun y =>
          { y with compaction := some { c with stage := 2 } }))) ∧
      (c.stage = 2 → coreIn s.env m a.o.filterCore = true → filterAway s.env a = false →
        Does (.compactionFilterBuild d t) s
          (modSlot ((rows.2.filter (fun b => !tagVisible b.tag c.cut)).foldl (fun y b => setFilterBits s.env a (filterOther a.o) b.row y)
            (trayWrite rows.1 a.o.filterCore (filterOther a.o) (List.replicate (2 ^ (a.o.filterLog2 - 3)) 0))) d t (fun y =>
            { y with compaction := some { c with stage := 3 } })))
    d < 2 → dieFenced m d = false → m.hbm.on = true → x.compaction = some c → precedes32 (oldestOf x) c.cut = false →
    (∀ m1 a, openOverlay s.env d ptr m = (m1, some a) → staged m1 a) ∧
    (∀ pa dt, deviceTranslate s.env m d ptr false = (m, .ok pa dt) → ptr % 64 = 0 → pa % 64 = 0 →
      checkGranule m (granule pa) dt = .pass →
      let bs := memRead m.hbm.cells (plainOf pa) 64
      staged m { die := d, place := ptr, raw := leNat bs, o := overlayOf bs })

/-! ### Streams -/

/-- What happens to streams outside the sequencer's turn. A `STREAM` found ahead that nothing stops is started and noted as dispatched,
behind one command of an engine, or wherever the look-ahead of R281 finds it (R281, R282). A pass that reaches its end with nothing to
relay ends its stream's pass, and one that has no block left has reached it (R273, R274). A stream asked to cancel goes through its
cancellation sequence, and its context's ended work is closed when it was the last (R295). A target of a chain relays its oldest
buffer to the next target (R285). Of the parties of stalled rails of one half the youngest faults, and a stream among them is
cancelled too (R298). -/
def Obligations.StreamEvents : Prop :=
  ∀ (s : State) (c slot : Nat),
    let m := s.mach
    (∀ (k : Nat) (u w : Word) (ws : List Word) (y : Ctx) (v : Word) (marked : Bool),
      let x := m.ctx c k
      x.state = .running ∨ x.state = .ready ∨ x.state = .waiting → x.saving = [] → x.held = false → coreClocked s.env m c = true →
      fld v 7 0 = 0x50 → ws.length ≤ 63 → y.early = [] → stGuided v = false → (stClass v ≠ 1 ∨ marked = false) →
      (x.cx6 = false ∨ cx6Bad v = false) → m.stream? c (stSlot v) = none → (stSrcKind v ≠ 2 ∨ heldByWindow s.env c = false) →
      firstBad (streamChecks s.env m c k v) = none →
      let started : Mach :=
        finish s.env (startStream s.env (m.modCtx c k (fun z => { z with early := z.early ++ [v] })) c k v)
      (lookAlong m c (u :: (ws ++ [w])) x false = some (y, v, marked) → Does (.streamEarlyDispatch c k u ws w) s started) ∧
      (ws = [] → x.patches = [] → x.early = [] → x.pos < x.length → patchDue x = false →
        0x10 ≤ fld (dispatched x u).2 7 0 → fld (dispatched x u).2 7 0 < 0x50 → marked = flag (dispatched x u).2 16 →
        y = (dispatched x u).1.past (dispatched x u).2 → y.pos < y.length → patchDue y = false → v = (dispatched y w).2 →
        Does (.streamEarlyDispatch c k u ws w) s started)) ∧
    (∀ y, m.stream? c slot = some y → streamLive s.env m c y = true → guidedHeld s.env c y = false →
      (∀ y1 m1, streamRun s.env c slot (2 ^ 64) m = (m1, .ended) → m1.stream? c slot = some y1 → y1.relays = [] →
        Does (.streamPassEnd c slot) s (finish s.env (passEnds s.env m1 c slot y1))) ∧
      (y.unread = false → y.flight = [] → stBlocks y.w ≤ y.src.blk → y.relays = [] →
        Does (.streamPassEnd c slot) s (finish s.env (passEnds s.env (m.setStream c slot y) c slot y)))) ∧
    (∀ y x inFlight, m.stream? c slot = some y → y.cancel = some x →
      Does (.streamCancellation c slot inFlight) s
        (finish s.env (tryClose s.env (cancelSequence s.env m c slot inFlight x) c y.ctx))) ∧
    (∀ y hop x t, m.stream? c slot = some y → y.cancel = none → y.relays.find? (fun z => z.hop == hop) = some x →
      (stTargets y.w)[hop + 1]? = some t → (stTargets y.w)[hop + 2]? = none → x.released = false → mayTake m t (stRail y.w) = true →
      (m.rail t (stRail y.w)).entries.length < 64 →
      let src := bufferAddr (m.pool x.core (m.rail x.core (stRail y.w)).pool) x.buffer
      trayBad m x.core [(src, x.h.length)] = none →
      let a := takeBuffer (trayCount m x.core [(src, x.h.length)]) t (stRail y.w)
      let m1 := trayWrite a.1 t (bufferAddr (m.pool t (m.rail t (stRail y.w)).pool) a.2) (trayRead m x.core src x.h.length)
      Does (.chainRelay c slot hop) s (finish s.env (pushHandle s.env
        (m1.setStream c slot { y with relays := y.relays.filter (fun z => !(z == x)) }) t (stRail y.w)
        { h := { x.h with buffer := a.2 }, origin := some (c, slot, y.gen), spent := false, generated := !y.reads, maker := none }))) ∧
    (∀ rails p h, rails.all (fun r => halfOf s.strokes (dieOf r.1) == h) = true →
      youngest (rails.flatMap (fun r => railParties m r.1 r.2)) = some p →
      let m1 := match p.slot with
        | some n => markCancel m p.core n { drop := false, quiet := [], fenced := [], unbound := [] }
        | none => m
      Does (.railDeadlock rails) s (finish s.env (failCtx s.env m1 p.core p.ctx famClamp 0x11)))

/-- A signal reaches its clamp (R332, R334, R335): the oldest of its sender to that clamp is taken off its way. On an OWNED clamp in
service the counter goes up by the signal's value, no further than its largest value, and the waiters are checked; on any other
clamp the signal is lost and counted in 0x0600.42. No collective slot watches the clamp. -/
def Obligations.SignalArrives : Prop :=
  ∀ (s : State) (snd : Sender) (c i : Nat) (g : Sig) (rest : List Sig),
    let m : Mach := { s.mach with signals := rest }
    takeSignal snd c i s.mach.signals = (some g, rest) → s.mach.fabric.colls = [] →
    (coreIn s.env m c = true → (m.clamp c i).state = .owned →
      Does (.clampSignalArrival snd c i) s (finish s.env
        (checkWaiters s.env (m.modClamp c i (fun y => { y with counter := min (y.counter + g.value) (2 ^ 64 - 2) })) c i))) ∧
    (coreIn s.env m c = false ∨ (m.clamp c i).state ≠ .owned →
      Does (.clampSignalArrival snd c i) s (finish s.env { m with signalsLost := m.signalsLost + 1 }))

/-- What a waiter check leaves (R335): a clamp keeps its state and owner, its counter does not rise, and every waiter that stays wants
more than a counter that some check met. A waiter with CONSUME takes its value off. -/
def Obligations.WaitersInOrder : Prop :=
  ∀ (cnt : Nat) (w : Waiter) (ws : List Waiter),
    (wakeList cnt ws).2.2 ≤ cnt ∧ (∀ x ∈ (wakeList cnt ws).2.1, x ∈ ws ∧ (wakeList cnt ws).2.2 < x.value) ∧
    (∀ x ∈ ws, x ∈ (wakeList cnt ws).1 ∨ x ∈ (wakeList cnt ws).2.1) ∧
    (cnt < w.value → wakeList cnt (w :: ws) =
      ((wakeList cnt ws).1, w :: (wakeList cnt ws).2.1, (wakeList cnt ws).2.2)) ∧
    (w.value ≤ cnt → w.consume = true → (wakeList cnt (w :: ws)).2.2 = (wakeList (cnt - w.value) ws).2.2)

/-! ### Contexts, submissions, actions -/

/-- The registers by which the host sets up and feeds contexts (R305, R306, R430 to R432, R435), where the endpoint reaches the core: a
descriptor that suits a FREE or IDLE context is taken, and a FREE one becomes IDLE; a submission or plan doorbell that neither goes
back nor runs past its ring moves the tail; and a doorbell out of range is refused with DOORBELL_RANGE. -/
def Obligations.ContextRegisters : Prop :=
  ∀ (s : State) (ep c k n : Nat), coreOpen s ep c = true → k < 16 →
    let m := s.mach
    let x := m.ctx c k
    let d := BitVec.ofNat 64 (descriptorMask n)
    (descriptorOk m c k { x with descriptor := d } = true →
      (x.state = .free → Does (.contextDescriptor ep c k n) s (finish s.env
        (setState s.env (m.modCtx c k (fun y => { y with descriptor := d })) c k .idle .none 0))) ∧
      (x.state = .idle → Does (.contextDescriptor ep c k n) s (finish s.env (m.modCtx c k (fun y => { y with descriptor := d }))))) ∧
    (x.serving = false →
      (doorbellBad x.subTail.toNat x.subHead.toNat n x.subSize = false →
        Does (.subTail ep c k n) s (m.modCtx c k (fun y => { y with subTail := BitVec.ofNat 32 n }))) ∧
      (doorbellBad x.subTail.toNat x.subHead.toNat n x.subSize = true →
        Does (.subTail ep c k n) s (refuse s.env m ep (ctxOff c k 0x14) 0x14))) ∧
    (doorbellBad (m.core c).planTail.toNat (m.core c).planHead.toNat n (m.core c).planSize = false →
      Does (.planTail ep c n) s (m.modCore c (fun y => { y with planTail := BitVec.ofNat 32 n }))) ∧
    (doorbellBad (m.core c).planTail.toNat (m.core c).planHead.toNat n (m.core c).planSize = true →
      Does (.planTail ep c n) s (refuse s.env m ep (planOff c 0x0C) 0x14))

/-- A batch context takes the entry at its head (R432): IDLE, or READY without a stream, on a clocked core, with an entry to take. The
entry is read from memory, and one that keeps the rules leaves the context READY at command 0 of its stream. A SAVED context that the
sequencer chooses waits with UNIT when something it needs is taken; else, where its save area can be read, its work goes back and it
runs, and one that holds no stream takes its next entry or is IDLE (R309, R310, R324). -/
def Obligations.WorkIsTaken : Prop :=
  ∀ (s : State) (c k : Nat),
    let m := s.mach
    let x := m.ctx c k
    (coreClocked s.env m c = true → x.state = .idle ∨ x.state = .ready → entryPending x = true →
      Does (.submissionTake c k) s (finish s.env (takeEntry s.env m c k)) ∧
      ∀ m1 b, entryFetch s.env (setState s.env m c k .ready .none 0) c k (x.subBase + 64 * (x.subHead.toNat % 2 ^ x.subSize)) = (m1, some b) →
        takeEntry s.env m c k = startEntry s.env m1 c k b) ∧
    (x.state = .saved → sequencerChoice s.env m c = some k →
      (restoreBlocked m c k = true → Does (.contextRestore c k) s (setState s.env m c k .saved .unit 0)) ∧
      (restoreBlocked m c k = false → (∀ v, x.saved = some v → trayBad m c (savedReads x v) = none) →
        let m1 := restoreCtx s.env m c k
        (m1.ctx c k).state = .running ∧
        (x.serving = true ∨ x.running = true → Does (.contextRestore c k) s (finish s.env m1)) ∧
        (x.serving = false → x.running = false →
          (entryPending x = true → Does (.contextRestore c k) s (finish s.env (takeEntry s.env m1 c k))) ∧
          (entryPending x = false → Does (.contextRestore c k) s (finish s.env (setState s.env m1 c k .idle .none 0))))))

/-- The six actions (R433, R434), where the endpoint reaches the core and no action of the context is pending: one that is legal in the
context's state becomes pending for the completion ring that COMP names and is carried out; one that is not is refused with BOUNDS.
A PREEMPT holds the context and ends at once when it is IDLE, SAVED or FAULTED. -/
def Obligations.Actions : Prop :=
  ∀ (s : State) (ep c k : Nat), coreOpen s ep c = true → k < 16 →
    let m := s.mach
    let x := m.ctx c k
    (∀ p ∈ [(Action.preempt, Instr.preempt ep c k), (.release, .release ep c k), (.cancel, .contextCancel ep c k), (.kill, .kill ep c k),
        (.reset, .reset ep c k), (.resume, .resume ep c k)],
      (actionLegal x p.1 = true → x.pendAction = none → x.ending = none →
        Does p.2 s (finish s.env (runAction s.env (m.modCtx c k (fun y => { y with pendAction := some (p.1, y.comp) })) c k p.1))) ∧
      (actionLegal x p.1 = false → Does p.2 s (refuse s.env m ep (ctxOff c k 0x20) 1))) ∧
    (x.state = .idle ∨ x.state = .saved ∨ x.state = .faulted → x.pendAction = none → x.ending = none → x.serving = false →
      Does (.preempt ep c k) s (finish s.env (actionRecord s.env
        (((m.modCtx c k (fun y => { y with pendAction := some (.preempt, y.comp) })).modCtx c k (fun y => { y with held := true })).modCtx
          c k (fun y => { y with pendAction := none })) c k x.comp 0 1)))

/-! ### Intake, stroke work, completion rings -/

/-- Intake rings (R53, R430, R438 to R440, R563), where the endpoint reaches the ring's die. A doorbell in range moves the tail, and
each request it brings has age 0; one out of range is refused with DOORBELL_RANGE. The second and third word of a descriptor are
held; the first applies all three when they keep the rules and the ring is not enabled. -/
def Obligations.IntakeRegisters : Prop :=
  ∀ (s : State) (ep i n : Nat), barOpen s ep (ringDie s.mach ep i) = true → 1 ≤ i → i ≤ 1024 →
    let m := s.mach
    let x := m.intake i
    (doorbellBad x.tail.toNat x.head.toNat n x.desc.sizeLog2 = false →
      Does (.intakeTail ep i n) s (m.modIntake i (fun y =>
        { y with tail := BitVec.ofNat 32 n, ages := y.ages ++ List.replicate (diff32 y.tail.toNat n) 0 }))) ∧
    (doorbellBad x.tail.toNat x.head.toNat n x.desc.sizeLog2 = true →
      Does (.intakeTail ep i n) s (refuse s.env m ep (intakeOff i 0x18) 0x14)) ∧
    Does (.intakeDesc ep i 1 n) s (m.modIntake i (fun y => { y with word1 := n % 2 ^ 64 })) ∧
    Does (.intakeDesc ep i 2 n) s (m.modIntake i (fun y => { y with word2 := n % 2 ^ 64 })) ∧
    (x.desc.enable = false →
      (intakeBad m i (intakeFields n x.word1 x.word2) = none →
        Does (.intakeDesc ep i 0 n) s (m.modIntake i (fun y => { y with desc := intakeFields n x.word1 x.word2 }))) ∧
      (∀ code, intakeBad m i (intakeFields n x.word1 x.word2) = some code →
        Does (.intakeDesc ep i 0 n) s (refuse s.env m ep (intakeOff i 0) code)))

/-- Stroke work (R440, R441). A finished batch copy has put the batch record and the requests into the context's tray, has moved the
ring's head past them and counted them as taken, and gives them to the context's work of that stroke; a batch without requests gives
its record alone. Complete work answers its requests and is open no more. -/
def Obligations.StrokeWork : Prop :=
  ∀ (s : State),
    let m := s.mach
    (∀ i y ys, (m.intake i).copies = y :: ys → y.ages = [] → coreIn s.env m y.core = true →
      coreIn s.env (trayWrite m y.core ((m.intake i).desc.reqBase * 64 + 64) []) y.core = true →
      Does (.intakeBatchCopyEnd i) s (finish s.env (deliverBatch s.env
        ((trayWrite (trayWrite m y.core ((m.intake i).desc.reqBase * 64 + 64) []) y.core ((m.intake i).desc.reqBase * 64)
          (batchRecord y 0 0 y.leftOver)).modIntake i (fun z =>
            { z with copies := ys, head := z.head + BitVec.ofNat 32 0, taken := z.taken + BitVec.ofNat 64 0,
                     leftOver := z.leftOver + BitVec.ofNat 64 (bit y.leftOver) })) i y []))) ∧
    (∀ i y ys m1 qs bytes a, (m.intake i).copies = y :: ys →
      readEntries s.env y.core (m.intake i).desc y.first y.ages.length m = (m1, some (qs, bytes), a) → coreIn s.env m1 y.core = true →
      coreIn s.env (trayWrite m1 y.core ((m.intake i).desc.reqBase * 64 + 64) bytes) y.core = true →
      Does (.intakeBatchCopyEnd i) s (finish s.env (deliverBatch s.env
        ((trayWrite (trayWrite m1 y.core ((m.intake i).desc.reqBase * 64 + 64) bytes) y.core ((m.intake i).desc.reqBase * 64)
          (batchRecord y qs.length (y.ages.headD 0) y.leftOver)).modIntake i (fun z =>
            { z with copies := ys, head := z.head + BitVec.ofNat 32 qs.length, taken := z.taken + BitVec.ofNat 64 qs.length,
                     leftOver := z.leftOver + BitVec.ofNat 64 (bit y.leftOver) })) i y qs))) ∧
    (∀ c k, workComplete m c k = true →
      Does (.strokeWorkComplete c k) s (finish s.env ((finishRequests s.env m c k false false).modCtx c k (fun x =>
        { x with workOpen := false, late := false, intake := [] })))) ∧
    (∀ c k, workComplete m c k = false → Does (.strokeWorkComplete c k) s m)

/-- Completion rings (R443, R444). A head written by the host is taken, and records that wait are written as far as the ring has room.
The end of the moderation interval sends the vector that is held, and starts the interval again; with none held the interval is over. -/
def Obligations.CompletionRings : Prop :=
  ∀ (s : State) (ep r n : Nat),
    let m := s.mach
    let x := m.compRing r
    (barOpen s ep ep = true → r < 64 →
      Does (.completionHead ep r n) s (drainStore r 1024 (m.setComp r { x with head := BitVec.ofNat 32 n })) ∧
      (x.store = [] → Does (.completionHead ep r n) s (m.setComp r { x with head := BitVec.ofNat 32 n }))) ∧
    (x.vector ≠ 0 → x.running0 = true →
      (x.held0 = true → Does (.msixModerationEnd 0 r) s (pushMsix
        ((m.setComp r { x with running0 := false, held0 := false }).setComp r
          { x with running0 := decide (x.moderation ≠ 0), held0 := false }) 0 x.vector)) ∧
      (x.held0 = false → Does (.msixModerationEnd 0 r) s (m.setComp r { x with running0 := false, held0 := false }))) ∧
    (x.vector ≠ 0 → x.running1 = true →
      (x.held1 = true → Does (.msixModerationEnd 1 r) s (pushMsix
        ((m.setComp r { x with running1 := false, held1 := false }).setComp r
          { x with running1 := decide (x.moderation ≠ 0), held1 := false }) 1 x.vector)) ∧
      (x.held1 = false → Does (.msixModerationEnd 1 r) s (m.setComp r { x with running1 := false, held1 := false })))

/-- A completion record goes to the ring's TAIL with a PHASE that is 1 on the first pass over the ring and changes on every pass, and
TAIL moves on by one; with no room it waits behind the records that wait already, of which there are at most 1,024, and beyond those
it is lost and counted (R442, R443). -/
def Obligations.CompletionRecords : Prop :=
  ∀ (e : Env) (m : Mach) (r : Nat) (q : Completion),
    let x := m.compRing r
    (x.store = [] → x.writable = true → x.vector = 0 →
      pushCompletion e m r q = (hostWrite m (x.base + 32 * (x.tail.toNat % 2 ^ x.sizeLog2))
        (completionBytes q (1 - x.tail.toNat / 2 ^ x.sizeLog2 % 2))).setComp r { x with tail := x.tail + 1 }) ∧
    ((x.store ≠ [] ∨ x.writable = false) → x.store.length < 1024 →
      pushCompletion e m r q = m.setComp r { x with store := x.store ++ [q] }) ∧
    (1024 ≤ x.store.length → x.saidLost = true →
      pushCompletion e m r q = m.setComp r { x with lost := x.lost + 1, saidLost := true })

/-! ### What the host reads and writes -/

/-- Device memory as the host die sees it (R445, R446). A write to HBM or a tray that an endpoint reaches stores its bytes there; a read
of a tray without uncorrectable words answers its bytes, unpoisoned. Registers that the host reads answer the register's bytes, and a
register that is written through BAR0 or BAR2 does what its register's own command does. -/
def Obligations.HostAccesses : Prop :=
  ∀ (s : State) (ep a : Nat),
    let m := s.mach
    memAnswers m ep = true →
    (∀ data c, a % 64 + data.length ≤ 64 → data ≠ [] → a < 2 ^ 31 → c = a / 0x2000000 → hostRefused s.env m ep (.tray c (a % 0x2000000)) = none →
      Does (.hostMemWrite ep 4 a data) s (trayWrite m c (a % 0x2000000) data)) ∧
    (∀ data, a % 64 + data.length ≤ 64 → data ≠ [] → a < 2 ^ 40 → hostRefused s.env m ep (.hbm a false) = none →
      Does (.hostMemWrite ep 0 a data) s (hbmWrite s.env m a data false)) ∧
    (∀ n c, 0 < n → a % 64 + n ≤ 64 → a < 2 ^ 31 → c = a / 0x2000000 → hostRefused s.env m ep (.tray c (a % 0x2000000)) = none →
      trayBad m c [(a % 0x2000000, n)] = none →
      Does (.hostMemRead ep (.mem 4) a n) s
        (pushRead (trayCount m c [(a % 0x2000000, n)]) (trayRead m c (a % 0x2000000) n) false)) ∧
    (∀ q, ep < 2 → dieFenced m ep = false → reaches s.env m ep (blockDie m ep (regBlock a).1) = true → a < 2 ^ 22 →
      q ∈ blockRegs (regBlock a).1 → q.1 = (regBlock a).2 → a % q.2 = 0 →
      Does (.hostMemRead ep .bar0 a q.2) s
        (pushRead m (leBytes q.2 (regValue s.env m ep (regBlock a).1 q.1)) false))

/-- A register write of a width that covers a register exactly does what that register's command does (R426, R563), and a write that
covers none is refused with BOUNDS where it is not barred before. -/
def Obligations.RegisterWrites : Prop :=
  ∀ (s : State) (ep n : Nat), ep < 2 →
    (DoesK (.registerWrite ep 0 0x10 4 n) s s.strokes (versionSelM ep (n % 2 ^ 32) s.env s.mach)) ∧
    (∀ r, r < 64 → DoesK (.registerWrite ep 0 (0x100C + 32 * r) 4 n) s s.strokes (completionHeadM ep r (n % 2 ^ 32) s.env s.mach)) ∧
    (∀ i, 1 ≤ i → i ≤ 1024 → DoesK (.registerWrite ep 0 (0x10018 + 64 * i) 4 n) s s.strokes (intakeTailM ep i (n % 2 ^ 32) s.env s.mach)) ∧
    (∀ c, c < 64 → DoesK (.registerWrite ep 0 (0x10000C + 0x1000 * c) 4 n) s s.strokes (planTailM ep c (n % 2 ^ 32) s.env s.mach)) ∧
    (∀ c k, c < 64 → k < 16 → DoesK (.registerWrite ep 0 (0x100100 + 0x1000 * c + 0x80 * k) 8 n) s s.strokes
      (descriptorM ep c k (n % 2 ^ 64) s.env s.mach)) ∧
    (∀ c k, c < 64 → k < 16 → DoesK (.registerWrite ep 0 (0x100114 + 0x1000 * c + 0x80 * k) 4 n) s s.strokes
      (subTailM ep c k (n % 2 ^ 32) s.env s.mach)) ∧
    (∀ c k, c < 64 → k < 16 → DoesK (.registerWrite ep 0 (0x100120 + 0x1000 * c + 0x80 * k) 4 4) s s.strokes
      (actionM ep c k .kill s.env s.mach)) ∧
    (barOpen s ep ep = true → DoesK (.registerWrite ep 0 0x1000 4 n) s s.strokes (refuse s.env s.mach ep 0x1000 1)) ∧
    (∀ bar off w, bar ≠ 0 → bar ≠ 2 → DoesK (.registerWrite ep bar off w n) s s.strokes s.mach)

/-! ### The dictionary -/

/-- Requests over CAN FD (R450, R454, R455, R460, R461). A gauge on the bus answers a READ of a number with its value and of an absent
object with BOUNDS; it sends a repeated request's response again and does nothing else; an OP that no row names is BOUNDS. A WRITE that
the gauge looks at, of a register of the written width, takes effect and is answered OK; one that the register refuses, that names no
writable register, or that is barred changes nothing but the answer, and for HOLDUP_LOW its counter. -/
def Obligations.DictionaryRequests : Prop :=
  ∀ (s : State) (g txn idx sub : Nat) (bytes : List Byte),
    let m := s.mach
    let via := Via.can g txn
    onBus m g = true →
    (repeated m g 1 txn idx sub = true → Does (.read g txn idx sub) s (sendCan m g 5 (gaugeOf m g).lastResponse)) ∧
    (repeated m g 1 txn idx sub = false → unreached m g idx sub = false →
      (∀ a w v, servedObj s.env m g idx sub = some { access := a, value := .num w v } → a ≠ .wo →
        Does (.read g txn idx sub) s (respond (freeStep m) g 1 txn idx sub 0 (leBytes w v))) ∧
      (servedObj s.env m g idx sub = none → Does (.read g txn idx sub) s (respond (freeStep m) g 1 txn idx sub 1 []))) ∧
    (∀ op, op = 0 ∨ 6 < op →
      (repeated m g op txn idx sub = false → DoesK (.write g ⟨op, txn⟩ idx sub bytes) s s.strokes (respond m g op txn idx sub 1 [])) ∧
      (repeated m g op txn idx sub = true →
        DoesK (.write g ⟨op, txn⟩ idx sub bytes) s s.strokes (sendCan m g 5 (gaugeOf m g).lastResponse))) ∧
    (isReboot via idx sub bytes = false →
      (repeated m g 2 txn idx sub = true →
        DoesK (.write g ⟨2, txn⟩ idx sub bytes) s s.strokes (sendCan m g 5 (gaugeOf m g).lastResponse)) ∧
      (unreached m g idx sub = false →
        (∀ a w v, objAt s.env m g idx sub = some { access := a, value := .num w v } → a ≠ .ro → fitsWidth via bytes w = true →
          (∀ code, repeated m g 2 txn idx sub = false → writeBarred m g idx sub (a == .rws || a == .lrw) = some code →
            DoesK (.write g ⟨2, txn⟩ idx sub bytes) s s.strokes (respond m g 2 txn idx sub code [])) ∧
          (writeReaches s via idx sub (a == .rws || a == .lrw) = true →
            let r := objRun g idx sub (leNat (bytes.take w)) s.variant s.strokes m
            DoesK (.write g ⟨2, txn⟩ idx sub bytes) s (if r.1 = 0 then r.2.1 else s.strokes)
              (respond (if r.1 = 0 then r.2.2 else if r.1 = 5 then countHoldupLow m else m) g 2 txn idx sub r.1 []))) ∧
        (writeReaches s via idx sub false = true → objAt s.env m g idx sub = none →
          DoesK (.write g ⟨2, txn⟩ idx sub bytes) s s.strokes (respond m g 2 txn idx sub 1 []))))

/-- R453: while the device is LEADERLESS, every dictionary write is refused with LEADERLESS and changes nothing else: each command that
is such a write, by CAN FD or through the window, a write of any object by its number, and the start of a domain write. The
fault-clearing objects alone are written. -/
def Obligations.LeaderlessRefuses : Prop :=
  ∀ (s : State) (via : Via), s.mach.mgmt.leaderless = true →
    let m := s.mach
    let asks (idx sub : Nat) : Prop :=
      match via with
      | .window ep => (endpoint m ep).trained = true ∧ (gaugeOf m ep).alive = true
      | .can g txn => onBus m g = true ∧ repeated m g 2 txn idx sub = false
    (∀ (n job : Nat) (early : Bool) (key : List Byte), ∀ p ∈ [(0x0A00, 2, Instr.pendingPeriodWrite via n), (0x0A00, 4, .windowLengthWrite via n),
        (0x0900, 3, .publicationTailWrite via n early), (0x0900, 9, .updateTailWrite via n), (0x0800, job, .progressTotalWrite via job n),
        (0x0400, 7, .retrainRequest via n), (0x0B00, 9, .leadHandover via n), (0x0200, 0x0B, .park via), (0x0200, 0x0B, .wake via),
        (0x0200, 0x0B, .remove via), (0x0F00, 0x12, .imageBegin via), (0x0F00, 0x12, .verify via), (0x0F00, 0x12, .reboot via),
        (0x0F00, 0x20, .ownerKeyWrite via key), (0x0F00, 0x22, .svnAdvance via n), (0x0F00, 0x41, .attestationRequest via n),
        (0x0700, 4, .faultRingHead via 0 n), (0x0700, 5, .faultRingHead via 1 n), (0x0700, 0x40, .coreFenceRequest via n),
        (0x0700, 0x40, .coreUnfenceRequest via n), (0x0700, 0x41, .regionFenceRequest via n), (0x0700, 0x41, .regionUnfenceRequest via n),
        (0x0700, 0x42, .dieFenceRequest via n), (0x0700, 0x42, .dieUnfenceRequest via n)],
      asks p.1 p.2.1 → DoesK p.2.2 s s.strokes (dictResult via p.1 p.2.1 4 m)) ∧
    (∀ ep, via = .window ep → asks 0x0F00 0xE3 →
      Does (.domCopyRead ep) s (dictResult via 0x0F00 0xE3 4 m) ∧ Does (.domCopyWrite ep) s (dictResult via 0x0F00 0xE3 4 m)) ∧
    (∀ g txn idx sub bytes, via = .can g txn → isClearObject idx sub = false → asks idx sub →
      DoesK (.write g ⟨2, txn⟩ idx sub bytes) s s.strokes (dictResult via idx sub 4 m)) ∧
    (∀ ep off width n, via = .window ep → ep < 2 → dieFenced m ep = false → off < 2 ^ 25 →
      isClearObject (off / 8192) (off / 32 % 256) = false → asks (off / 8192) (off / 32 % 256) →
      DoesK (.registerWrite ep 2 off width n) s s.strokes (dictResult via (off / 8192) (off / 32 % 256) 4 m)) ∧
    (∀ g txn idx sub len, via = .can g txn → onBus m g = true → repeated m g 4 txn idx sub = false → isClearObject idx sub = false →
      Does (.domWriteStart g txn idx sub len) s (respond m g 4 txn idx sub 4 [])) ∧
    (∀ r n, r < 2 → asks 0x0700 (0x10 + r) → ∃ m1, Does (.faultClear via r n) s (dictResult via 0x0700 (0x10 + r) 0 m1))

/-- Domain transfers (R465, R466). A read or write start that its checks allow opens the gauge's one transfer; segments follow in order,
and one out of order ends the transfer with SEQUENCE; the last segment ends it; an abort ends it; 1 s without a request abandons it.
Through the window a READ or WRITE opens the same transfer, and its end moves the bytes and shows DONE. -/
def Obligations.DomainTransfers : Prop :=
  ∀ (s : State) (g txn idx sub : Nat),
    let m := s.mach
    let x := gaugeOf m g
    let asks (op : Nat) : Prop := onBus m g = true ∧ repeated m g op txn idx sub = false
    (∀ b, asks 3 → domReadCheck s.env m g idx sub = (0, b) → x.dom = none →
      Does (.domReadStart g txn idx sub) s (respond (openDom g idx sub false b.length b m) g 3 txn idx sub 0 (leBytes 4 b.length))) ∧
    (∀ len, asks 4 → domWriteCheck s.env m g idx sub len = 0 → x.dom = none →
      Does (.domWriteStart g txn idx sub len) s (respond (openDom g idx sub true len [] m) g 4 txn idx sub 0 [])) ∧
    (∀ d seg data, asks 5 → x.dom = some d → d.window = false → d.index = idx → d.sub = sub →
      (seg ≠ d.nextSeg → Does (.domSegment g txn idx sub seg data) s (respond (endDom g m) g 5 txn idx sub 9 [])) ∧
      (seg = d.nextSeg → d.isWrite = false →
        Does (.domSegment g txn idx sub seg data) s (respond
          (if d.length ≤ 52 * (seg + 1) then endDom g m else keepDom g { d with nextSeg := seg + 1 } m)
          g 5 txn idx sub 0 (leBytes 4 seg ++ (d.data.drop (52 * seg)).take 52))) ∧
      (seg = d.nextSeg → d.isWrite = true →
        let b := d.data ++ padTo (min 56 (d.length - 56 * seg)) data
        (b.length < d.length → Does (.domSegment g txn idx sub seg data) s
          (respond (keepDom g { d with nextSeg := seg + 1, data := b } m) g 5 txn idx sub 0 (leBytes 4 seg))) ∧
        (∀ m1, d.length ≤ b.length → domApply s.env g sub b (endDom g m) = (0, m1) →
          Does (.domSegment g txn idx sub seg data) s (respond m1 g 5 txn idx sub 0 (leBytes 4 seg))))) ∧
    (∀ d, asks 6 → x.dom = some d → d.window = false → d.index = idx → d.sub = sub →
      Does (.domAbort g txn idx sub) s (respond (endDom g m) g 6 txn idx sub 0 [])) ∧
    (∀ d, g < 2 → x.dom = some d → d.window = false →
      Does (.domTimeout g) s (modGauge m g (fun y => { y with dom := none, domLapsed := some (d.index, d.sub) }))) ∧
    (writeReaches s (.window g) 0x0F00 0xE3 false = true → x.dom = none →
      (∀ b, domReadCheck s.env m g (x.domTarget / 256 % 65536) (x.domTarget % 256) = (0, b) → b.length ≤ x.domLength →
        Does (.domCopyRead g) s (dictResult (.window g) 0x0F00 0xE3 0 (modGauge m g (fun y => { y with
          domStatus := 1, domResult := 0, domMoved := 0, domLapsed := none
          dom := some { index := x.domTarget / 256 % 65536, sub := x.domTarget % 256, isWrite := false, window := true,
                        length := b.length, nextSeg := 0, data := b } })))) ∧
      (domWriteCheck s.env m g (x.domTarget / 256 % 65536) (x.domTarget % 256) x.domLength = 0 →
        Does (.domCopyWrite g) s (dictResult (.window g) 0x0F00 0xE3 0 (modGauge m g (fun y => { y with
          domStatus := 1, domResult := 0, domMoved := 0, domLapsed := none
          dom := some { index := x.domTarget / 256 % 65536, sub := x.domTarget % 256, isWrite := true, window := true,
                        length := x.domLength, nextSeg := 0, data := [] } }))))) ∧
    (∀ d, g < 2 → x.dom = some d → d.window = true → x.alive = true → (endpoint m g).trained = true →
      (d.isWrite = false → Does (.domCopyEnd g) s (modGauge (hostWrite (endDom g m) x.domBuffer d.data) g (fun y =>
        { y with domStatus := 2, domResult := 0, domMoved := d.length }))) ∧
      (∀ m1, d.isWrite = true → domApply s.env g d.sub (hostRead m x.domBuffer d.length) (endDom g m) = (0, m1) →
        Does (.domCopyEnd g) s (modGauge m1 g (fun y => { y with domStatus := 2, domResult := 0, domMoved := d.length }))))

/-- Fault records and frames (R463, R528, R533, R553). The gauge delivers its oldest record: into its ring with the ring's SEQUENCE when
the ring can be written, else behind the records that wait, and over CAN FD. Of a record that a context keeps and of the flash log nothing
is said here. A ring's head is taken and waiting records are written; a clear drops the held records up to its SEQUENCE. A STATUS
frame leaves every 100 ms, and a gauge is bus-off or, recovered, on the bus again. -/
def Obligations.FaultRecords : Prop :=
  ∀ (s : State) (g : Nat), g < 2 →
    let m := s.mach
    let x := faultRing m g
    ((gaugeOf m g).alive = true →
      Does (.statusFrame g) s (sendCan (setFaultRing m g
        (if 9 ≤ x.tenths then { x with tenths := 0, framesThisSecond := 0 } else { x with tenths := x.tenths + 1 })) g 2 (statusBytes s.env m g))) ∧
    (∀ off : Bool, Does (.busOffRecovery ⟨g, off⟩) s (modGauge m g (fun y => { y with busOff := off }))) ∧
    ((gaugeOf m g).alive = true →
      (x.raised = [] → Does (.faultRecordDelivery g) s m) ∧
      (∀ r rs, x.raised = r :: rs → needsLog r = false → 64 ≤ r.core →
        let y := { x with raised := rs }
        let q := { r with seq := (x.tail.toNat + x.store.length) % 2 ^ 32 }
        (x.store = [] → ringWritable m g = true → Does (.faultRecordDelivery g) s
          (sendFault (writeRing (setFaultRing m g (holdRecord y q)) g q) g q)) ∧
        (ringWritable m g = false → x.store.length < 256 → Does (.faultRecordDelivery g) s
          (sendFault (setFaultRing m g { holdRecord y q with store := x.store ++ [q] }) g q)))) ∧
    (∀ (via : Via) (n : Nat), apartRegs m = false →
      (writeReaches s via 0x0700 (4 + g) false = true →
        Does (.faultRingHead via g n) s (dictResult via 0x0700 (4 + g) 0
          (drainRing g 256 (setFaultRing m g { x with head := BitVec.ofNat 32 n })))) ∧
      (writeReaches s via 0x0700 (0x10 + g) false = true → x.heldCount = x.held.length →
        ∃ left, left ≤ x.heldCount ∧ (x.held.filter (fun r => !clearedBy n r.seq)).length ≤ left ∧
          Does (.faultClear via g n) s (dictResult via 0x0700 (0x10 + g) 0 (setFaultRing m g { x with
            clear := BitVec.ofNat 32 n, held := x.held.filter (fun r => !clearedBy n r.seq), heldCount := left }))))

/-! ### Wedge, leadership, contact -/

/-- The wedge (R472 to R475, R479, R480). A renew by the holder keeps the lease and makes the gauge lead; an unconfirmed one does
nothing. A lease that runs out leaves no holder and no lead. A gauge that lapses does not act as lead. A second gauge that finds
no holder takes the wedge: the epoch and the takes go up by one, and it leads; after the first take of a boot a record is
written. A handover is noted for a second gauge that works. A gauge whose watchdog fires restarts as second gauge. -/
def Obligations.WedgeEvents : Prop :=
  ∀ (s : State) (g : Nat),
    let m := s.mach
    let x := gaugeOf m g
    let seen := modGauge m g (fun y => { y with epochSeen := m.mgmt.epoch })
    let taken (a : Mach) : Mach := modGauge { a with mgmt := { a.mgmt with
        holder := some g, epoch := a.mgmt.epoch + 1, takes := a.mgmt.takes + 1, takeStroke := strokeAt s.strokes g, leaseRunning := true } }
      g (fun y => { y with lead := true, restarted := false, epochSeen := a.mgmt.epoch + 1 })
    let takes (a : Mach) : Mach :=
      if a.mgmt.epoch = 0 then taken a else raiseFault (taken a) g (mkFault s.env (taken a) g famManagement 0x14 0)
    (reachesWedge m g = true → m.mgmt.holder = some g → x.restarted = false →
      Does (.wedgeRenew g true) s (modGauge { m with mgmt := { m.mgmt with leaseRunning := true } } g (fun y =>
        { y with lead := true, epochSeen := m.mgmt.epoch }))) ∧
    Does (.wedgeRenew g false) s m ∧
    (m.mgmt.leaseRunning = true → m.mgmt.holder = some g →
      let m1 := modGauge m g (fun y => { y with lead := false })
      Does .wedgeLeaseExpiry s { m1 with mgmt := { m1.mgmt with holder := none, leaseRunning := false } }) ∧
    (m.mgmt.holder = some g → Does (.leadLapse g) s (modGauge m g (fun y => { y with lead := false, restarted := true }))) ∧
    (reachesWedge m g = true → x.lead = false →
      (m.mgmt.holder.isSome = true → Does (.wedgePoll g) s seen) ∧
      (m.mgmt.holder = none → g = 0 ∨ 0 < m.mgmt.epoch → (gaugeOf m (1 - g)).alive = true → s.strokes.split = false →
        Does (.wedgePoll g) s (finish s.env (takes seen)))) ∧
    (reachesWedge m 1 = true → m.mgmt.holder = none → m.mgmt.g0.alive = true → s.strokes.split = false → g = 1 →
      Does .wedgeAskDelay s (finish s.env (takes m))) ∧
    (∀ via : Via, writeReaches s via 0x0B00 9 true = true → g ≤ 1 →
      (x.lead = true → Does (.leadHandover via g) s (dictResult via 0x0B00 9 0
        { m with mgmt := { m.mgmt with preferred := g, handover := false } })) ∧
      (x.lead = false → m.mgmt.contact = true → x.alive = true → Does (.leadHandover via g) s (dictResult via 0x0B00 9 0
        { m with mgmt := { m.mgmt with preferred := g, handover := true } }))) ∧
    (m.power.alwaysOn = true → g < 2 → (if g = 0 then m.mgmt.die0Power else m.mgmt.die1Power) = true →
      let m1 := modGauge m g (fun y => { Gauge.reset with
        alive := true, restarted := m.mgmt.holder == some g, busOff := y.busOff, recovery := y.recovery, rwCopy := y.rwCopy })
      Does (.gaugeWatchdog g) s (modGauge m1 g (fun y =>
        let z := { y with epochSeen := if reachesWedge m1 g then m.mgmt.epoch else 0 }
        if m.mgmt.contact && (gaugeOf m (1 - g)).alive then ownRegs (gaugeOf m (1 - g)) z else z)))

/-- Loss and return of contact (R476, R482, R483). Without contact the device runs as two halves, die 1's on its own clock, and a record
is written once; when only the data path is lost, die 1's half stays locked to gauge 0's clock. The loss of the gauge link alone only
writes its record, and a gauge that fails under a working lead with the data path up leaves the device whole. Contact regained over
a working path is noted; a device that was not split does no more. -/
def Obligations.ContactEvents : Prop :=
  ∀ s : State,
    let m := s.mach
    let half (x : Endpoint) : Endpoint := if x.attach = 3 then { x with attach := 4 } else x
    let k1 (locked : Bool) : Strokes := { s.strokes with
      split := true, locked := locked, secondClock := !locked, counter1 := s.strokes.counter, timestamp1 := s.strokes.timestamp
      inWindow1 := s.strokes.inWindow }
    let halves (locked : Bool) (a : Mach) : Mach :=
      let b : Mach := { a with mgmt := { a.mgmt with rejoining := false }, power := { a.power with joint := none }
                               fabric := { a.fabric with routes1 := a.fabric.routes }
                               host := { a.host with ep0 := half a.host.ep0, ep1 := half a.host.ep1 } }
      raiseLead b (mkFault { v := s.variant, k := k1 locked } b (spokesGauge b) famManagement 0x13 0)
    m.power.alwaysOn = true →
    (∀ g < 2, s.strokes.split = false → m.mgmt.contact = true → m.mgmt.g0.alive = true → m.mgmt.g1.alive = true →
      DoesK (.contactLoss g .paths) s (k1 false)
        (halves false (takeCopies { m with mgmt := { m.mgmt with linkUp := false, pathUp := false, contact := false } }))) ∧
    (∀ g < 2, (gaugeOf m g).alive = true → (gaugeOf m (1 - g)).alive = true → (gaugeOf m (1 - g)).lead = true → m.mgmt.pathUp = true →
      DoesK (.contactLoss g .stopped) s s.strokes (modGauge m g (fun x => { x with alive := false, lead := false }))) ∧
    (m.mgmt.linkUp = true → m.mgmt.pathUp = true →
      let m1 : Mach := { m with mgmt := { m.mgmt with linkUp := false } }
      DoesK .gaugeLinkDown s s.strokes (raiseLead m1 (mkFault s.env m1 (spokesGauge m1) famManagement 0x12 0))) ∧
    (s.strokes.split = false → m.mgmt.pathUp = true → m.mgmt.linkUp = true → m.mgmt.contact = true → m.mgmt.g0.alive = true →
      m.mgmt.g1.alive = true →
      DoesK .dieToDiePathDown s (k1 true) (halves true { m with mgmt := { m.mgmt with pathUp := false } })) ∧
    (∀ link : Bool, s.strokes.split = false → m.mgmt.leaderless = false → m.mgmt.die0Power = true → m.mgmt.die1Power = true →
      (m.mgmt.contact = false ∨ m.mgmt.pathUp = false ∨ m.mgmt.g0.alive = false ∨ m.mgmt.g1.alive = false) →
      Does (.contactRegained link) s { m with mgmt := { m.mgmt with
        contact := true, pathUp := true, linkUp := m.mgmt.linkUp || link
        g0 := { m.mgmt.g0 with alive := true }, g1 := { m.mgmt.g1 with alive := true } } })

/-! ### Power -/

/-- Insertion and the loss of the input (R488, R489, R507, R538, R556). PRESENT mates, the main path closes, the always-on domains start
with everything at reset but what outlives the power. When the input is lost the compute side is dark and the lead gauge stores
POWER_LOSS last; after READY_TO_REMOVE a removal leaves no record; when the bank is empty all run-time state is gone. -/
def Obligations.PowerSequence : Prop :=
  ∀ s : State,
    let m := s.mach
    let stopped (record : Bool) (detail : Nat) (a : Mach) : Mach :=
      let b := darken a
      if record && b.power.alwaysOn && (gaugeOf b (spokesGauge b)).alive then
        deliverRec true b (spokesGauge b) { mkFault s.env b (spokesGauge b) famPower 0x10 5 with detail := detail } else b
    let dark : Strokes := { s.strokes with inWindow := false, inWindow1 := false }
    (m.power.present = false → Does .presentMate s { m with power := { m.power with present := true, debounced := false } }) ∧
    (m.power.present = true → m.power.main = false →
      Does .startPermitted s { m with power := { m.power with debounced := true, main := true } }) ∧
    (m.power.present = true → m.power.main = true → m.power.alwaysOn = false ∨ m.power.onHoldup = true →
      DoesK .alwaysOnPower s Strokes.reset
        { coldStart m with
          power := { (coldStart m).power with alwaysOn := true }
          mgmt := { (coldStart m).mgmt with stores := if m.power.onHoldup then m.mgmt.stores else [] } }) ∧
    (m.power.main = true →
      (∀ cause, DoesK (.inputLoss cause) s dark (stopped true 0 m)) ∧
      (diesPowered m = true → DoesK .thermalTrip s dark (stopped true 1 m)) ∧
      (m.power.present = true → DoesK .presentBreak s dark
        (stopped (m.power.state != 6) 0 { m with power := { m.power with present := false, debounced := false } }))) ∧
    (m.power.onHoldup = true → DoesK .holdupExhausted s Strokes.reset (coldStart m)) ∧
    ((darken m).hbm.cells = [] ∧ (darken m).hbm.on = false ∧ (darken m).host.intakes = [] ∧ (darken m).signals = [] ∧
      (darken m).power.main = false ∧ (darken m).mgmt = m.mgmt ∧ (darken m).tables = m.tables ∧
      (∀ n, ((darken m).link n).state = 0)) ∧
    ((coldStart m).mgmt.flash = m.mgmt.flash ∧ (coldStart m).mgmt.faultLog = m.mgmt.faultLog ∧
      (coldStart m).mgmt.ownerHash = m.mgmt.ownerHash ∧ (coldStart m).mgmt.fusedSvn = m.mgmt.fusedSvn ∧ (coldStart m).cores = [] ∧
      (coldStart m).mgmt.holder = none ∧ (coldStart m).power.state = 0)

/-- Guards, the bank and the power control object (R500, R501, R503, R506, R549). A guard trips once and writes its record; a reading of
a die temperature is kept, and one that goes above the threshold writes its record. The energy of the bank follows from the measured
capacitance and voltage, to within 1 mJ. PARK and REMOVE are taken when the module runs, WAKE when it is parked or ready to remove, and
refused with BOUNDS otherwise. -/
def Obligations.PowerEvents : Prop :=
  ∀ s : State,
    let m := s.mach
    let asked (removal : Bool) : Mach := { m with power := { m.power with state := 3, parkReq := some removal } }
    (diesPowered m = true → m.power.guard0 = false → m.power.guard1 = false →
      let m1 : Mach := { m with power := { m.power with guard0 := true, guard1 := true, guardEnds0 := false, guardEnds1 := false } }
      Does .overcurrent s (raiseLead m1 (mkFault s.env m1 (spokesGauge m1) famPower 0x11 0))) ∧
    (m.power.guard0 = true ∨ m.power.guard1 = true → Does .overcurrent s m) ∧
    (∀ t : Int, diesPowered m = true →
      (t ≤ 16 * (m.power.dieLimit : Int) →
        Does (.dieHot 0 t) s { m with power := { m.power with dieTemp0 := some t } } ∧
        Does (.dieHot 1 t) s { m with power := { m.power with dieTemp1 := some t } }) ∧
      (16 * (m.power.dieLimit : Int) < t →
        (m.power.hot0 = false →
          let m1 : Mach := { m with power := { m.power with dieTemp0 := some t, hot0 := true, hotEnds0 := false } }
          Does (.dieHot 0 t) s (raiseLead m1 (mkFault s.env m1 (spokesGauge m1) famPower 0x12 0))) ∧
        (m.power.hot1 = false →
          let m1 : Mach := { m with power := { m.power with dieTemp1 := some t, hot1 := true, hotEnds1 := false } }
          Does (.dieHot 1 t) s (raiseLead m1 (mkFault s.env m1 (spokesGauge m1) famPower 0x12 0))))) ∧
    (∀ uf mv : Nat, m.power.alwaysOn = true →
      ∃ n, n * 2000000000 < uf * (mv * mv - 900000000) + 2000000000 ∧ uf * (mv * mv - 900000000) < (n + 1) * 2000000000 ∧
        Does (.holdupMeasure uf mv) s (freeStep { m with power := { m.power with energy := n } })) ∧
    (∀ via : Via, writeReaches s via 0x0200 0x0B true = true →
      (m.power.state = 2 →
        Does (.park via) s (dictResult via 0x0200 0x0B 0 (asked false)) ∧
        Does (.remove via) s (dictResult via 0x0200 0x0B 0 (asked true)) ∧
        Does (.wake via) s (dictResult via 0x0200 0x0B 1 m)) ∧
      (m.power.state = 4 ∨ m.power.state = 6 →
        Does (.wake via) s (dictResult via 0x0200 0x0B 0 (trainAll s.env (trainStacks true
          { m with power := { m.power with state := 5 }, hbm := { m.hbm with selfRefresh := false } }))) ∧
        Does (.park via) s (dictResult via 0x0200 0x0B 1 m) ∧ Does (.remove via) s (dictResult via 0x0200 0x0B 1 m))) ∧
    (m.power.state = 2 → Does .removeReq s (asked true)) ∧ (m.power.state ≠ 2 → Does .removeReq s m)

/-! ### Boot, image, trust -/

/-- Boot and attach (R427, R428, R452, R512 to R515). The gauges start, read their fuses, and gauge 0 asks for the wedge; an image that a gauge finds good
powers the dies once both have, and one that it finds bad leads to recovery-listen with the check's number; after training and BIST
every granule is zero, with the failed pairs and stacks fenced and every stack's first temperature read; the cores come up and stroke
counting begins, with READY unless the full memory test runs; that test leaves HBM zero and every context FREE. An endpoint trains; a
VERSION_SEL of a supported minor selects the interface, another is refused; the oldest flash store takes effect. -/
def Obligations.BootSteps : Prop :=
  ∀ (s : State) (g : Nat), g < 2 →
    let m := s.mach
    let x := m.mgmt
    (m.power.alwaysOn = true → m.power.onHoldup = false → x.g0.alive = false → x.g1.alive = false →
      let start (i : Nat) (y : Gauge) : Gauge := { Gauge.reset with
        alive := if i = 0 then x.die0Power else x.die1Power, restarted := x.holder == some i, epochSeen := x.epoch, busOff := y.busOff }
      let m1 : Mach := { m with
        mgmt := { x with g0 := start 0 x.g0, g1 := start 1 x.g1, node := x.nodeStored, ownerRead := x.ownerHash, svnRead := x.fusedSvn }
        fabric := { m.fabric with deviceId := x.deviceIdStored }
        power := { m.power with state := 1, budget := x.budgetStored } }
      (x.holder.isSome = true → Does .boot s m1) ∧
      (x.holder = none → x.die0Power = true → Does .boot s (takeWedge s.env m1 0))) ∧
    (m.power.alwaysOn = true → m.power.onHoldup = false → (gaugeOf m g).alive = true → (gaugeOf m g).recovery = 0 → x.bootState = 0 →
      (if g = 0 then x.verified0 else x.verified1) = false →
      let r := verifyImage (storedImage m) x.ownerRead x.svnRead 7
      let h := flashRead (storedImage m) 0 4096
      let bad := enterRecovery (raiseFault m g { mkFault s.env m g famBoot (0x10 + r) 0 with detail := r }) r
      let good : Mach := { m with mgmt := { x with
        verified0 := x.verified0 || g == 0, verified1 := x.verified1 || g == 1, bootResult := 0
        build := (h.drop 16).take 16, svn := hdr h 12 4, header := h.take 640 } }
      ((if g = 0 then x.verified1 else x.verified0) = false → x.contact = true → (gaugeOf m (1 - g)).alive = true →
        Does (.imageVerified g) s (if r = 0 then good else bad)) ∧
      ((if g = 0 then x.verified1 else x.verified0) = true → x.contact = true → m.hbm.on = false →
        Does (.imageVerified g) s (if r = 0 then
          trainAll s.env (trainStacks true { good with hbm := { good.hbm with on := true } }) else bad))) ∧
    (∀ (pairs cubes : List Nat) (lanes : List (Nat × Nat)) (temps : List Int), m.hbm.on = true → x.hbmDone = false → x.bootState = 0 →
      let m1 := trainStacks false { m with hbm := { m.hbm with cells := [], side := [] }, mgmt := { x with hbmDone := true } }
      let m2 := (pairs.filter (fun p => decide (p < 512))).foldl (fun a p => fencePair s.env a (p / 32) (p % 32) 1)
        ((lanes.filter (fun p => decide (p.1 < 16))).foldl remapLanes m1)
      let m3 := (cubes.filter (fun t => decide (t < 16))).foldl (fun a t => fenceRegion s.env a (t / 2) 2) m2
      Does (.hbmBistEnd pairs ⟨cubes, lanes, temps⟩) s
        (finish s.env (((List.range 16).zip temps).foldl (fun a p => tempReadM p.1 p.2 s.env a) m3)) ∧
      Does (.hbmBistEnd [] ⟨[], [], []⟩) s (finish s.env m1)) ∧
    (∀ (failed : List Nat) (ms : Nat), x.hbmDone = true → x.coresDone = false → x.bootState = 0 → m.power.onHoldup = false →
      m.power.state ≠ 5 →
      let k1 : Strokes := { s.strokes with running := true }
      let e1 : Env := { v := s.variant, k := k1 }
      let m1 := raiseCores failed e1 m
      let full := m1.mgmt.memtestStored == 1
      DoesK (.coresUp failed ms) s k1 (finish e1 (checkReady e1 { m1 with
        mgmt := { m1.mgmt with coresDone := true, memtesting := full, bootState := if full then 0 else 1, msToStroke1 := ms }
        power := { m1.power with state := 2 } }))) ∧
    (∀ (failed : List Nat) (ms : Nat), m.power.state = 5 → m.hbm.on = true → m.power.onHoldup = false →
      let m1 := raiseCores failed s.env (trainStacks false m)
      DoesK (.coresUp failed ms) s s.strokes (finish s.env { m1 with power := { m1.power with state := 2 } })) ∧
    (x.memtesting = true → Does (.memtestEnd []) s (finish s.env (checkReady s.env { m with
      cores := m.cores.map (fun p => (p.1, { p.2 with ctxs := [] }))
      hbm := { m.hbm with cells := [], side := [], root0 := 0, root1 := 0, rootNext0 := none, rootNext1 := none }
      mgmt := { x with memtesting := false, bootState := 1, withdrawnByTest := 0 } }))) ∧
    (∀ half : Bool, m.power.alwaysOn = true → m.power.onHoldup = false → m.power.stopped = false → m.power.state ≠ 0 →
      m.power.state ≠ 4 → m.power.state ≠ 6 → (endpoint m g).trained = false →
      Does (.ucieTrained g half) s (drainRing g 256 (modEndpoint m g (fun y =>
        { y with trained := true, rate16 := half, attach := attachState s.strokes.split m g })))) ∧
    (∀ v : Nat, (endpoint m g).trained = true →
      ((endpoint m g).attach = 1 → v % 256 = 0 → v / 256 % 256 ≤ 5 →
        let up (y : Endpoint) : Endpoint := if y.attach = 1 then { y with attach := 2 } else y
        Does (.versionSel g v) s (checkReady s.env { m with host := { m.host with
          selected := true, nativeMinor := 0, compatMinor := v / 256 % 256, compat := natBit v 16
          ep0 := up m.host.ep0, ep1 := up m.host.ep1 } })) ∧
      ((endpoint m g).attach ≠ 5 → ((endpoint m g).attach ≠ 1 ∨ v % 256 ≠ 0 ∨ 5 < v / 256 % 256) →
        Does (.versionSel g v) s (refuse s.env m g 0x10 1))) ∧
    (∀ q qs, m.power.alwaysOn = true → x.stores = q :: qs →
      Does .flashStoreEnd s { m with mgmt := storeDone q { x with stores := qs } })

/-- Image push, fuses, attestation (R502, R519, R521, R523, R524). BEGIN opens a session and queues the erase of block 0 when the bank
holds it; VERIFY checks the stored image when the stores are done, and its result ends the session VALID or INVALID; REBOOT restarts
the module from recovery-listen, PARKED or READY_TO_REMOVE and is refused otherwise. The hash of an owner key that the stored image
satisfies is fused once; the fused security version only rises, to the running one. A request for a report takes the nonce, and its
end leaves the report with its signature. -/
def Obligations.ImageAndTrust : Prop :=
  ∀ (s : State) (via : Via),
    let m := s.mach
    let x := m.mgmt
    let g := viaGauge via
    (writeReaches s via 0x0F00 0x12 true = true →
      (x.session ≠ 1 → x.session ≠ 2 →
        (x.stores.length < 16 → bankHolds m .eraseBlock0 = true →
          let q := pushStore m .eraseBlock0
          Does (.imageBegin via) s (dictResult via 0x0F00 0x12 0 { q with mgmt := { q.mgmt with session := 1 } })) ∧
        (x.stores.length < 16 → bankHolds m .eraseBlock0 = false →
          Does (.imageBegin via) s (dictResult via 0x0F00 0x12 5 (countHoldupLow m))) ∧
        (16 ≤ x.stores.length → Does (.imageBegin via) s (dictResult via 0x0F00 0x12 7 m))) ∧
      (m.power.onHoldup = false → pushStore m .eraseBlock0 = { m with mgmt := { x with stores := x.stores ++ [.eraseBlock0] } }) ∧
      (x.session = 1 → Does (.verify via) s (dictResult via 0x0F00 0x12 0 { m with mgmt := { x with session := 2, verifying := true } }) ∧
        Does (.imageBegin via) s (dictResult via 0x0F00 0x12 1 m)) ∧
      (x.session ≠ 1 → Does (.verify via) s (dictResult via 0x0F00 0x12 1 m)) ∧
      (mayReboot m = true → DoesK (.reboot via) s Strokes.reset (restart (dictResult via 0x0F00 0x12 0 m))) ∧
      (mayReboot m = false → DoesK (.reboot via) s s.strokes (dictResult via 0x0F00 0x12 1 m))) ∧
    (x.verifying = true → x.stores = [] →
      let r := verifyImage x.flash x.ownerRead x.svnRead 7
      Does .imageVerifyEnd s { m with mgmt := { x with verifying := false, verifyResult := r, session := if r = 0 then 3 else 4 } }) ∧
    (∀ key : List Byte, writeReaches s via 0x0F00 0x20 true = true →
      (key.length = 64 → allZero x.ownerHash = true → x.contact = true → x.g0.alive = true → x.g1.alive = true →
        Does (.ownerKeyWrite via key) s (if verifyImage (storedImage m) (Config.sm3 key) x.fusedSvn 5 = 0 then
          dictResult via 0x0F00 0x20 0 { m with mgmt := { x with ownerHash := Config.sm3 key } } else dictResult via 0x0F00 0x20 1 m)) ∧
      (key.length ≠ 64 ∨ allZero x.ownerHash = false → Does (.ownerKeyWrite via key) s (dictResult via 0x0F00 0x20 1 m))) ∧
    (∀ n : Nat, writeReaches s via 0x0F00 0x22 true = true →
      (n = x.svn → x.fusedSvn < n → x.contact = true → x.g0.alive = true → x.g1.alive = true →
        Does (.svnAdvance via n) s (dictResult via 0x0F00 0x22 0 { m with mgmt := { x with fusedSvn := n } })) ∧
      (n ≠ x.svn ∨ n ≤ x.fusedSvn → Does (.svnAdvance via n) s (dictResult via 0x0F00 0x22 1 m))) ∧
    (writeReaches s via 0x0F00 0x41 false = true →
      ((gaugeOf m g).attState ≠ 1 → Does (.attestationRequest via 1) s (dictResult via 0x0F00 0x41 0 (modGauge m g (fun y =>
        { y with attState := 1, attResult := 0, attNonce := (gaugeOf m g).nonce })))) ∧
      ((gaugeOf m g).attState = 1 → Does (.attestationRequest via 1) s (dictResult via 0x0F00 0x41 7 m)) ∧
      (∀ n, n ≠ 1 → Does (.attestationRequest via n) s (dictResult via 0x0F00 0x41 1 m))) ∧
    (∀ i ns : Nat, i < 2 → (gaugeOf m i).alive = true → (gaugeOf m i).attState = 1 →
      Does (.attestationEnd i ns) s (modGauge m i (fun y => { y with
        attState := 2, report := reportBody s.env m i ns ++ padTo 64 (Config.identitySign (reportBody s.env m i ns)) })))

/-! ### Fences -/

/-- Fences and temperatures (R377 to R379, R535, R536, R540). A control write of a unit in the other state waits for the boundary and is
answered OK; one of a unit that is there already is refused with BOUNDS, one of an absent core with UNIT_ABSENT. A fence of a core in
service stops it, is recorded, and may spend its die, one for repeated tray errors after three of them within one second; so does the fence of a region. A reading raises the stack's level and never
lowers it, and level 5 fences the region. A core that passes its self-test comes up, one that fails keeps its fence; so with a
region. -/
def Obligations.FenceCommands : Prop :=
  ∀ s : State,
    let m := s.mach
    let e := s.env
    (∀ (via : Via) (c : Nat), writeReaches s via 0x0700 0x40 true = true →
      (64 ≤ c → Does (.coreFenceRequest via c) s (dictResult via 0x0700 0x40 1 m) ∧
        Does (.coreUnfenceRequest via c) s (dictResult via 0x0700 0x40 1 m)) ∧
      (c < 64 → s.variant.hasCore c = false → Does (.coreFenceRequest via c) s (dictResult via 0x0700 0x40 6 m)) ∧
      (c < 64 → s.variant.hasCore c = true →
        (m.fences.cores.getLsbD c = false →
          Does (.coreFenceRequest via c) s (dictResult via 0x0700 0x40 0 (pendFence m 2 c true)) ∧
          Does (.coreUnfenceRequest via c) s (dictResult via 0x0700 0x40 1 m)) ∧
        (m.fences.cores.getLsbD c = true →
          Does (.coreUnfenceRequest via c) s (dictResult via 0x0700 0x40 0 (pendFence m 2 c false)) ∧
          Does (.coreFenceRequest via c) s (dictResult via 0x0700 0x40 1 m)))) ∧
    (∀ (via : Via) (g : Nat), writeReaches s via 0x0700 0x41 true = true → g < 8 →
      (m.fences.regions.getLsbD g = false →
        Does (.regionFenceRequest via g) s (dictResult via 0x0700 0x41 0 (pendFence m 3 g true))) ∧
      (m.fences.regions.getLsbD g = true →
        Does (.regionFenceRequest via g) s (dictResult via 0x0700 0x41 1 m) ∧
        (regionHot m g = false → Does (.regionUnfenceRequest via g) s (dictResult via 0x0700 0x41 0 (pendFence m 3 g false))) ∧
        (regionHot m g = true → Does (.regionUnfenceRequest via g) s (dictResult via 0x0700 0x41 1 m)))) ∧
    (∀ (via : Via) (d : Nat), writeReaches s via 0x0700 0x42 true = true → d < 2 →
      (dieFenced m d = false → dieFenced m (1 - d) = false →
        Does (.dieFenceRequest via d) s (dictResult via 0x0700 0x42 0 (pendFence m 4 d true))) ∧
      (dieFenced m d = false → dieFenced m (1 - d) = true → Does (.dieFenceRequest via d) s (dictResult via 0x0700 0x42 1 m)) ∧
      (dieFenced m d = true → dieMayReturn m d = true →
        Does (.dieUnfenceRequest via d) s (dictResult via 0x0700 0x42 0 (pendFence m 4 d false))) ∧
      (dieFenced m d = true → dieMayReturn m d = false → Does (.dieUnfenceRequest via d) s (dictResult via 0x0700 0x42 1 m))) ∧
    (∀ c cause : Nat, s.variant.hasCore c = true → m.fences.cores.getLsbD c = false → (m.core c).up = true →
      (cause = 2 → ∃ t1 t2 t3, (m.core c).trayFaults = [t1, t2, t3] ∧ t1 < t3 + 1000000000) →
      Does (.coreFence c cause) s
        (finish e (checkDie e (coreFenceRecord e (setCoreFence (stopCore e m c) c cause) c cause) (dieOf c)))) ∧
    (∀ c : Nat, (m.core c).trayFaults.length < 3 → Does (.coreFence c 2) s m) ∧
    (∀ g < 8, m.hbm.on = true → m.fences.regions.getLsbD g = false →
      let m1 := (upCores m (8 * g) 8).foldl (fun a c => stopCore e a c) m
      let quietStack (a : Mach) (st : Nat) : Mach := a.modStack st (fun x => { x with evacuating := false, training := [] })
      Does (.regionDomainFault g) s (finish e (checkDie e
        (regionFenceRecord e (quietStack (quietStack (setRegionFence m1 g 3) (2 * g)) (2 * g + 1)) g 3) (g / 4)))) ∧
    (∀ (st : Nat) (t : Int), m.hbm.on = true → st < 16 → liveSlots m = [] →
      let level := max (m.stack st).level (levelOf m t)
      let m1 := m.modStack st (fun x => { x with temp := some t, peak := some (max t (x.peak.getD t)), level := level })
      (level ≠ 5 ∨ 5 ≤ (m.stack st).level → Does (.stackTempRead st t) s (finish e m1)) ∧
      (level = 5 → (m.stack st).level < 5 → Does (.stackTempRead st t) s (finish e (fenceRegion e (raiseFault m1 (st / 8)
        { mkFault e m1 (st / 8) famMemory 0x18 3 with detail := st + 256 * ((t / 16).toNat % 256) }) (st / 2) 1)))) ∧
    (∀ c : Nat, m.fences.testingCores.contains c = true →
      let m1 : Mach := { m with fences := { m.fences with testingCores := m.fences.testingCores.filter (fun x => x != c) } }
      (coreFenced (clearCoreFence m c) c = false → Does (.coreSelfTestEnd c true) s
        (unfencedRecord e (coreComesUp (clearCoreFence m c) c) (dieOf c) c 2)) ∧
      Does (.coreSelfTestEnd c false) s (coreFenceRecord e m1 c (spGet 0 m.fences.coreCauses c))) ∧
    (∀ g : Nat, m.fences.testingRegions.contains g = true →
      let m1 : Mach := { m with fences := { m.fences with testingRegions := m.fences.testingRegions.filter (fun x => x != g) } }
      Does (.regionUnfenceEnd g true) s (regionReturns e m g) ∧
      Does (.regionUnfenceEnd g false) s (regionFenceRecord e m1 g (spGet 0 m.fences.regionCauses g)))

/-! ### Links, frames, collectives -/

/-- Links (R392 to R402, R412, R413). A DOWN link that sees its peer trains. Training that fails leaves it DOWN, the third time fenced; a
peer of no common version leaves it DOWN with a record, a peer of the device's own identifier fences it, and otherwise it comes UP
with the version that both run and what the peer told. A link with an empty retry buffer that loses its peer is DOWN, a fence
fences it with a record, and a retrain request trains it anew. An uncorrectable codeword counts; more than 16 in a second, or the
eighth resend of a frame, retrain the link, and within the second after that retrain fence it. -/
def Obligations.LinkEvents : Prop :=
  ∀ (s : State) (n : Nat),
    let m := s.mach
    let e := s.env
    let x := m.link n
    let now := nsAt s.strokes (dieOfLink n)
    let down (st : Nat) : Mach := m.modLink n (fun l => downLink l st)
    let judged := m.modLink n (fun y => { y with versionFail := false })
    linkUsable e m n = true →
    (x.state = 0 → Does (.peerSignalDetect n) s (m.modLink n (fun y => { y with state := 1 }))) ∧
    (∀ t : Training, x.state = 1 →
      (t.ok = false → x.attempts < 2 →
        Does (.linkTrained n t) s (judged.modLink n (fun y => { y with state := 0, attempts := y.attempts + 1 }))) ∧
      (t.ok = false → 2 ≤ x.attempts →
        Does (.linkTrained n t) s (fenceLink e (judged.modLink n (fun y => { y with attempts := 0 })) n 0x12)) ∧
      (t.ok = true → commonVersion t.offers = none → Does (.linkTrained n t) s
        (raiseFault (m.modLink n (fun y => { y with state := 0, versionFail := true })) (dieOfLink n)
          (mkFault e m (dieOfLink n) famLink 0x10 1))) ∧
      (∀ ver, t.ok = true → commonVersion t.offers = some ver →
        (t.peerId = m.fabric.deviceId → t.peerId ≠ 0xFFFF → Does (.linkTrained n t) s (fenceLink e judged n 0x11)) ∧
        (t.peerId ≠ m.fabric.deviceId ∨ t.peerId = 0xFFFF →
          Does (.linkTrained n t) s (m.modLink n (fun y => { y with
            state := 2, versionFail := false, major := ver.1, minor := ver.2
            peer := if m.fabric.deviceId = 0xFFFF ∨ t.peerId = 0xFFFF then 0xFFFF else t.peerId
            latency := t.latencyNs % 65536, peerLink := t.peerLink % 128, attempts := 0, slowLeft := 0, retry := [] }))))) ∧
    (x.state = 1 ∨ x.state = 2 → x.retry = [] →
      Does (.peerSignalLoss n) s (down 0) ∧
      Does (.linkFence n) s (raiseFault (down 3) (dieOfLink n) (mkFault e (down 3) (dieOfLink n) famLink 0x12 1))) ∧
    (∀ via : Via, writeReaches s via 0x0400 7 true = true → x.retry = [] →
      Does (.retrainRequest via n) s (dictResult via 0x0400 7 0 ((down 1).modLink n (fun y => { y with attempts := 0, versionFail := false })))) ∧
    (∀ again : Bool, x.state = 2 →
      let q := inSecond (nsAt s.strokes (dieOfLink n)) x.burst x.burstFrom
      let tries := if again then x.tries + 1 else 1
      let m1 := m.modLink n (fun y =>
        { y with resends := y.resends + 1, codewords := y.codewords + 1, burst := q.1, burstFrom := q.2, tries := tries })
      (q.1 ≤ 16 → tries < 8 → Does (.uncorrectableCodeword ⟨n, again⟩) s m1) ∧
      (16 < q.1 ∨ 8 ≤ tries → Does (.uncorrectableCodeword ⟨n, again⟩) s (linkTrips e m1 n))) ∧
    ((x.retrained.any (fun t => decide (now ≤ t + 1000000000)) = true →
        linkTrips e m n = fenceLink e (m.modLink n (fun y => { y with retrained := none })) n 0x12) ∧
      (x.retrained.any (fun t => decide (now ≤ t + 1000000000)) = false → x.retry = [] →
        linkTrips e m n = (down 1).modLink n (fun y => { y with attempts := 0, retrained := some now }))) ∧
    (∀ level, linkDelivers e m n = true → Does (.slow n level) s (m.modLink n (fun y => { y with slowLeft := 2 })))

/-- Frames that arrive (R405 to R410, R414). A link that delivers none leaves everything as it is. A frame for another device goes on. For
this one, a WRITE whose sequence has been applied is discarded, one that is held already too, and a new one joins the held writes,
which are applied as far as they are in order, with the signals that waited for them; a SIGNAL of an origin whose gap was given up is
lost and counted, another joins those that wait; a NACK ends the writing context's work; an UNREACHABLE is recorded once. A gap of
1 ms is given up: the waiting signals are lost and counted, and the held writes go on from the first. -/
def Obligations.FramesArrive : Prop :=
  ∀ (s : State) (n : Nat) (h : FrameHead),
    let m := s.mach
    let e := s.env
    let x := m.origin h.origin
    (linkDelivers e m n = false →
      (∀ b, Does (.writeFrame n h b) s m) ∧ (∀ b, Does (.signal n h b) s m) ∧ (∀ d, Does (.unreachable n h d) s m)) ∧
    (linkDelivers e m n = true → h.dest ≠ m.fabric.deviceId →
      (∀ b, Does (.writeFrame n h b) s (transit e m n h (.write b))) ∧ (∀ b, Does (.signal n h b) s (transit e m n h (.signal b))) ∧
      (∀ b, Does (.heartbeat n h b) s (transit e m n h (.heartbeat b)))) ∧
    (linkDelivers e m n = true → h.dest = m.fabric.deviceId →
      (∀ b : WriteBody,
        (precedes32 b.seq x.expected = true ∨ x.writes.any (fun q => q.seq % 2 ^ 32 == b.seq % 2 ^ 32) = true →
          Does (.writeFrame n h b) s m) ∧
        (precedes32 b.seq x.expected = false → x.writes.any (fun q => q.seq % 2 ^ 32 == b.seq % 2 ^ 32) = false →
          Does (.writeFrame n h b) s (finish e (withBeats e (fun a => releaseSignals e h.origin
            (drainWrites e (dieOfLink n) h.origin (x.writes.length + 1) a))
            (m.modOrigin h.origin (fun y => { y with writes := y.writes ++ [b] })))))) ∧
      (∀ b : SignalBody,
        (x.lost = true → Does (.signal n h b) s { m with fabric := { m.fabric with lostSignals := m.fabric.lostSignals + 1 } }) ∧
        (x.lost = false → Does (.signal n h b) s (finish e (withBeats e (releaseSignals e h.origin)
          (m.modOrigin h.origin (fun y => { y with signals := y.signals ++ [b] })))))) ∧
      (∀ off reason c k, Does (.nack n h off reason c k) s (finish e (failCtx e m c k famLink 0x16))) ∧
      (∀ d,
        let half := halfOf s.strokes (dieOfLink n)
        (m.fabric.unreachable.contains (half, d) = true → Does (.unreachable n h d) s m) ∧
        (m.fabric.unreachable.contains (half, d) = false → Does (.unreachable n h d) s
          (raiseFault { m with fabric := { m.fabric with unreachable := (half, d) :: m.fabric.unreachable } } (dieOfLink n)
            (noRouteRecord e m (dieOfLink n) d))))) ∧
    (∀ (die o : Nat) (fuel : Nat) (b : WriteBody),
      (m.origin o).writes.find? (fun q => q.seq % 2 ^ 32 == (m.origin o).expected) = some b →
      drainWrites e die o (fuel + 1) m = drainWrites e die o fuel (applyFrame e die o (m.modOrigin o (fun y => { y with
        expected := (y.expected + 1) % 2 ^ 32, writes := y.writes.filter (fun q => q.seq % 2 ^ 32 != (m.origin o).expected) })) b)) ∧
    (∀ die o : Nat, linksOn m = true → ((m.origin o).writes ≠ [] ∨ (m.origin o).signals ≠ []) →
      let m1 := raiseFault m die { mkFault e m die famLink 0x17 6 with detail := o }
      let m2 : Mach := { m1 with fabric := { m1.fabric with
        lostSignals := m1.fabric.lostSignals + BitVec.ofNat 64 (m.origin o).signals.length } }
      Does (.pathLoss die o) s (finish e (drainWrites e die o (m.origin o).writes.length (m2.modOrigin o (fun y => { y with
        signals := [], lost := true, expected := ((firstHeld y).map (fun b => b.seq % 2 ^ 32)).getD y.expected })))))

/-- Collectives (R398, R417 to R420). A heartbeat of a slot that the device holds brings the peer's progress, its DONE and its SLOW, and
may close the slot; an ABORT aborts the slot with reason 4, and a dead peer that has not reported DONE with reason 1. Without a live
slot and without heat, the heartbeat period only ages what SLOW frames left. -/
def Obligations.CollectiveEvents : Prop :=
  ∀ s : State,
    let m := s.mach
    let e := s.env
    (∀ (n : Nat) (h : FrameHead) (b : Beat), linkDelivers e m n = true → h.dest = m.fabric.deviceId →
      (slotOf m b.collId = none → Does (.heartbeat n h b) s m) ∧
      (∀ i, slotOf m b.collId = some i → Does (.heartbeat n h b) s (withBeats e (fun a =>
        tryClosed e i (a.modColl i (fun y => { y with peers := y.peers.map (fun p =>
          if p.id = h.origin then notePeer b (ceilDiv (a.coll i).timeout (max 1 a.fabric.beatPeriod)) p else p) }))) m))) ∧
    (∀ (n : Nat) (h : FrameHead) (id o reason : Nat), linkDelivers e m n = true → h.dest = m.fabric.deviceId →
      (slotOf m id = none → Does (.abort n h id o reason) s m) ∧
      (∀ i, slotOf m id = some i → Does (.abort n h id o reason) s (finish e (abortSlot e i 4 o 0xFFFF (some h.origin) m)))) ∧
    (∀ i peer : Nat, collLive (m.coll i) = true → (m.coll i).peers.any (fun p => p.id == peer && !p.done) = true →
      Does (.peerDead i peer) s (finish e (abortSlot e i 1 m.fabric.deviceId peer none m))) ∧
    (linksOn m = true → m.fabric.deviceId ≠ 0xFFFF → liveSlots m = [] → flagSlow m = false →
      Does .heartbeatPeriod s { m with fabric := { m.fabric with
        links := m.fabric.links.map (fun p => (p.1, { p.2 with slowLeft := p.2.slowLeft - 1 }))
        colls := m.fabric.colls.map (fun p =>
          (p.1, { p.2 with peers := p.2.peers.map (fun q => { q with slowLeft := q.slowLeft - 1 }) })) } })
end

