-- ==== Sys2Proof/Laws/Memory.lean ====
section
/-! SUPPORT. Sparse stores and byte memories: a read after a write, the frame of a write, and the canonical form that every operation
keeps. -/

namespace Sys2Proof.Machine

/-! ### Sparse stores -/

/-- A read after a write. -/
theorem spGet_spSet {α : Type} (d : α) (x : Nat) (v : α) (y : Nat) :
    ∀ l : Sparse α, spGet d (spSet l x v) y = if x = y then v else spGet d l y
  | [] => rfl
  | (k, w) :: t => by
    have ih := spGet_spSet d x v y t
    unfold spSet
    by_cases h1 : x < k
    · rw [if_pos h1, spGet]
    · rw [if_neg h1]
      by_cases h2 : x = k
      · subst h2
        rw [if_pos rfl, spGet, spGet]
        by_cases h3 : x = y <;> simp [h3]
      · rw [if_neg h2, spGet, spGet, ih]
        by_cases h3 : x = y
        · have : ¬ k = y := by omega
          simp [this]
        · simp [h3]

@[simp] theorem spGet_spSet_same {α : Type} (d : α) (l : Sparse α) (x : Nat) (v : α) : spGet d (spSet l x v) x = v := by
  rw [spGet_spSet, if_pos rfl]

theorem spGet_spSet_other {α : Type} (d : α) (l : Sparse α) {x y : Nat} (v : α) (h : x ≠ y) :
    spGet d (spSet l x v) y = spGet d l y := by
  rw [spGet_spSet, if_neg h]

theorem spGet_spMod {α : Type} (d : α) (l : Sparse α) (x : Nat) (f : α → α) (y : Nat) :
    spGet d (spMod d l x f) y = if x = y then f (spGet d l x) else spGet d l y := spGet_spSet d x _ y l

/-- Two writes of one entry are the second. -/
theorem spSet_spSet {α : Type} (x : Nat) (v w : α) : ∀ l : Sparse α, spSet (spSet l x v) x w = spSet l x w
  | [] => by simp [spSet]
  | (k, u) :: t => by
    by_cases h1 : x < k
    · simp [spSet, h1]
    · by_cases h2 : x = k
      · subst h2; simp [spSet]
      · simp [spSet, h1, h2, spSet_spSet x v w t]

/-! ### Rising keys -/

/-- Keys strictly rising, each above a bound. -/
def rising {α : Type} (lo : Nat) : Sparse α → Prop
  | [] => True
  | (k, _) :: t => lo ≤ k ∧ rising (k + 1) t

theorem rising_mono {α : Type} {lo hi : Nat} (h : lo ≤ hi) : ∀ {l : Sparse α}, rising hi l → rising lo l
  | [], _ => trivial
  | (_, _) :: _, hr => ⟨Nat.le_trans h hr.1, hr.2⟩

/-- Nothing is listed below the bound. -/
theorem spGet_below {α : Type} (d : α) : ∀ {l : Sparse α} {lo x : Nat}, rising lo l → x < lo → spGet d l x = d
  | [], _, _, _, _ => rfl
  | (k, w) :: t, lo, x, h, hx => by
    have hk : lo ≤ k := h.1
    rw [spGet, if_neg (by omega)]
    exact spGet_below d h.2 (by omega)

theorem rising_spSet {α : Type} (x : Nat) (v : α) : ∀ {l : Sparse α} {lo : Nat}, rising lo l → lo ≤ x → rising lo (spSet l x v)
  | [], _, _, hx => ⟨hx, trivial⟩
  | (k, w) :: t, lo, h, hx => by
    unfold spSet
    split
    · exact ⟨hx, by omega, h.2⟩
    · split
      · exact ⟨hx, by subst_vars; exact h.2⟩
      · exact ⟨h.1, rising_spSet x v h.2 (by omega)⟩

theorem rising_spErase {α : Type} (x : Nat) : ∀ {l : Sparse α} {lo : Nat}, rising lo l → rising lo (spErase l x)
  | [], _, _ => trivial
  | (k, w) :: t, lo, h => by
    unfold spErase
    split
    · exact rising_mono (by have := h.1; omega) h.2
    · exact ⟨h.1, rising_spErase x h.2⟩

/-- A read after an erasure. -/
theorem spGet_spErase {α : Type} (d : α) (x y : Nat) : ∀ {l : Sparse α} {lo : Nat}, rising lo l →
    spGet d (spErase l x) y = if x = y then d else spGet d l y
  | [], _, _ => by simp [spErase, spGet]
  | (k, w) :: t, lo, h => by
    unfold spErase
    by_cases h1 : k = x
    · subst h1
      rw [if_pos rfl, spGet]
      by_cases h2 : k = y
      · subst h2
        rw [if_pos rfl]
        exact spGet_below d h.2 (by omega)
      · rw [if_neg h2, if_neg h2]
    · rw [if_neg h1, spGet, spGet, spGet_spErase d x y h.2]
      by_cases h2 : k = y
      · have : ¬ x = y := by omega
        simp [h2, this]
      · simp [h2]

/-! ### Byte memories -/

/-- The canonical form in two parts: rising addresses, no byte 0 listed. -/
theorem wf_iff : ∀ m : Memory, Memory.wf m = true ↔ rising 0 m ∧ ∀ p ∈ m, p.2 ≠ 0
  | [] => by simp [Memory.wf, rising]
  | [(a, b)] => by simp [Memory.wf, rising]
  | (a, b) :: (c, d) :: t => by
    have ih := wf_iff ((c, d) :: t)
    rw [Memory.wf, Bool.and_eq_true, Bool.and_eq_true, ih]
    simp only [rising, bne_iff_ne, decide_eq_true_eq, List.forall_mem_cons]
    constructor
    · rintro ⟨⟨h1, h2⟩, ⟨_, h4⟩, h5⟩
      exact ⟨⟨Nat.zero_le _, by omega, h4⟩, h1, h5⟩
    · rintro ⟨⟨_, h2, h3⟩, h1, h5⟩
      exact ⟨⟨h1, by omega⟩, ⟨Nat.zero_le _, h3⟩, h5⟩

/-- An entry after an update is the new one or was there before. -/
theorem mem_spSet {α : Type} (x : Nat) (v : α) : ∀ l : Sparse α, ∀ p ∈ spSet l x v, p = (x, v) ∨ p ∈ l
  | [], p, hp => by simpa [spSet] using hp
  | (k, w) :: t, p, hp => by
    have ih := mem_spSet x v t p
    unfold spSet at hp
    split at hp
    · simp_all
    · split at hp <;> (simp only [List.mem_cons] at hp ⊢; tauto)

/-- An erasure adds no entry. -/
theorem spErase_sub {α : Type} (x : Nat) : ∀ l : Sparse α, spErase l x ⊆ l
  | [] => List.Subset.refl _
  | (k, w) :: t => by
    unfold spErase
    split
    · exact List.subset_cons_self _ _
    · exact List.cons_subset_cons _ (spErase_sub x t)

/-- One byte written keeps the canonical form. -/
theorem wf_memPut {m : Memory} (a : Nat) (b : Byte) (h : Memory.wf m = true) : Memory.wf (memPut m a b) = true := by
  rw [wf_iff] at *
  unfold memPut
  split
  · exact ⟨rising_spErase a h.1, fun p hp => h.2 p (spErase_sub a m hp)⟩
  · rename_i hb
    refine ⟨rising_spSet a b h.1 (Nat.zero_le _), fun p hp => ?_⟩
    rcases mem_spSet a b m p hp with rfl | hp
    · exact hb
    · exact h.2 p hp

/-- Bytes written keep the canonical form. -/
theorem wf_memWrite : ∀ (bs : List Byte) {m : Memory} (a : Nat), Memory.wf m = true → Memory.wf (memWrite m a bs) = true
  | [], _, _, h => h
  | b :: bs, _, a, h => wf_memWrite bs (a + 1) (wf_memPut a b h)

/-- A read of one byte after a write of one. -/
theorem memGet_memPut {m : Memory} (a : Nat) (b : Byte) (x : Nat) (h : Memory.wf m = true) :
    memGet (memPut m a b) x = if a = x then b else memGet m x := by
  rw [wf_iff] at h
  unfold memGet memPut
  split
  · rename_i hb
    rw [spGet_spErase 0 a x h.1]
    split
    · exact hb.symm
    · rfl
  · exact spGet_spSet 0 a b x m

/-- Bytes outside a write stay. -/
theorem memGet_memWrite_out : ∀ (bs : List Byte) {m : Memory} {a x : Nat}, Memory.wf m = true → (x < a ∨ a + bs.length ≤ x) →
    memGet (memWrite m a bs) x = memGet m x
  | [], _, _, _, _, _ => rfl
  | b :: bs, m, a, x, h, hx => by
    rw [memWrite, memGet_memWrite_out bs (wf_memPut a b h) (by rw [List.length_cons] at hx; omega), memGet_memPut a b x h,
      if_neg (by rw [List.length_cons] at hx; omega)]

/-- What was written reads back. -/
theorem memRead_memWrite : ∀ (bs : List Byte) {m : Memory} (a : Nat), Memory.wf m = true → memRead (memWrite m a bs) a bs.length = bs
  | [], _, _, _ => rfl
  | b :: bs, m, a, h => by
    have hw := wf_memPut a b h
    rw [List.length_cons, memRead, memWrite, memGet_memWrite_out bs hw (by omega), memGet_memPut a b a h, if_pos rfl,
      memRead_memWrite bs (a + 1) hw]

end Sys2Proof.Machine
end

