-- ==== Sys2Proof/Laws/State.lean ====
section
/-! SUPPORT. What each update of the state changes and leaves: one lemma for each field and update. -/

namespace Sys2Proof.Machine

/-! ### Cores and contexts -/

@[simp] theorem core_setCore (m : Mach) (c : Nat) (x : Core) : (m.setCore c x).core c = x := by simp [Mach.core, Mach.setCore]
theorem core_setCore_other (m : Mach) {c d : Nat} (x : Core) (h : c ≠ d) : (m.setCore c x).core d = m.core d :=
  spGet_spSet_other _ _ _ h
@[simp] theorem core_modCore (m : Mach) (c : Nat) (f : Core → Core) : (m.modCore c f).core c = f (m.core c) := by simp [Mach.modCore]
theorem core_modCore_other (m : Mach) {c d : Nat} (f : Core → Core) (h : c ≠ d) : (m.modCore c f).core d = m.core d :=
  core_setCore_other m _ h
@[simp] theorem ctx_modCtx (m : Mach) (c k : Nat) (f : Ctx → Ctx) : (m.modCtx c k f).ctx c k = f (m.ctx c k) := by
  simp [Mach.ctx, Mach.modCtx, Core.ctx]
theorem ctx_modCtx_other (m : Mach) (c : Nat) {k j : Nat} (f : Ctx → Ctx) (h : k ≠ j) :
    (m.modCtx c k f).ctx c j = m.ctx c j := by
  simp [Mach.ctx, Mach.modCtx, Core.ctx, spGet_spSet_other _ _ _ h]
theorem ctx_modCtx_core (m : Mach) {c d : Nat} (k j : Nat) (f : Ctx → Ctx) (h : c ≠ d) :
    (m.modCtx c k f).ctx d j = m.ctx d j := by
  simp [Mach.ctx, Mach.modCtx, core_modCore_other _ _ h]

/-! ### Each other part under its number -/

@[simp] theorem clamp_modClamp (m : Mach) (c i : Nat) (f : Clamp → Clamp) : (m.modClamp c i f).clamp c i = f (m.clamp c i) := by
  simp [Mach.clamp, Mach.modClamp, spGet_spMod]
theorem clamp_modClamp_other (m : Mach) (c : Nat) {i j : Nat} (f : Clamp → Clamp) (h : i ≠ j) :
    (m.modClamp c i f).clamp c j = m.clamp c j := by
  simp [Mach.clamp, Mach.modClamp, spGet_spMod, h]
@[simp] theorem rail_modRail (m : Mach) (c r : Nat) (f : Rail → Rail) : (m.modRail c r f).rail c r = f (m.rail c r) := by
  simp [Mach.rail, Mach.modRail, spGet_spMod]
theorem rail_modRail_other (m : Mach) (c : Nat) {r q : Nat} (f : Rail → Rail) (h : r ≠ q) :
    (m.modRail c r f).rail c q = m.rail c q := by
  simp [Mach.rail, Mach.modRail, spGet_spMod, h]
@[simp] theorem pool_modPool (m : Mach) (c p : Nat) (f : Pool → Pool) : (m.modPool c p f).pool c p = f (m.pool c p) := by
  simp [Mach.pool, Mach.modPool, spGet_spMod]
@[simp] theorem stack_modStack (m : Mach) (i : Nat) (f : Stack → Stack) : (m.modStack i f).stack i = f (m.stack i) := by
  simp [Mach.stack, Mach.modStack, spGet_spMod]
theorem stack_modStack_other (m : Mach) {i j : Nat} (f : Stack → Stack) (h : i ≠ j) : (m.modStack i f).stack j = m.stack j := by
  simp [Mach.stack, Mach.modStack, spGet_spMod, h]
@[simp] theorem link_modLink (m : Mach) (n : Nat) (f : Link → Link) : (m.modLink n f).link n = f (m.link n) := by
  simp [Mach.link, Mach.modLink, spGet_spMod]
theorem link_modLink_other (m : Mach) {n k : Nat} (f : Link → Link) (h : n ≠ k) : (m.modLink n f).link k = m.link k := by
  simp [Mach.link, Mach.modLink, spGet_spMod, h]
@[simp] theorem origin_modOrigin (m : Mach) (o : Nat) (f : Origin → Origin) : (m.modOrigin o f).origin o = f (m.origin o) := by
  simp [Mach.origin, Mach.modOrigin, spGet_spMod]
@[simp] theorem coll_modColl (m : Mach) (i : Nat) (f : Coll → Coll) : (m.modColl i f).coll i = f (m.coll i) := by
  simp [Mach.coll, Mach.modColl, spGet_spMod]
@[simp] theorem intake_modIntake (m : Mach) (i : Nat) (f : Intake → Intake) : (m.modIntake i f).intake i = f (m.intake i) := by
  simp [Mach.intake, Mach.modIntake, spGet_spMod]
@[simp] theorem arr_modArr (m : Mach) (c : Nat) (f : ArrayUnit → ArrayUnit) : (m.modArr c f).arr c = f (m.arr c) := by
  simp [Mach.arr, Mach.modArr]
@[simp] theorem endpoint_modEndpoint (m : Mach) (ep : Nat) (f : Endpoint → Endpoint) :
    endpoint (modEndpoint m ep f) ep = f (endpoint m ep) := by
  unfold endpoint modEndpoint; split <;> rfl
@[simp] theorem gaugeOf_setGauge (m : Mach) (g : Nat) (x : Gauge) : gaugeOf (setGauge m g x) g = x := by
  unfold gaugeOf setGauge; split <;> rfl
@[simp] theorem gaugeOf_modGauge (m : Mach) (g : Nat) (f : Gauge → Gauge) : gaugeOf (modGauge m g f) g = f (gaugeOf m g) := by
  simp [modGauge]
@[simp] theorem dieTables_setDieTables (m : Mach) (d : Nat) (x : DieTables) : dieTables (setDieTables m d x) d = x := by
  unfold dieTables setDieTables; split <;> rfl

/-! ### What each update leaves -/


/-! `setCore` writes `cores` alone. -/

@[simp] theorem setCore_hbm (m : Mach) (c : Nat) (x : Core) : (m.setCore c x).hbm = m.hbm := rfl
@[simp] theorem setCore_faults (m : Mach) (c : Nat) (x : Core) : (m.setCore c x).faults = m.faults := rfl
@[simp] theorem setCore_signals (m : Mach) (c : Nat) (x : Core) : (m.setCore c x).signals = m.signals := rfl
@[simp] theorem setCore_signalsLost (m : Mach) (c : Nat) (x : Core) : (m.setCore c x).signalsLost = m.signalsLost := rfl
@[simp] theorem setCore_tables (m : Mach) (c : Nat) (x : Core) : (m.setCore c x).tables = m.tables := rfl
@[simp] theorem setCore_fabric (m : Mach) (c : Nat) (x : Core) : (m.setCore c x).fabric = m.fabric := rfl
@[simp] theorem setCore_host (m : Mach) (c : Nat) (x : Core) : (m.setCore c x).host = m.host := rfl
@[simp] theorem setCore_mgmt (m : Mach) (c : Nat) (x : Core) : (m.setCore c x).mgmt = m.mgmt := rfl
@[simp] theorem setCore_power (m : Mach) (c : Nat) (x : Core) : (m.setCore c x).power = m.power := rfl
@[simp] theorem setCore_fences (m : Mach) (c : Nat) (x : Core) : (m.setCore c x).fences = m.fences := rfl
@[simp] theorem setCore_out (m : Mach) (c : Nat) (x : Core) : (m.setCore c x).out = m.out := rfl
@[simp] theorem setCore_due (m : Mach) (c : Nat) (x : Core) : (m.setCore c x).due = m.due := rfl
@[simp] theorem setCore_free (m : Mach) (c : Nat) (x : Core) : (m.setCore c x).free = m.free := rfl

/-! `modCore` writes `cores` alone. -/

@[simp] theorem modCore_hbm (m : Mach) (c : Nat) (f : Core → Core) : (m.modCore c f).hbm = m.hbm := rfl
@[simp] theorem modCore_faults (m : Mach) (c : Nat) (f : Core → Core) : (m.modCore c f).faults = m.faults := rfl
@[simp] theorem modCore_signals (m : Mach) (c : Nat) (f : Core → Core) : (m.modCore c f).signals = m.signals := rfl
@[simp] theorem modCore_signalsLost (m : Mach) (c : Nat) (f : Core → Core) : (m.modCore c f).signalsLost = m.signalsLost := rfl
@[simp] theorem modCore_tables (m : Mach) (c : Nat) (f : Core → Core) : (m.modCore c f).tables = m.tables := rfl
@[simp] theorem modCore_fabric (m : Mach) (c : Nat) (f : Core → Core) : (m.modCore c f).fabric = m.fabric := rfl
@[simp] theorem modCore_host (m : Mach) (c : Nat) (f : Core → Core) : (m.modCore c f).host = m.host := rfl
@[simp] theorem modCore_mgmt (m : Mach) (c : Nat) (f : Core → Core) : (m.modCore c f).mgmt = m.mgmt := rfl
@[simp] theorem modCore_power (m : Mach) (c : Nat) (f : Core → Core) : (m.modCore c f).power = m.power := rfl
@[simp] theorem modCore_fences (m : Mach) (c : Nat) (f : Core → Core) : (m.modCore c f).fences = m.fences := rfl
@[simp] theorem modCore_out (m : Mach) (c : Nat) (f : Core → Core) : (m.modCore c f).out = m.out := rfl
@[simp] theorem modCore_due (m : Mach) (c : Nat) (f : Core → Core) : (m.modCore c f).due = m.due := rfl
@[simp] theorem modCore_free (m : Mach) (c : Nat) (f : Core → Core) : (m.modCore c f).free = m.free := rfl

/-! `modCtx` writes `cores` alone. -/

@[simp] theorem modCtx_hbm (m : Mach) (c k : Nat) (f : Ctx → Ctx) : (m.modCtx c k f).hbm = m.hbm := rfl
@[simp] theorem modCtx_faults (m : Mach) (c k : Nat) (f : Ctx → Ctx) : (m.modCtx c k f).faults = m.faults := rfl
@[simp] theorem modCtx_signals (m : Mach) (c k : Nat) (f : Ctx → Ctx) : (m.modCtx c k f).signals = m.signals := rfl
@[simp] theorem modCtx_signalsLost (m : Mach) (c k : Nat) (f : Ctx → Ctx) : (m.modCtx c k f).signalsLost = m.signalsLost := rfl
@[simp] theorem modCtx_tables (m : Mach) (c k : Nat) (f : Ctx → Ctx) : (m.modCtx c k f).tables = m.tables := rfl
@[simp] theorem modCtx_fabric (m : Mach) (c k : Nat) (f : Ctx → Ctx) : (m.modCtx c k f).fabric = m.fabric := rfl
@[simp] theorem modCtx_host (m : Mach) (c k : Nat) (f : Ctx → Ctx) : (m.modCtx c k f).host = m.host := rfl
@[simp] theorem modCtx_mgmt (m : Mach) (c k : Nat) (f : Ctx → Ctx) : (m.modCtx c k f).mgmt = m.mgmt := rfl
@[simp] theorem modCtx_power (m : Mach) (c k : Nat) (f : Ctx → Ctx) : (m.modCtx c k f).power = m.power := rfl
@[simp] theorem modCtx_fences (m : Mach) (c k : Nat) (f : Ctx → Ctx) : (m.modCtx c k f).fences = m.fences := rfl
@[simp] theorem modCtx_out (m : Mach) (c k : Nat) (f : Ctx → Ctx) : (m.modCtx c k f).out = m.out := rfl
@[simp] theorem modCtx_due (m : Mach) (c k : Nat) (f : Ctx → Ctx) : (m.modCtx c k f).due = m.due := rfl
@[simp] theorem modCtx_free (m : Mach) (c k : Nat) (f : Ctx → Ctx) : (m.modCtx c k f).free = m.free := rfl

/-! `modClamp` writes `cores` alone. -/

@[simp] theorem modClamp_hbm (m : Mach) (c i : Nat) (f : Clamp → Clamp) : (m.modClamp c i f).hbm = m.hbm := rfl
@[simp] theorem modClamp_faults (m : Mach) (c i : Nat) (f : Clamp → Clamp) : (m.modClamp c i f).faults = m.faults := rfl
@[simp] theorem modClamp_signals (m : Mach) (c i : Nat) (f : Clamp → Clamp) : (m.modClamp c i f).signals = m.signals := rfl
@[simp] theorem modClamp_signalsLost (m : Mach) (c i : Nat) (f : Clamp → Clamp) : (m.modClamp c i f).signalsLost = m.signalsLost := rfl
@[simp] theorem modClamp_tables (m : Mach) (c i : Nat) (f : Clamp → Clamp) : (m.modClamp c i f).tables = m.tables := rfl
@[simp] theorem modClamp_fabric (m : Mach) (c i : Nat) (f : Clamp → Clamp) : (m.modClamp c i f).fabric = m.fabric := rfl
@[simp] theorem modClamp_host (m : Mach) (c i : Nat) (f : Clamp → Clamp) : (m.modClamp c i f).host = m.host := rfl
@[simp] theorem modClamp_mgmt (m : Mach) (c i : Nat) (f : Clamp → Clamp) : (m.modClamp c i f).mgmt = m.mgmt := rfl
@[simp] theorem modClamp_power (m : Mach) (c i : Nat) (f : Clamp → Clamp) : (m.modClamp c i f).power = m.power := rfl
@[simp] theorem modClamp_fences (m : Mach) (c i : Nat) (f : Clamp → Clamp) : (m.modClamp c i f).fences = m.fences := rfl
@[simp] theorem modClamp_out (m : Mach) (c i : Nat) (f : Clamp → Clamp) : (m.modClamp c i f).out = m.out := rfl
@[simp] theorem modClamp_due (m : Mach) (c i : Nat) (f : Clamp → Clamp) : (m.modClamp c i f).due = m.due := rfl
@[simp] theorem modClamp_free (m : Mach) (c i : Nat) (f : Clamp → Clamp) : (m.modClamp c i f).free = m.free := rfl

/-! `modRail` writes `cores` alone. -/

@[simp] theorem modRail_hbm (m : Mach) (c r : Nat) (f : Rail → Rail) : (m.modRail c r f).hbm = m.hbm := rfl
@[simp] theorem modRail_faults (m : Mach) (c r : Nat) (f : Rail → Rail) : (m.modRail c r f).faults = m.faults := rfl
@[simp] theorem modRail_signals (m : Mach) (c r : Nat) (f : Rail → Rail) : (m.modRail c r f).signals = m.signals := rfl
@[simp] theorem modRail_signalsLost (m : Mach) (c r : Nat) (f : Rail → Rail) : (m.modRail c r f).signalsLost = m.signalsLost := rfl
@[simp] theorem modRail_tables (m : Mach) (c r : Nat) (f : Rail → Rail) : (m.modRail c r f).tables = m.tables := rfl
@[simp] theorem modRail_fabric (m : Mach) (c r : Nat) (f : Rail → Rail) : (m.modRail c r f).fabric = m.fabric := rfl
@[simp] theorem modRail_host (m : Mach) (c r : Nat) (f : Rail → Rail) : (m.modRail c r f).host = m.host := rfl
@[simp] theorem modRail_mgmt (m : Mach) (c r : Nat) (f : Rail → Rail) : (m.modRail c r f).mgmt = m.mgmt := rfl
@[simp] theorem modRail_power (m : Mach) (c r : Nat) (f : Rail → Rail) : (m.modRail c r f).power = m.power := rfl
@[simp] theorem modRail_fences (m : Mach) (c r : Nat) (f : Rail → Rail) : (m.modRail c r f).fences = m.fences := rfl
@[simp] theorem modRail_out (m : Mach) (c r : Nat) (f : Rail → Rail) : (m.modRail c r f).out = m.out := rfl
@[simp] theorem modRail_due (m : Mach) (c r : Nat) (f : Rail → Rail) : (m.modRail c r f).due = m.due := rfl
@[simp] theorem modRail_free (m : Mach) (c r : Nat) (f : Rail → Rail) : (m.modRail c r f).free = m.free := rfl

/-! `modPool` writes `cores` alone. -/

@[simp] theorem modPool_hbm (m : Mach) (c p : Nat) (f : Pool → Pool) : (m.modPool c p f).hbm = m.hbm := rfl
@[simp] theorem modPool_faults (m : Mach) (c p : Nat) (f : Pool → Pool) : (m.modPool c p f).faults = m.faults := rfl
@[simp] theorem modPool_signals (m : Mach) (c p : Nat) (f : Pool → Pool) : (m.modPool c p f).signals = m.signals := rfl
@[simp] theorem modPool_signalsLost (m : Mach) (c p : Nat) (f : Pool → Pool) : (m.modPool c p f).signalsLost = m.signalsLost := rfl
@[simp] theorem modPool_tables (m : Mach) (c p : Nat) (f : Pool → Pool) : (m.modPool c p f).tables = m.tables := rfl
@[simp] theorem modPool_fabric (m : Mach) (c p : Nat) (f : Pool → Pool) : (m.modPool c p f).fabric = m.fabric := rfl
@[simp] theorem modPool_host (m : Mach) (c p : Nat) (f : Pool → Pool) : (m.modPool c p f).host = m.host := rfl
@[simp] theorem modPool_mgmt (m : Mach) (c p : Nat) (f : Pool → Pool) : (m.modPool c p f).mgmt = m.mgmt := rfl
@[simp] theorem modPool_power (m : Mach) (c p : Nat) (f : Pool → Pool) : (m.modPool c p f).power = m.power := rfl
@[simp] theorem modPool_fences (m : Mach) (c p : Nat) (f : Pool → Pool) : (m.modPool c p f).fences = m.fences := rfl
@[simp] theorem modPool_out (m : Mach) (c p : Nat) (f : Pool → Pool) : (m.modPool c p f).out = m.out := rfl
@[simp] theorem modPool_due (m : Mach) (c p : Nat) (f : Pool → Pool) : (m.modPool c p f).due = m.due := rfl
@[simp] theorem modPool_free (m : Mach) (c p : Nat) (f : Pool → Pool) : (m.modPool c p f).free = m.free := rfl

/-! `setStream` writes `cores` alone. -/

@[simp] theorem setStream_hbm (m : Mach) (c i : Nat) (x : Stream) : (m.setStream c i x).hbm = m.hbm := rfl
@[simp] theorem setStream_faults (m : Mach) (c i : Nat) (x : Stream) : (m.setStream c i x).faults = m.faults := rfl
@[simp] theorem setStream_signals (m : Mach) (c i : Nat) (x : Stream) : (m.setStream c i x).signals = m.signals := rfl
@[simp] theorem setStream_signalsLost (m : Mach) (c i : Nat) (x : Stream) : (m.setStream c i x).signalsLost = m.signalsLost := rfl
@[simp] theorem setStream_tables (m : Mach) (c i : Nat) (x : Stream) : (m.setStream c i x).tables = m.tables := rfl
@[simp] theorem setStream_fabric (m : Mach) (c i : Nat) (x : Stream) : (m.setStream c i x).fabric = m.fabric := rfl
@[simp] theorem setStream_host (m : Mach) (c i : Nat) (x : Stream) : (m.setStream c i x).host = m.host := rfl
@[simp] theorem setStream_mgmt (m : Mach) (c i : Nat) (x : Stream) : (m.setStream c i x).mgmt = m.mgmt := rfl
@[simp] theorem setStream_power (m : Mach) (c i : Nat) (x : Stream) : (m.setStream c i x).power = m.power := rfl
@[simp] theorem setStream_fences (m : Mach) (c i : Nat) (x : Stream) : (m.setStream c i x).fences = m.fences := rfl
@[simp] theorem setStream_out (m : Mach) (c i : Nat) (x : Stream) : (m.setStream c i x).out = m.out := rfl
@[simp] theorem setStream_due (m : Mach) (c i : Nat) (x : Stream) : (m.setStream c i x).due = m.due := rfl
@[simp] theorem setStream_free (m : Mach) (c i : Nat) (x : Stream) : (m.setStream c i x).free = m.free := rfl

/-! `dropStream` writes `cores` alone. -/

@[simp] theorem dropStream_hbm (m : Mach) (c i : Nat) : (m.dropStream c i).hbm = m.hbm := rfl
@[simp] theorem dropStream_faults (m : Mach) (c i : Nat) : (m.dropStream c i).faults = m.faults := rfl
@[simp] theorem dropStream_signals (m : Mach) (c i : Nat) : (m.dropStream c i).signals = m.signals := rfl
@[simp] theorem dropStream_signalsLost (m : Mach) (c i : Nat) : (m.dropStream c i).signalsLost = m.signalsLost := rfl
@[simp] theorem dropStream_tables (m : Mach) (c i : Nat) : (m.dropStream c i).tables = m.tables := rfl
@[simp] theorem dropStream_fabric (m : Mach) (c i : Nat) : (m.dropStream c i).fabric = m.fabric := rfl
@[simp] theorem dropStream_host (m : Mach) (c i : Nat) : (m.dropStream c i).host = m.host := rfl
@[simp] theorem dropStream_mgmt (m : Mach) (c i : Nat) : (m.dropStream c i).mgmt = m.mgmt := rfl
@[simp] theorem dropStream_power (m : Mach) (c i : Nat) : (m.dropStream c i).power = m.power := rfl
@[simp] theorem dropStream_fences (m : Mach) (c i : Nat) : (m.dropStream c i).fences = m.fences := rfl
@[simp] theorem dropStream_out (m : Mach) (c i : Nat) : (m.dropStream c i).out = m.out := rfl
@[simp] theorem dropStream_due (m : Mach) (c i : Nat) : (m.dropStream c i).due = m.due := rfl
@[simp] theorem dropStream_free (m : Mach) (c i : Nat) : (m.dropStream c i).free = m.free := rfl

/-! `modArr` writes `cores` alone. -/

@[simp] theorem modArr_hbm (m : Mach) (c : Nat) (f : ArrayUnit → ArrayUnit) : (m.modArr c f).hbm = m.hbm := rfl
@[simp] theorem modArr_faults (m : Mach) (c : Nat) (f : ArrayUnit → ArrayUnit) : (m.modArr c f).faults = m.faults := rfl
@[simp] theorem modArr_signals (m : Mach) (c : Nat) (f : ArrayUnit → ArrayUnit) : (m.modArr c f).signals = m.signals := rfl
@[simp] theorem modArr_signalsLost (m : Mach) (c : Nat) (f : ArrayUnit → ArrayUnit) : (m.modArr c f).signalsLost = m.signalsLost := rfl
@[simp] theorem modArr_tables (m : Mach) (c : Nat) (f : ArrayUnit → ArrayUnit) : (m.modArr c f).tables = m.tables := rfl
@[simp] theorem modArr_fabric (m : Mach) (c : Nat) (f : ArrayUnit → ArrayUnit) : (m.modArr c f).fabric = m.fabric := rfl
@[simp] theorem modArr_host (m : Mach) (c : Nat) (f : ArrayUnit → ArrayUnit) : (m.modArr c f).host = m.host := rfl
@[simp] theorem modArr_mgmt (m : Mach) (c : Nat) (f : ArrayUnit → ArrayUnit) : (m.modArr c f).mgmt = m.mgmt := rfl
@[simp] theorem modArr_power (m : Mach) (c : Nat) (f : ArrayUnit → ArrayUnit) : (m.modArr c f).power = m.power := rfl
@[simp] theorem modArr_fences (m : Mach) (c : Nat) (f : ArrayUnit → ArrayUnit) : (m.modArr c f).fences = m.fences := rfl
@[simp] theorem modArr_out (m : Mach) (c : Nat) (f : ArrayUnit → ArrayUnit) : (m.modArr c f).out = m.out := rfl
@[simp] theorem modArr_due (m : Mach) (c : Nat) (f : ArrayUnit → ArrayUnit) : (m.modArr c f).due = m.due := rfl
@[simp] theorem modArr_free (m : Mach) (c : Nat) (f : ArrayUnit → ArrayUnit) : (m.modArr c f).free = m.free := rfl

/-! `trayWrite` writes `cores` alone. -/

@[simp] theorem trayWrite_hbm (m : Mach) (c a : Nat) (data : List Byte) : (trayWrite m c a data).hbm = m.hbm := rfl
@[simp] theorem trayWrite_faults (m : Mach) (c a : Nat) (data : List Byte) : (trayWrite m c a data).faults = m.faults := rfl
@[simp] theorem trayWrite_signals (m : Mach) (c a : Nat) (data : List Byte) : (trayWrite m c a data).signals = m.signals := rfl
@[simp] theorem trayWrite_signalsLost (m : Mach) (c a : Nat) (data : List Byte) : (trayWrite m c a data).signalsLost = m.signalsLost :=
  rfl
@[simp] theorem trayWrite_tables (m : Mach) (c a : Nat) (data : List Byte) : (trayWrite m c a data).tables = m.tables := rfl
@[simp] theorem trayWrite_fabric (m : Mach) (c a : Nat) (data : List Byte) : (trayWrite m c a data).fabric = m.fabric := rfl
@[simp] theorem trayWrite_host (m : Mach) (c a : Nat) (data : List Byte) : (trayWrite m c a data).host = m.host := rfl
@[simp] theorem trayWrite_mgmt (m : Mach) (c a : Nat) (data : List Byte) : (trayWrite m c a data).mgmt = m.mgmt := rfl
@[simp] theorem trayWrite_power (m : Mach) (c a : Nat) (data : List Byte) : (trayWrite m c a data).power = m.power := rfl
@[simp] theorem trayWrite_fences (m : Mach) (c a : Nat) (data : List Byte) : (trayWrite m c a data).fences = m.fences := rfl
@[simp] theorem trayWrite_out (m : Mach) (c a : Nat) (data : List Byte) : (trayWrite m c a data).out = m.out := rfl
@[simp] theorem trayWrite_due (m : Mach) (c a : Nat) (data : List Byte) : (trayWrite m c a data).due = m.due := rfl
@[simp] theorem trayWrite_free (m : Mach) (c a : Nat) (data : List Byte) : (trayWrite m c a data).free = m.free := rfl

/-! `modStack` writes `hbm` alone. -/

@[simp] theorem modStack_cores (m : Mach) (i : Nat) (f : Stack → Stack) : (m.modStack i f).cores = m.cores := rfl
@[simp] theorem modStack_faults (m : Mach) (i : Nat) (f : Stack → Stack) : (m.modStack i f).faults = m.faults := rfl
@[simp] theorem modStack_signals (m : Mach) (i : Nat) (f : Stack → Stack) : (m.modStack i f).signals = m.signals := rfl
@[simp] theorem modStack_signalsLost (m : Mach) (i : Nat) (f : Stack → Stack) : (m.modStack i f).signalsLost = m.signalsLost := rfl
@[simp] theorem modStack_tables (m : Mach) (i : Nat) (f : Stack → Stack) : (m.modStack i f).tables = m.tables := rfl
@[simp] theorem modStack_fabric (m : Mach) (i : Nat) (f : Stack → Stack) : (m.modStack i f).fabric = m.fabric := rfl
@[simp] theorem modStack_host (m : Mach) (i : Nat) (f : Stack → Stack) : (m.modStack i f).host = m.host := rfl
@[simp] theorem modStack_mgmt (m : Mach) (i : Nat) (f : Stack → Stack) : (m.modStack i f).mgmt = m.mgmt := rfl
@[simp] theorem modStack_power (m : Mach) (i : Nat) (f : Stack → Stack) : (m.modStack i f).power = m.power := rfl
@[simp] theorem modStack_fences (m : Mach) (i : Nat) (f : Stack → Stack) : (m.modStack i f).fences = m.fences := rfl
@[simp] theorem modStack_out (m : Mach) (i : Nat) (f : Stack → Stack) : (m.modStack i f).out = m.out := rfl
@[simp] theorem modStack_due (m : Mach) (i : Nat) (f : Stack → Stack) : (m.modStack i f).due = m.due := rfl
@[simp] theorem modStack_free (m : Mach) (i : Nat) (f : Stack → Stack) : (m.modStack i f).free = m.free := rfl

/-! `setSide` writes `hbm` alone. -/

@[simp] theorem setSide_cores (m : Mach) (g : Nat) (x : Side) : (setSide m g x).cores = m.cores := rfl
@[simp] theorem setSide_faults (m : Mach) (g : Nat) (x : Side) : (setSide m g x).faults = m.faults := rfl
@[simp] theorem setSide_signals (m : Mach) (g : Nat) (x : Side) : (setSide m g x).signals = m.signals := rfl
@[simp] theorem setSide_signalsLost (m : Mach) (g : Nat) (x : Side) : (setSide m g x).signalsLost = m.signalsLost := rfl
@[simp] theorem setSide_tables (m : Mach) (g : Nat) (x : Side) : (setSide m g x).tables = m.tables := rfl
@[simp] theorem setSide_fabric (m : Mach) (g : Nat) (x : Side) : (setSide m g x).fabric = m.fabric := rfl
@[simp] theorem setSide_host (m : Mach) (g : Nat) (x : Side) : (setSide m g x).host = m.host := rfl
@[simp] theorem setSide_mgmt (m : Mach) (g : Nat) (x : Side) : (setSide m g x).mgmt = m.mgmt := rfl
@[simp] theorem setSide_power (m : Mach) (g : Nat) (x : Side) : (setSide m g x).power = m.power := rfl
@[simp] theorem setSide_fences (m : Mach) (g : Nat) (x : Side) : (setSide m g x).fences = m.fences := rfl
@[simp] theorem setSide_out (m : Mach) (g : Nat) (x : Side) : (setSide m g x).out = m.out := rfl
@[simp] theorem setSide_due (m : Mach) (g : Nat) (x : Side) : (setSide m g x).due = m.due := rfl
@[simp] theorem setSide_free (m : Mach) (g : Nat) (x : Side) : (setSide m g x).free = m.free := rfl

/-! `modLink` writes `fabric` alone. -/

@[simp] theorem modLink_cores (m : Mach) (n : Nat) (f : Link → Link) : (m.modLink n f).cores = m.cores := rfl
@[simp] theorem modLink_hbm (m : Mach) (n : Nat) (f : Link → Link) : (m.modLink n f).hbm = m.hbm := rfl
@[simp] theorem modLink_faults (m : Mach) (n : Nat) (f : Link → Link) : (m.modLink n f).faults = m.faults := rfl
@[simp] theorem modLink_signals (m : Mach) (n : Nat) (f : Link → Link) : (m.modLink n f).signals = m.signals := rfl
@[simp] theorem modLink_signalsLost (m : Mach) (n : Nat) (f : Link → Link) : (m.modLink n f).signalsLost = m.signalsLost := rfl
@[simp] theorem modLink_tables (m : Mach) (n : Nat) (f : Link → Link) : (m.modLink n f).tables = m.tables := rfl
@[simp] theorem modLink_host (m : Mach) (n : Nat) (f : Link → Link) : (m.modLink n f).host = m.host := rfl
@[simp] theorem modLink_mgmt (m : Mach) (n : Nat) (f : Link → Link) : (m.modLink n f).mgmt = m.mgmt := rfl
@[simp] theorem modLink_power (m : Mach) (n : Nat) (f : Link → Link) : (m.modLink n f).power = m.power := rfl
@[simp] theorem modLink_fences (m : Mach) (n : Nat) (f : Link → Link) : (m.modLink n f).fences = m.fences := rfl
@[simp] theorem modLink_out (m : Mach) (n : Nat) (f : Link → Link) : (m.modLink n f).out = m.out := rfl
@[simp] theorem modLink_due (m : Mach) (n : Nat) (f : Link → Link) : (m.modLink n f).due = m.due := rfl
@[simp] theorem modLink_free (m : Mach) (n : Nat) (f : Link → Link) : (m.modLink n f).free = m.free := rfl

/-! `modOrigin` writes `fabric` alone. -/

@[simp] theorem modOrigin_cores (m : Mach) (o : Nat) (f : Origin → Origin) : (m.modOrigin o f).cores = m.cores := rfl
@[simp] theorem modOrigin_hbm (m : Mach) (o : Nat) (f : Origin → Origin) : (m.modOrigin o f).hbm = m.hbm := rfl
@[simp] theorem modOrigin_faults (m : Mach) (o : Nat) (f : Origin → Origin) : (m.modOrigin o f).faults = m.faults := rfl
@[simp] theorem modOrigin_signals (m : Mach) (o : Nat) (f : Origin → Origin) : (m.modOrigin o f).signals = m.signals := rfl
@[simp] theorem modOrigin_signalsLost (m : Mach) (o : Nat) (f : Origin → Origin) : (m.modOrigin o f).signalsLost = m.signalsLost := rfl
@[simp] theorem modOrigin_tables (m : Mach) (o : Nat) (f : Origin → Origin) : (m.modOrigin o f).tables = m.tables := rfl
@[simp] theorem modOrigin_host (m : Mach) (o : Nat) (f : Origin → Origin) : (m.modOrigin o f).host = m.host := rfl
@[simp] theorem modOrigin_mgmt (m : Mach) (o : Nat) (f : Origin → Origin) : (m.modOrigin o f).mgmt = m.mgmt := rfl
@[simp] theorem modOrigin_power (m : Mach) (o : Nat) (f : Origin → Origin) : (m.modOrigin o f).power = m.power := rfl
@[simp] theorem modOrigin_fences (m : Mach) (o : Nat) (f : Origin → Origin) : (m.modOrigin o f).fences = m.fences := rfl
@[simp] theorem modOrigin_out (m : Mach) (o : Nat) (f : Origin → Origin) : (m.modOrigin o f).out = m.out := rfl
@[simp] theorem modOrigin_due (m : Mach) (o : Nat) (f : Origin → Origin) : (m.modOrigin o f).due = m.due := rfl
@[simp] theorem modOrigin_free (m : Mach) (o : Nat) (f : Origin → Origin) : (m.modOrigin o f).free = m.free := rfl

/-! `modColl` writes `fabric` alone. -/

@[simp] theorem modColl_cores (m : Mach) (i : Nat) (f : Coll → Coll) : (m.modColl i f).cores = m.cores := rfl
@[simp] theorem modColl_hbm (m : Mach) (i : Nat) (f : Coll → Coll) : (m.modColl i f).hbm = m.hbm := rfl
@[simp] theorem modColl_faults (m : Mach) (i : Nat) (f : Coll → Coll) : (m.modColl i f).faults = m.faults := rfl
@[simp] theorem modColl_signals (m : Mach) (i : Nat) (f : Coll → Coll) : (m.modColl i f).signals = m.signals := rfl
@[simp] theorem modColl_signalsLost (m : Mach) (i : Nat) (f : Coll → Coll) : (m.modColl i f).signalsLost = m.signalsLost := rfl
@[simp] theorem modColl_tables (m : Mach) (i : Nat) (f : Coll → Coll) : (m.modColl i f).tables = m.tables := rfl
@[simp] theorem modColl_host (m : Mach) (i : Nat) (f : Coll → Coll) : (m.modColl i f).host = m.host := rfl
@[simp] theorem modColl_mgmt (m : Mach) (i : Nat) (f : Coll → Coll) : (m.modColl i f).mgmt = m.mgmt := rfl
@[simp] theorem modColl_power (m : Mach) (i : Nat) (f : Coll → Coll) : (m.modColl i f).power = m.power := rfl
@[simp] theorem modColl_fences (m : Mach) (i : Nat) (f : Coll → Coll) : (m.modColl i f).fences = m.fences := rfl
@[simp] theorem modColl_out (m : Mach) (i : Nat) (f : Coll → Coll) : (m.modColl i f).out = m.out := rfl
@[simp] theorem modColl_due (m : Mach) (i : Nat) (f : Coll → Coll) : (m.modColl i f).due = m.due := rfl
@[simp] theorem modColl_free (m : Mach) (i : Nat) (f : Coll → Coll) : (m.modColl i f).free = m.free := rfl

/-! `modIntake` writes `host` alone. -/

@[simp] theorem modIntake_cores (m : Mach) (i : Nat) (f : Intake → Intake) : (m.modIntake i f).cores = m.cores := rfl
@[simp] theorem modIntake_hbm (m : Mach) (i : Nat) (f : Intake → Intake) : (m.modIntake i f).hbm = m.hbm := rfl
@[simp] theorem modIntake_faults (m : Mach) (i : Nat) (f : Intake → Intake) : (m.modIntake i f).faults = m.faults := rfl
@[simp] theorem modIntake_signals (m : Mach) (i : Nat) (f : Intake → Intake) : (m.modIntake i f).signals = m.signals := rfl
@[simp] theorem modIntake_signalsLost (m : Mach) (i : Nat) (f : Intake → Intake) : (m.modIntake i f).signalsLost = m.signalsLost := rfl
@[simp] theorem modIntake_tables (m : Mach) (i : Nat) (f : Intake → Intake) : (m.modIntake i f).tables = m.tables := rfl
@[simp] theorem modIntake_fabric (m : Mach) (i : Nat) (f : Intake → Intake) : (m.modIntake i f).fabric = m.fabric := rfl
@[simp] theorem modIntake_mgmt (m : Mach) (i : Nat) (f : Intake → Intake) : (m.modIntake i f).mgmt = m.mgmt := rfl
@[simp] theorem modIntake_power (m : Mach) (i : Nat) (f : Intake → Intake) : (m.modIntake i f).power = m.power := rfl
@[simp] theorem modIntake_fences (m : Mach) (i : Nat) (f : Intake → Intake) : (m.modIntake i f).fences = m.fences := rfl
@[simp] theorem modIntake_out (m : Mach) (i : Nat) (f : Intake → Intake) : (m.modIntake i f).out = m.out := rfl
@[simp] theorem modIntake_due (m : Mach) (i : Nat) (f : Intake → Intake) : (m.modIntake i f).due = m.due := rfl
@[simp] theorem modIntake_free (m : Mach) (i : Nat) (f : Intake → Intake) : (m.modIntake i f).free = m.free := rfl

/-! `setComp` writes `host` alone. -/

@[simp] theorem setComp_cores (m : Mach) (r : Nat) (x : CompRing) : (m.setComp r x).cores = m.cores := rfl
@[simp] theorem setComp_hbm (m : Mach) (r : Nat) (x : CompRing) : (m.setComp r x).hbm = m.hbm := rfl
@[simp] theorem setComp_faults (m : Mach) (r : Nat) (x : CompRing) : (m.setComp r x).faults = m.faults := rfl
@[simp] theorem setComp_signals (m : Mach) (r : Nat) (x : CompRing) : (m.setComp r x).signals = m.signals := rfl
@[simp] theorem setComp_signalsLost (m : Mach) (r : Nat) (x : CompRing) : (m.setComp r x).signalsLost = m.signalsLost := rfl
@[simp] theorem setComp_tables (m : Mach) (r : Nat) (x : CompRing) : (m.setComp r x).tables = m.tables := rfl
@[simp] theorem setComp_fabric (m : Mach) (r : Nat) (x : CompRing) : (m.setComp r x).fabric = m.fabric := rfl
@[simp] theorem setComp_mgmt (m : Mach) (r : Nat) (x : CompRing) : (m.setComp r x).mgmt = m.mgmt := rfl
@[simp] theorem setComp_power (m : Mach) (r : Nat) (x : CompRing) : (m.setComp r x).power = m.power := rfl
@[simp] theorem setComp_fences (m : Mach) (r : Nat) (x : CompRing) : (m.setComp r x).fences = m.fences := rfl
@[simp] theorem setComp_out (m : Mach) (r : Nat) (x : CompRing) : (m.setComp r x).out = m.out := rfl
@[simp] theorem setComp_due (m : Mach) (r : Nat) (x : CompRing) : (m.setComp r x).due = m.due := rfl
@[simp] theorem setComp_free (m : Mach) (r : Nat) (x : CompRing) : (m.setComp r x).free = m.free := rfl

/-! `hostWrite` writes `host` alone. -/

@[simp] theorem hostWrite_cores (m : Mach) (a : Nat) (data : List Byte) : (hostWrite m a data).cores = m.cores := rfl
@[simp] theorem hostWrite_hbm (m : Mach) (a : Nat) (data : List Byte) : (hostWrite m a data).hbm = m.hbm := rfl
@[simp] theorem hostWrite_faults (m : Mach) (a : Nat) (data : List Byte) : (hostWrite m a data).faults = m.faults := rfl
@[simp] theorem hostWrite_signals (m : Mach) (a : Nat) (data : List Byte) : (hostWrite m a data).signals = m.signals := rfl
@[simp] theorem hostWrite_signalsLost (m : Mach) (a : Nat) (data : List Byte) : (hostWrite m a data).signalsLost = m.signalsLost := rfl
@[simp] theorem hostWrite_tables (m : Mach) (a : Nat) (data : List Byte) : (hostWrite m a data).tables = m.tables := rfl
@[simp] theorem hostWrite_fabric (m : Mach) (a : Nat) (data : List Byte) : (hostWrite m a data).fabric = m.fabric := rfl
@[simp] theorem hostWrite_mgmt (m : Mach) (a : Nat) (data : List Byte) : (hostWrite m a data).mgmt = m.mgmt := rfl
@[simp] theorem hostWrite_power (m : Mach) (a : Nat) (data : List Byte) : (hostWrite m a data).power = m.power := rfl
@[simp] theorem hostWrite_fences (m : Mach) (a : Nat) (data : List Byte) : (hostWrite m a data).fences = m.fences := rfl
@[simp] theorem hostWrite_out (m : Mach) (a : Nat) (data : List Byte) : (hostWrite m a data).out = m.out := rfl
@[simp] theorem hostWrite_due (m : Mach) (a : Nat) (data : List Byte) : (hostWrite m a data).due = m.due := rfl
@[simp] theorem hostWrite_free (m : Mach) (a : Nat) (data : List Byte) : (hostWrite m a data).free = m.free := rfl

/-! `modEndpoint` writes `host` alone. -/

@[simp] theorem modEndpoint_cores (m : Mach) (ep : Nat) (f : Endpoint → Endpoint) : (modEndpoint m ep f).cores = m.cores :=
  by unfold modEndpoint; split <;> rfl
@[simp] theorem modEndpoint_hbm (m : Mach) (ep : Nat) (f : Endpoint → Endpoint) : (modEndpoint m ep f).hbm = m.hbm :=
  by unfold modEndpoint; split <;> rfl
@[simp] theorem modEndpoint_faults (m : Mach) (ep : Nat) (f : Endpoint → Endpoint) : (modEndpoint m ep f).faults = m.faults :=
  by unfold modEndpoint; split <;> rfl
@[simp] theorem modEndpoint_signals (m : Mach) (ep : Nat) (f : Endpoint → Endpoint) : (modEndpoint m ep f).signals = m.signals :=
  by unfold modEndpoint; split <;> rfl
@[simp] theorem modEndpoint_signalsLost (m : Mach) (ep : Nat) (f : Endpoint → Endpoint) : (modEndpoint m ep f).signalsLost = m.signalsLost :=
  by unfold modEndpoint; split <;> rfl
@[simp] theorem modEndpoint_tables (m : Mach) (ep : Nat) (f : Endpoint → Endpoint) : (modEndpoint m ep f).tables = m.tables :=
  by unfold modEndpoint; split <;> rfl
@[simp] theorem modEndpoint_fabric (m : Mach) (ep : Nat) (f : Endpoint → Endpoint) : (modEndpoint m ep f).fabric = m.fabric :=
  by unfold modEndpoint; split <;> rfl
@[simp] theorem modEndpoint_mgmt (m : Mach) (ep : Nat) (f : Endpoint → Endpoint) : (modEndpoint m ep f).mgmt = m.mgmt :=
  by unfold modEndpoint; split <;> rfl
@[simp] theorem modEndpoint_power (m : Mach) (ep : Nat) (f : Endpoint → Endpoint) : (modEndpoint m ep f).power = m.power :=
  by unfold modEndpoint; split <;> rfl
@[simp] theorem modEndpoint_fences (m : Mach) (ep : Nat) (f : Endpoint → Endpoint) : (modEndpoint m ep f).fences = m.fences :=
  by unfold modEndpoint; split <;> rfl
@[simp] theorem modEndpoint_out (m : Mach) (ep : Nat) (f : Endpoint → Endpoint) : (modEndpoint m ep f).out = m.out :=
  by unfold modEndpoint; split <;> rfl
@[simp] theorem modEndpoint_due (m : Mach) (ep : Nat) (f : Endpoint → Endpoint) : (modEndpoint m ep f).due = m.due :=
  by unfold modEndpoint; split <;> rfl
@[simp] theorem modEndpoint_free (m : Mach) (ep : Nat) (f : Endpoint → Endpoint) : (modEndpoint m ep f).free = m.free :=
  by unfold modEndpoint; split <;> rfl

/-! `setGauge` writes `mgmt` alone. -/

@[simp] theorem setGauge_cores (m : Mach) (g : Nat) (x : Gauge) : (setGauge m g x).cores = m.cores := by unfold setGauge; split <;> rfl
@[simp] theorem setGauge_hbm (m : Mach) (g : Nat) (x : Gauge) : (setGauge m g x).hbm = m.hbm := by unfold setGauge; split <;> rfl
@[simp] theorem setGauge_faults (m : Mach) (g : Nat) (x : Gauge) : (setGauge m g x).faults = m.faults := by unfold setGauge; split <;> rfl
@[simp] theorem setGauge_signals (m : Mach) (g : Nat) (x : Gauge) : (setGauge m g x).signals = m.signals :=
  by unfold setGauge; split <;> rfl
@[simp] theorem setGauge_signalsLost (m : Mach) (g : Nat) (x : Gauge) : (setGauge m g x).signalsLost = m.signalsLost :=
  by unfold setGauge; split <;> rfl
@[simp] theorem setGauge_tables (m : Mach) (g : Nat) (x : Gauge) : (setGauge m g x).tables = m.tables := by unfold setGauge; split <;> rfl
@[simp] theorem setGauge_fabric (m : Mach) (g : Nat) (x : Gauge) : (setGauge m g x).fabric = m.fabric := by unfold setGauge; split <;> rfl
@[simp] theorem setGauge_host (m : Mach) (g : Nat) (x : Gauge) : (setGauge m g x).host = m.host := by unfold setGauge; split <;> rfl
@[simp] theorem setGauge_power (m : Mach) (g : Nat) (x : Gauge) : (setGauge m g x).power = m.power := by unfold setGauge; split <;> rfl
@[simp] theorem setGauge_fences (m : Mach) (g : Nat) (x : Gauge) : (setGauge m g x).fences = m.fences := by unfold setGauge; split <;> rfl
@[simp] theorem setGauge_out (m : Mach) (g : Nat) (x : Gauge) : (setGauge m g x).out = m.out := by unfold setGauge; split <;> rfl
@[simp] theorem setGauge_due (m : Mach) (g : Nat) (x : Gauge) : (setGauge m g x).due = m.due := by unfold setGauge; split <;> rfl
@[simp] theorem setGauge_free (m : Mach) (g : Nat) (x : Gauge) : (setGauge m g x).free = m.free := by unfold setGauge; split <;> rfl

/-! `setFaultRing` writes `faults` alone. -/

@[simp] theorem setFaultRing_cores (m : Mach) (d : Nat) (x : FaultRing) : (setFaultRing m d x).cores = m.cores :=
  by unfold setFaultRing; split <;> rfl
@[simp] theorem setFaultRing_hbm (m : Mach) (d : Nat) (x : FaultRing) : (setFaultRing m d x).hbm = m.hbm :=
  by unfold setFaultRing; split <;> rfl
@[simp] theorem setFaultRing_signals (m : Mach) (d : Nat) (x : FaultRing) : (setFaultRing m d x).signals = m.signals :=
  by unfold setFaultRing; split <;> rfl
@[simp] theorem setFaultRing_signalsLost (m : Mach) (d : Nat) (x : FaultRing) : (setFaultRing m d x).signalsLost = m.signalsLost :=
  by unfold setFaultRing; split <;> rfl
@[simp] theorem setFaultRing_tables (m : Mach) (d : Nat) (x : FaultRing) : (setFaultRing m d x).tables = m.tables :=
  by unfold setFaultRing; split <;> rfl
@[simp] theorem setFaultRing_fabric (m : Mach) (d : Nat) (x : FaultRing) : (setFaultRing m d x).fabric = m.fabric :=
  by unfold setFaultRing; split <;> rfl
@[simp] theorem setFaultRing_host (m : Mach) (d : Nat) (x : FaultRing) : (setFaultRing m d x).host = m.host :=
  by unfold setFaultRing; split <;> rfl
@[simp] theorem setFaultRing_mgmt (m : Mach) (d : Nat) (x : FaultRing) : (setFaultRing m d x).mgmt = m.mgmt :=
  by unfold setFaultRing; split <;> rfl
@[simp] theorem setFaultRing_power (m : Mach) (d : Nat) (x : FaultRing) : (setFaultRing m d x).power = m.power :=
  by unfold setFaultRing; split <;> rfl
@[simp] theorem setFaultRing_fences (m : Mach) (d : Nat) (x : FaultRing) : (setFaultRing m d x).fences = m.fences :=
  by unfold setFaultRing; split <;> rfl
@[simp] theorem setFaultRing_out (m : Mach) (d : Nat) (x : FaultRing) : (setFaultRing m d x).out = m.out :=
  by unfold setFaultRing; split <;> rfl
@[simp] theorem setFaultRing_due (m : Mach) (d : Nat) (x : FaultRing) : (setFaultRing m d x).due = m.due :=
  by unfold setFaultRing; split <;> rfl
@[simp] theorem setFaultRing_free (m : Mach) (d : Nat) (x : FaultRing) : (setFaultRing m d x).free = m.free :=
  by unfold setFaultRing; split <;> rfl

/-! `raiseFault` writes `faults` alone. -/

@[simp] theorem raiseFault_cores (m : Mach) (d : Nat) (r : FaultRec) : (raiseFault m d r).cores = m.cores := setFaultRing_cores _ _ _
@[simp] theorem raiseFault_hbm (m : Mach) (d : Nat) (r : FaultRec) : (raiseFault m d r).hbm = m.hbm := setFaultRing_hbm _ _ _
@[simp] theorem raiseFault_signals (m : Mach) (d : Nat) (r : FaultRec) : (raiseFault m d r).signals = m.signals :=
  setFaultRing_signals _ _ _
@[simp] theorem raiseFault_signalsLost (m : Mach) (d : Nat) (r : FaultRec) : (raiseFault m d r).signalsLost = m.signalsLost :=
  setFaultRing_signalsLost _ _ _
@[simp] theorem raiseFault_tables (m : Mach) (d : Nat) (r : FaultRec) : (raiseFault m d r).tables = m.tables := setFaultRing_tables _ _ _
@[simp] theorem raiseFault_fabric (m : Mach) (d : Nat) (r : FaultRec) : (raiseFault m d r).fabric = m.fabric := setFaultRing_fabric _ _ _
@[simp] theorem raiseFault_host (m : Mach) (d : Nat) (r : FaultRec) : (raiseFault m d r).host = m.host := setFaultRing_host _ _ _
@[simp] theorem raiseFault_mgmt (m : Mach) (d : Nat) (r : FaultRec) : (raiseFault m d r).mgmt = m.mgmt := setFaultRing_mgmt _ _ _
@[simp] theorem raiseFault_power (m : Mach) (d : Nat) (r : FaultRec) : (raiseFault m d r).power = m.power := setFaultRing_power _ _ _
@[simp] theorem raiseFault_fences (m : Mach) (d : Nat) (r : FaultRec) : (raiseFault m d r).fences = m.fences := setFaultRing_fences _ _ _
@[simp] theorem raiseFault_out (m : Mach) (d : Nat) (r : FaultRec) : (raiseFault m d r).out = m.out := setFaultRing_out _ _ _
@[simp] theorem raiseFault_due (m : Mach) (d : Nat) (r : FaultRec) : (raiseFault m d r).due = m.due := setFaultRing_due _ _ _
@[simp] theorem raiseFault_free (m : Mach) (d : Nat) (r : FaultRec) : (raiseFault m d r).free = m.free := setFaultRing_free _ _ _

/-! `setDieTables` writes `tables` alone. -/

@[simp] theorem setDieTables_cores (m : Mach) (d : Nat) (x : DieTables) : (setDieTables m d x).cores = m.cores :=
  by unfold setDieTables; split <;> rfl
@[simp] theorem setDieTables_hbm (m : Mach) (d : Nat) (x : DieTables) : (setDieTables m d x).hbm = m.hbm :=
  by unfold setDieTables; split <;> rfl
@[simp] theorem setDieTables_faults (m : Mach) (d : Nat) (x : DieTables) : (setDieTables m d x).faults = m.faults :=
  by unfold setDieTables; split <;> rfl
@[simp] theorem setDieTables_signals (m : Mach) (d : Nat) (x : DieTables) : (setDieTables m d x).signals = m.signals :=
  by unfold setDieTables; split <;> rfl
@[simp] theorem setDieTables_signalsLost (m : Mach) (d : Nat) (x : DieTables) : (setDieTables m d x).signalsLost = m.signalsLost :=
  by unfold setDieTables; split <;> rfl
@[simp] theorem setDieTables_fabric (m : Mach) (d : Nat) (x : DieTables) : (setDieTables m d x).fabric = m.fabric :=
  by unfold setDieTables; split <;> rfl
@[simp] theorem setDieTables_host (m : Mach) (d : Nat) (x : DieTables) : (setDieTables m d x).host = m.host :=
  by unfold setDieTables; split <;> rfl
@[simp] theorem setDieTables_mgmt (m : Mach) (d : Nat) (x : DieTables) : (setDieTables m d x).mgmt = m.mgmt :=
  by unfold setDieTables; split <;> rfl
@[simp] theorem setDieTables_power (m : Mach) (d : Nat) (x : DieTables) : (setDieTables m d x).power = m.power :=
  by unfold setDieTables; split <;> rfl
@[simp] theorem setDieTables_fences (m : Mach) (d : Nat) (x : DieTables) : (setDieTables m d x).fences = m.fences :=
  by unfold setDieTables; split <;> rfl
@[simp] theorem setDieTables_out (m : Mach) (d : Nat) (x : DieTables) : (setDieTables m d x).out = m.out :=
  by unfold setDieTables; split <;> rfl
@[simp] theorem setDieTables_due (m : Mach) (d : Nat) (x : DieTables) : (setDieTables m d x).due = m.due :=
  by unfold setDieTables; split <;> rfl
@[simp] theorem setDieTables_free (m : Mach) (d : Nat) (x : DieTables) : (setDieTables m d x).free = m.free :=
  by unfold setDieTables; split <;> rfl

/-! `pushRead` writes `out` alone. -/

@[simp] theorem pushRead_cores (m : Mach) (bytes : List Byte) (poison : Bool) : (pushRead m bytes poison).cores = m.cores := rfl
@[simp] theorem pushRead_hbm (m : Mach) (bytes : List Byte) (poison : Bool) : (pushRead m bytes poison).hbm = m.hbm := rfl
@[simp] theorem pushRead_faults (m : Mach) (bytes : List Byte) (poison : Bool) : (pushRead m bytes poison).faults = m.faults := rfl
@[simp] theorem pushRead_signals (m : Mach) (bytes : List Byte) (poison : Bool) : (pushRead m bytes poison).signals = m.signals := rfl
@[simp] theorem pushRead_signalsLost (m : Mach) (bytes : List Byte) (poison : Bool) : (pushRead m bytes poison).signalsLost = m.signalsLost :=
  rfl
@[simp] theorem pushRead_tables (m : Mach) (bytes : List Byte) (poison : Bool) : (pushRead m bytes poison).tables = m.tables := rfl
@[simp] theorem pushRead_fabric (m : Mach) (bytes : List Byte) (poison : Bool) : (pushRead m bytes poison).fabric = m.fabric := rfl
@[simp] theorem pushRead_host (m : Mach) (bytes : List Byte) (poison : Bool) : (pushRead m bytes poison).host = m.host := rfl
@[simp] theorem pushRead_mgmt (m : Mach) (bytes : List Byte) (poison : Bool) : (pushRead m bytes poison).mgmt = m.mgmt := rfl
@[simp] theorem pushRead_power (m : Mach) (bytes : List Byte) (poison : Bool) : (pushRead m bytes poison).power = m.power := rfl
@[simp] theorem pushRead_fences (m : Mach) (bytes : List Byte) (poison : Bool) : (pushRead m bytes poison).fences = m.fences := rfl
@[simp] theorem pushRead_due (m : Mach) (bytes : List Byte) (poison : Bool) : (pushRead m bytes poison).due = m.due := rfl
@[simp] theorem pushRead_free (m : Mach) (bytes : List Byte) (poison : Bool) : (pushRead m bytes poison).free = m.free := rfl

/-! `pushMsix` writes `out` alone. -/

@[simp] theorem pushMsix_cores (m : Mach) (ep v : Nat) : (pushMsix m ep v).cores = m.cores := rfl
@[simp] theorem pushMsix_hbm (m : Mach) (ep v : Nat) : (pushMsix m ep v).hbm = m.hbm := rfl
@[simp] theorem pushMsix_faults (m : Mach) (ep v : Nat) : (pushMsix m ep v).faults = m.faults := rfl
@[simp] theorem pushMsix_signals (m : Mach) (ep v : Nat) : (pushMsix m ep v).signals = m.signals := rfl
@[simp] theorem pushMsix_signalsLost (m : Mach) (ep v : Nat) : (pushMsix m ep v).signalsLost = m.signalsLost := rfl
@[simp] theorem pushMsix_tables (m : Mach) (ep v : Nat) : (pushMsix m ep v).tables = m.tables := rfl
@[simp] theorem pushMsix_fabric (m : Mach) (ep v : Nat) : (pushMsix m ep v).fabric = m.fabric := rfl
@[simp] theorem pushMsix_host (m : Mach) (ep v : Nat) : (pushMsix m ep v).host = m.host := rfl
@[simp] theorem pushMsix_mgmt (m : Mach) (ep v : Nat) : (pushMsix m ep v).mgmt = m.mgmt := rfl
@[simp] theorem pushMsix_power (m : Mach) (ep v : Nat) : (pushMsix m ep v).power = m.power := rfl
@[simp] theorem pushMsix_fences (m : Mach) (ep v : Nat) : (pushMsix m ep v).fences = m.fences := rfl
@[simp] theorem pushMsix_due (m : Mach) (ep v : Nat) : (pushMsix m ep v).due = m.due := rfl
@[simp] theorem pushMsix_free (m : Mach) (ep v : Nat) : (pushMsix m ep v).free = m.free := rfl

/-! `freeStep` writes `free` alone. -/

@[simp] theorem freeStep_cores (m : Mach) : (freeStep m).cores = m.cores := rfl
@[simp] theorem freeStep_hbm (m : Mach) : (freeStep m).hbm = m.hbm := rfl
@[simp] theorem freeStep_faults (m : Mach) : (freeStep m).faults = m.faults := rfl
@[simp] theorem freeStep_signals (m : Mach) : (freeStep m).signals = m.signals := rfl
@[simp] theorem freeStep_signalsLost (m : Mach) : (freeStep m).signalsLost = m.signalsLost := rfl
@[simp] theorem freeStep_tables (m : Mach) : (freeStep m).tables = m.tables := rfl
@[simp] theorem freeStep_fabric (m : Mach) : (freeStep m).fabric = m.fabric := rfl
@[simp] theorem freeStep_host (m : Mach) : (freeStep m).host = m.host := rfl
@[simp] theorem freeStep_mgmt (m : Mach) : (freeStep m).mgmt = m.mgmt := rfl
@[simp] theorem freeStep_power (m : Mach) : (freeStep m).power = m.power := rfl
@[simp] theorem freeStep_fences (m : Mach) : (freeStep m).fences = m.fences := rfl
@[simp] theorem freeStep_out (m : Mach) : (freeStep m).out = m.out := rfl
@[simp] theorem freeStep_due (m : Mach) : (freeStep m).due = m.due := rfl

end Sys2Proof.Machine
end

