-- ==== Sys2Proof/Laws/Clamps.lean ====
section
/-! SUPPORT. What a waiter check and an arriving signal leave alone. -/

namespace Sys2Proof.Machine

/-- What lies outside the cores. -/
def sameBesidesCores (m n : Mach) : Prop := { n with cores := m.cores } = m

theorem sameBesidesCores_refl (m : Mach) : sameBesidesCores m m := rfl

theorem sameBesidesCores_trans {a b c : Mach} (h1 : sameBesidesCores a b) (h2 : sameBesidesCores b c) : sameBesidesCores a c := by
  unfold sameBesidesCores at *
  rw [← h1, ← h2]

theorem sameBesidesCores_modCtx (m : Mach) (c k : Nat) (f : Ctx → Ctx) : sameBesidesCores m (m.modCtx c k f) := rfl

theorem sameBesidesCores_setState (e : Env) (m : Mach) (c k : Nat) (st : CState) (cause : Cause) (d : Nat) :
    sameBesidesCores m (setState e m c k st cause d) := rfl

theorem sameBesidesCores_wakeCtx (e : Env) (m : Mach) (c k : Nat) : sameBesidesCores m (wakeCtx e m c k) := by
  unfold wakeCtx
  simp only []
  split
  · rfl
  · split <;> rfl

theorem sameBesidesCores_endClampWait (e : Env) (c : Nat) : ∀ (ws : List Waiter) (m : Mach), sameBesidesCores m (endClampWait e c ws m)
  | [], m => sameBesidesCores_refl m
  | w :: ws, m => by
    unfold endClampWait
    exact sameBesidesCores_trans (sameBesidesCores_trans (sameBesidesCores_modCtx m c w.ctx _) (sameBesidesCores_wakeCtx e _ c w.ctx))
      (sameBesidesCores_endClampWait e c ws _)

theorem sameBesidesCores_checkWaiters (e : Env) (m : Mach) (c i : Nat) : sameBesidesCores m (checkWaiters e m c i) := by
  unfold checkWaiters
  exact sameBesidesCores_trans (b := m.modClamp c i _) rfl (sameBesidesCores_endClampWait e c _ _)

/-- A waiter check changes cores only. -/
theorem checkWaiters_fabric (e : Env) (m : Mach) (c i : Nat) : (checkWaiters e m c i).fabric = m.fabric := by
  have h := congrArg Mach.fabric (show { checkWaiters e m c i with cores := m.cores } = m from sameBesidesCores_checkWaiters e m c i)
  exact h

end Sys2Proof.Machine
end

