-- ==== Sys2Proof/Laws/Dictionary.lean ====
section
/-! SUPPORT. Everything that a dictionary write can do. -/

namespace Sys2Proof.Machine

/-- A write that the gauge looks at and takes. -/
theorem dictWrite_ok {s : State} {via : Via} {idx sub : Nat} {wedge : Bool} {f : DictRun} {k : Strokes} {m : Mach}
    (h : writeReaches s via idx sub wedge = true) (hf : f s.variant s.strokes s.mach = (0, k, m)) :
    dictWrite via idx sub wedge f s.variant s.strokes s.mach = (k, dictResult via idx sub 0 m) := by
  unfold writeReaches writeHeard at h
  rw [Bool.and_eq_true] at h
  have hb : writeBarred s.mach (viaGauge via) idx sub wedge = none := by simpa using h.1
  have h2 := h.2
  cases via with
  | window ep =>
    simp only [Bool.and_eq_true] at h2
    simp [dictWrite, hb, hf, h2]
  | can g txn =>
    simp only [Bool.and_eq_true, Bool.not_eq_true'] at h2
    simp only [viaGauge] at hb
    simp [dictWrite, viaGauge, hb, hf, h2]

/-- A write that the gauge looks at and refuses. -/
theorem dictWrite_refused {s : State} {via : Via} {idx sub code : Nat} {wedge : Bool} {f : DictRun}
    (h : writeReaches s via idx sub wedge = true) (hf : (f s.variant s.strokes s.mach).1 = code) (hc : code ≠ 0) :
    dictWrite via idx sub wedge f s.variant s.strokes s.mach =
      (s.strokes, dictResult via idx sub code (if code = rHoldupLow then countHoldupLow s.mach else s.mach)) := by
  unfold writeReaches writeHeard at h
  rw [Bool.and_eq_true] at h
  have hb : writeBarred s.mach (viaGauge via) idx sub wedge = none := by simpa using h.1
  have h2 := h.2
  cases via with
  | window ep =>
    simp only [Bool.and_eq_true] at h2
    simp [dictWrite, hb, hf, hc, h2]
  | can g txn =>
    simp only [Bool.and_eq_true, Bool.not_eq_true'] at h2
    simp only [viaGauge] at hb
    simp [dictWrite, viaGauge, hb, hf, hc, h2]

/-- The same for a write that leaves the stroke clock alone. -/
theorem dictM_ok {s : State} {via : Via} {idx sub : Nat} {wedge : Bool} {f : Env → Mach → Nat × Mach} {m : Mach}
    (h : writeReaches s via idx sub wedge = true) (hf : f s.env s.mach = (0, m)) :
    dictM via idx sub wedge f s.env s.mach = dictResult via idx sub 0 m := by
  have : onMach f s.variant s.strokes s.mach = (0, s.strokes, m) := by
    have hf' : f { v := s.variant, k := s.strokes } s.mach = (0, m) := hf
    simp [onMach, hf']
  simp [dictM, State.env, dictWrite_ok h this]

theorem dictM_refused {s : State} {via : Via} {idx sub code : Nat} {wedge : Bool} {f : Env → Mach → Nat × Mach}
    (h : writeReaches s via idx sub wedge = true) (hf : (f s.env s.mach).1 = code) (hc : code ≠ 0) :
    dictM via idx sub wedge f s.env s.mach =
      dictResult via idx sub code (if code = rHoldupLow then countHoldupLow s.mach else s.mach) := by
  have : (onMach f s.variant s.strokes s.mach).1 = code := hf
  simp [dictM, State.env, dictWrite_refused h this hc]

/-- A refused dictionary write of any kind leaves the stroke clock alone. -/
theorem dictWrite_barred {s : State} {via : Via} {idx sub code : Nat} {wedge : Bool} (f : DictRun)
    (h : writeBarred s.mach (viaGauge via) idx sub wedge = some code) :
    (dictWrite via idx sub wedge f s.variant s.strokes s.mach).1 = s.strokes := by
  cases via with
  | window ep => simp only [viaGauge] at h; simp only [dictWrite, viaGauge, h]; split <;> (try split) <;> rfl
  | can g txn => simp only [viaGauge] at h; simp only [dictWrite, viaGauge, h]; split <;> (try split) <;> rfl

end Sys2Proof.Machine
end

