-- ==== Sys2Proof/Laws/Engines.lean ====
section
/-! SUPPORT. The runs of the Chisel and of the merge commands: on a tray whose words are all readable each step goes on and comes nearer
to the end of its command, so a run of 2^64 steps ends it. -/

namespace Sys2Proof.Machine

/-- R356: no word of the tray holds an uncorrectable error. -/
def readable (m : Mach) (c : Nat) : Bool := (m.core c).trayErr.all (fun p => decide (p.2 < 2))

theorem fld_lt (w : Word) (hi lo : Nat) : fld w hi lo < 2 ^ (hi + 1 - lo) := Nat.mod_lt _ (Nat.two_pow_pos _)

/-! ### What keeps the words readable -/

theorem trayBad_readable {m : Mach} {c : Nat} (h : readable m c = true) (rs : List (Nat × Nat)) : trayBad m c rs = none := by
  unfold trayBad
  rw [Option.map_eq_none_iff, List.find?_eq_none]
  intro p hp
  have := List.all_eq_true.mp h p hp
  simp only [decide_eq_true_eq] at this
  simp only [Bool.and_eq_true, decide_eq_true_eq, not_and]
  omega

theorem readable_modCore {m : Mach} {c : Nat} (f : Core → Core) (h : readable m c = true)
    (hf : ∀ p ∈ (f (m.core c)).trayErr, p ∈ (m.core c).trayErr) : readable (m.modCore c f) c = true := by
  unfold readable
  rw [core_modCore, List.all_eq_true]
  exact fun p hp => List.all_eq_true.mp h p (hf p hp)

theorem readable_trayWrite {m : Mach} {c : Nat} (a : Nat) (d : List Byte) (h : readable m c = true) :
    readable (trayWrite m c a d) c = true :=
  readable_modCore _ h (fun _ hp => List.mem_of_mem_filter hp)

theorem readable_trayCount {m : Mach} {c : Nat} (rs : List (Nat × Nat)) (h : readable m c = true) :
    readable (trayCount m c rs) c = true := h

theorem readable_countLookup {m : Mach} {c : Nat} (t : Nat) (a b d : Bool) (h : readable m c = true) :
    readable (countLookup m c t a b d) c = true := readable_modCore _ h (fun _ hp => hp)

theorem readable_setMerge {m : Mach} {c : Nat} (s : Option MergeSession) (h : readable m c = true) :
    readable (setMerge m c s) c = true := readable_modCore _ h (fun _ hp => hp)

theorem readable_putConv {m : Mach} {c : Nat} (t a : Nat) (xs : List Conv) (x : EngCmd) (h : readable m c = true) :
    readable (putConv m c t a xs x).1 c = true := readable_trayWrite _ _ h

/-! ### The Chisel -/

/-- What a chunk leaves of a row's phases. -/
def phasesLeft (x : EngCmd) : Nat := if x.stop = 0 then 2 else if x.stop = 2 then 0 else 1

/-- What is left of a vector command: rows, then phases, then chunks of 256 elements of a row of at most 2^24. -/
def vecLeft (x : EngCmd) : Nat :=
  (vcRows x.w - x.item) * 2 ^ 20 + phasesLeft x * 2 ^ 17 + (2 ^ 16 - x.pos)

/-- One step nearer the end of the same command. -/
def vecNearer (c : Nat) (x : EngCmd) (r : Mach × EngCmd × VecStop) : Prop :=
  r.2.2 = .go ∧ r.2.1.ctx = x.ctx ∧ r.2.1.w = x.w ∧ readable r.1 c = true ∧ vecLeft r.2.1 < vecLeft x ∧
    (r.2.1.item = x.item + 1 ∨ (r.2.1.item = x.item ∧ (r.2.1.stop ≠ 0 ∨ r.2.1.pos ≠ 0)))

theorem pos_of_not_last {x : EngCmd} (h : lastChunk x.w (chunkAt x.w x.item x.pos) = false) : x.pos + 1 < 2 ^ 16 := by
  have h1 : vcCount x.w < 2 ^ 24 := fld_lt x.w 179 156
  have h2 : ¬ vcCount x.w ≤ 256 * x.pos + 256 := of_decide_eq_false h
  omega

theorem phasesLeft_le (x : EngCmd) : phasesLeft x ≤ 2 := by
  unfold phasesLeft
  split
  · omega
  · split <;> omega

theorem nearer_nextRow {c : Nat} {m : Mach} {x y : EngCmd} (hr : x.item < vcRows x.w) (hm : readable m c = true)
    (hc : y.ctx = x.ctx) (hw : y.w = x.w) (hi : y.item = x.item) : vecNearer c x (m, y.nextRow, .go) := by
  refine ⟨rfl, hc, hw, hm, ?_, .inl (congrArg (· + 1) hi)⟩
  have e : vecLeft y.nextRow = (vcRows x.w - (x.item + 1)) * 2 ^ 20 + 2 * 2 ^ 17 + (2 ^ 16 - 0) := by
    rw [← hw, ← hi]; rfl
  rw [e, vecLeft]
  omega

theorem nearer_pos {c : Nat} {m : Mach} {x y : EngCmd} (hl : lastChunk x.w (chunkAt x.w x.item x.pos) = false)
    (hm : readable m c = true) (hc : y.ctx = x.ctx) (hw : y.w = x.w) (hi : y.item = x.item) (hs : y.stop = x.stop)
    (hp : y.pos = x.pos + 1) : vecNearer c x (m, y, .go) := by
  refine ⟨rfl, hc, hw, hm, ?_, .inr ⟨hi, .inr (by show y.pos ≠ 0; omega)⟩⟩
  have := pos_of_not_last hl
  simp only [vecLeft, phasesLeft, hw, hi, hs, hp]
  omega

theorem phasesLeft_atPhase {x : EngCmd} {s n : Nat} (h0 : s ≠ 0) (h : x.stop = 0 ∨ (x.stop ≠ 2 ∧ s = 2)) :
    phasesLeft (x.atPhase s n) < phasesLeft x := by
  show (if s = 0 then 2 else if s = 2 then 0 else 1) < (if x.stop = 0 then 2 else if x.stop = 2 then 0 else 1)
  rw [if_neg h0]
  rcases h with h | ⟨h, rfl⟩
  · rw [if_pos h]; split <;> decide
  · rw [if_neg h, if_pos rfl]; split <;> decide

theorem nearer_phase {c : Nat} {m : Mach} {x : EngCmd} {s n : Nat} (hm : readable m c = true) (h0 : s ≠ 0)
    (h : x.stop = 0 ∨ (x.stop ≠ 2 ∧ s = 2)) : vecNearer c x (m, x.atPhase s n, .go) := by
  refine ⟨rfl, rfl, rfl, hm, ?_, .inr ⟨rfl, .inl h0⟩⟩
  have e : vecLeft (x.atPhase s n) = (vcRows x.w - x.item) * 2 ^ 20 + phasesLeft (x.atPhase s n) * 2 ^ 17 + (2 ^ 16 - 0) := rfl
  have := phasesLeft_atPhase (n := n) h0 h
  rw [e, vecLeft]
  omega

theorem nearer_putChunk {c : Nat} {m : Mach} {x : EngCmd} (t : Nat) (xs : List Conv) (hr : x.item < vcRows x.w)
    (hm : readable m c = true) : vecNearer c x (putChunk m c x (chunkAt x.w x.item x.pos) t xs) := by
  unfold putChunk
  simp only
  cases hl : lastChunk x.w (chunkAt x.w x.item x.pos)
  · exact nearer_pos hl (readable_putConv _ _ _ _ hm) rfl rfl rfl rfl rfl
  · exact nearer_nextRow hr (readable_putConv _ _ _ _ hm) rfl rfl rfl

theorem nearer_reduce {c : Nat} {m : Mach} {x : EngCmd} (hr : x.item < vcRows x.w) (hm : readable m c = true) :
    vecNearer c x (reduceChunk m c x (chunkAt x.w x.item x.pos)) := by
  unfold reduceChunk
  simp only
  cases hl : lastChunk x.w (chunkAt x.w x.item x.pos)
  · exact nearer_pos hl hm rfl rfl rfl rfl rfl
  · exact nearer_nextRow hr (readable_putConv _ _ _ _ hm) rfl rfl rfl

theorem nearer_norm {c : Nat} {m : Mach} {x : EngCmd} (hr : x.item < vcRows x.w) (hm : readable m c = true) :
    vecNearer c x (normChunk m c x (chunkAt x.w x.item x.pos)) := by
  unfold normChunk
  simp only
  by_cases h0 : vcCount x.w = 0
  · rw [if_pos h0]; exact nearer_nextRow hr hm rfl rfl rfl
  · rw [if_neg h0]
    by_cases h2 : normWrites x = true
    · rw [if_pos h2]; exact nearer_putChunk _ _ hr hm
    · rw [if_neg h2]
      have h2' : x.stop ≠ 2 := by simpa [normWrites] using h2
      cases hl : lastChunk x.w (chunkAt x.w x.item x.pos)
      · exact nearer_pos hl hm rfl rfl rfl rfl rfl
      · simp only [Bool.not_true, Bool.false_eq_true, if_false]
        split
        · rename_i h
          refine nearer_phase hm (by decide) (.inl ?_)
          by_contra hs
          simp [hs] at h
        · exact nearer_phase hm (by decide) (.inr ⟨h2', rfl⟩)

/-- The state record of the row admits `SMAX_BLOCK` (R154). -/
def smaxFits (m : Mach) (c : Nat) (x : EngCmd) : Prop :=
  trayNat m c (stateAt x.w x.item + 8) 4 = vcPos x.w ∧ trayNat m c (stateAt x.w x.item + 12) 4 ≤ 4194304

theorem nearer_smax {c : Nat} {m : Mach} {x : EngCmd} (hr : x.item < vcRows x.w) (hm : readable m c = true)
    (hs : x.stop ≠ 0 ∨ x.pos ≠ 0 ∨ smaxFits m c x) :
    vecNearer c x (smaxChunk m c x (chunkAt x.w x.item x.pos)) := by
  unfold smaxChunk
  simp only
  rw [if_neg]
  · by_cases h0 : x.stop = 0
    · rw [if_pos h0]
      cases hl : lastChunk x.w (chunkAt x.w x.item x.pos)
      · exact nearer_pos hl hm rfl rfl rfl rfl rfl
      · exact nearer_phase hm (by decide) (.inl h0)
    · rw [if_neg h0]
      cases hl : lastChunk x.w (chunkAt x.w x.item x.pos)
      · exact nearer_pos hl (readable_putConv _ _ _ _ hm) rfl rfl rfl rfl rfl
      · exact nearer_nextRow hr (readable_trayWrite _ _ (readable_putConv _ _ _ _ hm)) rfl rfl rfl
  · rintro ⟨h0, hlo, hb⟩
    have hp : x.pos = 0 := by simpa [chunkAt] using hlo
    rcases hs with h | h | ⟨h8, h12⟩
    · exact h h0
    · exact h hp
    · rcases hb with hb | hb
      · exact hb h8
      · exact absurd h12 (by simpa [chunkAt] using hb)

/-- A step of a vector command that has rows left comes nearer its end. -/
theorem vecStep_nearer {c : Nat} {m : Mach} {x : EngCmd} (hm : readable m c = true) (hr : x.item < vcRows x.w)
    (hs : vcOpcode x.w = 0x23 → x.stop ≠ 0 ∨ x.pos ≠ 0 ∨ smaxFits m c x) : vecNearer c x (vecStep m c x) := by
  unfold vecStep
  simp only
  rw [if_neg (by omega), trayBad_readable hm]
  simp only
  split
  · exact nearer_reduce hr (readable_trayCount _ hm)
  · split
    · exact nearer_norm hr (readable_trayCount _ hm)
    · split
      · exact nearer_smax hr (readable_trayCount _ hm) (hs ‹_›)
      · exact nearer_putChunk _ _ hr (readable_trayCount _ hm)

/-- A vector command on a readable tray ends: `SMAX_BLOCK` when its state record admits it, here in its last row. -/
theorem vecRun_done (c n : Nat) : ∀ (m : Mach) (x : EngCmd), readable m c = true → vecLeft x < n →
    (vcOpcode x.w ≠ 0x23 ∨ vcRows x.w ≤ x.item ∨
      (vcRows x.w = x.item + 1 ∧ (x.stop ≠ 0 ∨ x.pos ≠ 0 ∨ smaxFits m c x))) →
    ∃ m1 y, vecRun c n m x = (m1, y, .done) ∧ y.ctx = x.ctx ∧ y.w = x.w ∧ vcRows x.w ≤ y.item := by
  induction n with
  | zero => exact fun _ _ _ h => absurd h (Nat.not_lt_zero _)
  | succ n ih =>
    intro m x hm hn hs
    by_cases hr : vcRows x.w ≤ x.item
    · refine ⟨m, x, ?_, rfl, rfl, hr⟩
      have : vecStep m c x = (m, x, .done) := by unfold vecStep; simp only; rw [if_pos hr]
      rw [vecRun, this]
    · have hr' : x.item < vcRows x.w := by omega
      have key := vecStep_nearer hm hr' (fun h => (hs.resolve_left (fun g => g h)).resolve_left hr |>.2)
      rcases hv : vecStep m c x with ⟨m1, y, g⟩
      rw [hv] at key
      obtain ⟨hg, hc, hw, hm1, hl, hi⟩ := key
      simp only at hg hc hw hm1 hl hi
      subst hg
      have next : vcOpcode y.w ≠ 0x23 ∨ vcRows y.w ≤ y.item ∨
          (vcRows y.w = y.item + 1 ∧ (y.stop ≠ 0 ∨ y.pos ≠ 0 ∨ smaxFits m1 c y)) := by
        rw [hw]
        rcases hs with hs | hs | hs
        · exact .inl hs
        · exact absurd hs hr
        · rcases hi with hi | ⟨hi, hi2⟩
          · exact .inr (.inl (by omega))
          · exact .inr (.inr ⟨by omega, hi2.imp id .inl⟩)
      obtain ⟨m2, z, hz, hzc, hzw, hzi⟩ := ih m1 y hm1 (by omega) next
      refine ⟨m2, z, ?_, hzc.trans hc, hzw.trans hw, by rw [← hw]; exact hzi⟩
      rw [vecRun, hv]
      exact hz

theorem vecLeft_lt (x : EngCmd) : vecLeft x < 2 ^ 64 := by
  have h1 : vcRows x.w < 2 ^ 16 := fld_lt x.w 195 180
  have h2 := phasesLeft_le x
  unfold vecLeft
  omega

/-! ### The merge commands -/

/-- A step of a merge command that has rows left takes the next one. -/
theorem mergeStep_go {m : Mach} {c : Nat} {x : EngCmd} (hm : readable m c = true) (h : x.item < mgIndices x.w) :
    ∃ m1 y, mergeStep m c x = (m1, y, .go) ∧ readable m1 c = true ∧ y.ctx = x.ctx ∧ y.w = x.w ∧ y.item = x.item + 1 := by
  unfold mergeStep
  simp only
  rw [if_neg (by omega), trayBad_readable hm]
  simp only
  have h1 := readable_countLookup (gtTable x.w) true
    (isSentinel (gtIdxBytes x.w) (trayNat (trayCount m c [(mgIdx x.w + x.item * gtIdxBytes x.w, gtIdxBytes x.w),
      (mgRow x.w + x.item * mgStride x.w, gradBytes x.w x.desc)]) c (mgIdx x.w + x.item * gtIdxBytes x.w) (gtIdxBytes x.w)) ||
      decide (dRowCount x.desc ≤ trayNat (trayCount m c [(mgIdx x.w + x.item * gtIdxBytes x.w, gtIdxBytes x.w),
      (mgRow x.w + x.item * mgStride x.w, gradBytes x.w x.desc)]) c (mgIdx x.w + x.item * gtIdxBytes x.w) (gtIdxBytes x.w)))
    false (readable_trayCount [(mgIdx x.w + x.item * gtIdxBytes x.w, gtIdxBytes x.w),
      (mgRow x.w + x.item * mgStride x.w, gradBytes x.w x.desc)] hm)
  split
  · exact ⟨_, _, rfl, readable_setMerge _ h1, rfl, rfl, rfl⟩
  · split
    · rw [trayBad_readable h1]
      exact ⟨_, _, rfl, readable_setMerge _ (readable_trayWrite _ _ h1), rfl, rfl, rfl⟩
    · split
      · exact ⟨_, _, rfl, readable_setMerge _ (readable_trayWrite _ _ h1), rfl, rfl, rfl⟩
      · exact ⟨_, _, rfl, readable_setMerge _ (readable_trayWrite _ _ h1), rfl, rfl, rfl⟩

theorem gatStep_merge {e : Env} {m : Mach} {c : Nat} {x : EngCmd} (h : fld x.w 7 0 = 0x33) : gatStep e m c x = mergeStep m c x := by
  simp [gatStep, h]

theorem gatStep_flush {e : Env} {m : Mach} {c : Nat} {x : EngCmd} (h : fld x.w 7 0 = 0x34) : gatStep e m c x = flushStep m c x := by
  simp [gatStep, h]

theorem mergeRun_done (e : Env) (c n : Nat) : ∀ (m : Mach) (x : EngCmd), fld x.w 7 0 = 0x33 → readable m c = true →
    mgIndices x.w - x.item < n →
    ∃ m1 y, gatRun e c n m x = (m1, y, .done) ∧ y.ctx = x.ctx ∧ y.w = x.w ∧ mgIndices x.w ≤ y.item := by
  induction n with
  | zero => exact fun _ _ _ _ h => absurd h (Nat.not_lt_zero _)
  | succ n ih =>
    intro m x ho hm hn
    by_cases hi : mgIndices x.w ≤ x.item
    · refine ⟨setMerge m c (some (sessionFor m c x)), x, ?_, rfl, rfl, hi⟩
      have : gatStep e m c x = (setMerge m c (some (sessionFor m c x)), x, .done) := by
        rw [gatStep_merge ho, mergeStep]; simp only; rw [if_pos hi]
      rw [gatRun, this]
    · obtain ⟨m1, y, hs, hm1, hc, hw, hy⟩ := mergeStep_go hm (show x.item < mgIndices x.w by omega)
      obtain ⟨m2, z, hz, hzc, hzw, hzi⟩ := ih m1 y (by rw [hw]; exact ho) hm1 (by rw [hw, hy]; omega)
      refine ⟨m2, z, ?_, hzc.trans hc, hzw.trans hw, by rw [← hw]; exact hzi⟩
      rw [gatRun, gatStep_merge ho, hs]
      exact hz

/-- The tags of the session in the merge table. -/
def mergeTags (m : Mach) (c : Nat) : List Nat := (((m.core c).merge).map (fun s => s.tags)).getD []

theorem flushStep_go {m : Mach} {c : Nat} {x : EngCmd} {t : Nat} (hm : readable m c = true) (ht : (mergeTags m c)[x.item]? = some t) :
    ∃ m1, flushStep m c x = (m1, { x with item := x.item + 1 }, .go) ∧ readable m1 c = true ∧ mergeTags m1 c = mergeTags m c := by
  rw [mergeTags] at ht
  simp only [flushStep, ht, trayBad_readable hm]
  exact ⟨_, rfl, readable_trayWrite _ _ (readable_trayWrite _ _ hm), by simp [mergeTags, trayWrite]⟩

theorem flushRun_done (e : Env) (c n : Nat) : ∀ (m : Mach) (x : EngCmd), fld x.w 7 0 = 0x34 → readable m c = true →
    (mergeTags m c).length - x.item < n →
    ∃ m1 y, gatRun e c n m x = (m1, y, .done) ∧ y.ctx = x.ctx ∧ y.w = x.w ∧ (m1.core c).merge = none := by
  induction n with
  | zero => exact fun _ _ _ _ h => absurd h (Nat.not_lt_zero _)
  | succ n ih =>
    intro m x ho hm hn
    cases ht : (mergeTags m c)[x.item]? with
    | none =>
      refine ⟨setMerge m c none, { x with pos := (mergeTags m c).length }, ?_, rfl, rfl, by simp [setMerge]⟩
      have : flushStep m c x = (setMerge m c none, { x with pos := (mergeTags m c).length }, .done) := by
        rw [mergeTags] at ht
        simp only [flushStep, ht]
        rfl
      rw [gatRun, gatStep_flush ho, this]
    | some t =>
      have hi : x.item < (mergeTags m c).length := by
        by_contra h
        rw [List.getElem?_eq_none (by omega)] at ht
        cases ht
      obtain ⟨m1, hs, hm1, hg⟩ := flushStep_go hm ht
      obtain ⟨m2, z, hz, hzc, hzw, hzi⟩ := ih m1 { x with item := x.item + 1 } ho hm1 (by rw [hg]; simp only; omega)
      refine ⟨m2, z, ?_, hzc, hzw, hzi⟩
      rw [gatRun, gatStep_flush ho, hs]
      exact hz

/-! ### The runs of a started command -/

/-- A vector command's run is that of its chunks. -/
theorem engRun_chisel {e : Env} {m m1 : Mach} {c n : Nat} {x y : EngCmd} (h : vecRun c n m x = (m1, y, .done)) :
    engRun e m c .chisel n x = (m1, y, .done) := by
  simp only [engRun, h]

/-- A command past its start reads no descriptor and no header (R203). -/
theorem engBegin_past {e : Env} {m : Mach} {c : Nat} {x : EngCmd} (h : engFresh x = false) : engBegin e m c x = (m, .go) := by
  simp [engBegin, h]

theorem engRun_marquetry {e : Env} {m : Mach} {c : Nat} {x : EngCmd} (h : engFresh x = false) :
    ∀ {n : Nat}, 0 < n → engRun e m c .marquetry n x = gatRun e c n m x
  | n + 1, _ => by simp only [engRun, engBegin_past h, if_true]

theorem engRun_scribe {e : Env} {m : Mach} {c : Nat} {x : EngCmd} (h : engFresh x = false) :
    ∀ {n : Nat}, 0 < n → engRun e m c .scribe n x = scrRun e c n m x
  | n + 1, _ => by simp only [engRun, engBegin_past h, reduceCtorEq, if_false]

end Sys2Proof.Machine
end

