-- ==== Sys2Proof/Laws/Frames.lean ====
section
/-! SUPPORT. Everything that an arriving frame and a link that leaves UP can do. -/

namespace Sys2Proof.Machine

/-- A frame on a link that delivers none. -/
theorem routed_closed {n : Nat} {h : FrameHead} {p : Payload} {f : Env → Mach → Mach} {e : Env} {m : Mach}
    (hl : linkDelivers e m n = false) : routed n h p f e m = m := by simp [routed, hl]

/-- A frame for another device. -/
theorem routed_other {n : Nat} {h : FrameHead} {p : Payload} {f : Env → Mach → Mach} {e : Env} {m : Mach}
    (hl : linkDelivers e m n = true) (hd : h.dest ≠ m.fabric.deviceId) : routed n h p f e m = transit e m n h p := by
  simp [routed, hl, hd]

/-- A frame for this device. -/
theorem routed_mine {n : Nat} {h : FrameHead} {p : Payload} {f : Env → Mach → Mach} {e : Env} {m : Mach}
    (hl : linkDelivers e m n = true) (hd : h.dest = m.fabric.deviceId) : routed n h p f e m = f e m := by
  simp [routed, hl, hd]

/-- A link with an empty retry buffer leaves UP and no frame takes another route. -/
theorem leaveUp_empty (e : Env) (m : Mach) (n st : Nat) (h : (m.link n).retry = []) :
    leaveUp e m n st = m.modLink n (fun l => downLink l st) := by
  simp [leaveUp, h, reroute]

end Sys2Proof.Machine
end

