-- ==== Sys2Proof/Laws/HostPaths.lean ====
section
/-! SUPPORT. Host writes that reach their register, and what the fault rings and the completion rings hold after an update. -/

namespace Sys2Proof.Machine

/-! ### Register writes -/

theorem barWrite_open {s : State} {ep off d : Nat} {f : Env → Mach → Mach} (h : barOpen s ep d = true) :
    barWrite ep off d f s.env s.mach = f s.env s.mach := by
  simp only [barOpen, Bool.and_eq_true, decide_eq_true_eq, bne_iff_ne] at h
  obtain ⟨⟨⟨h1, h2⟩, h3⟩, h4⟩ := h
  unfold barWrite
  simp only []
  rw [if_neg (by simp [h1, h2]), if_neg (by omega), if_neg (by simp [h4])]

theorem coreWrite_open {s : State} {ep off c : Nat} {f : Env → Mach → Mach} (h : coreOpen s ep c = true) :
    coreWrite ep off c f s.env s.mach = f s.env s.mach := by
  simp only [coreOpen, Bool.and_eq_true, decide_eq_true_eq, Bool.not_eq_true'] at h
  obtain ⟨⟨⟨h1, h2⟩, h3⟩, h4⟩ := h
  have h3' : s.env.v.hasCore c = true := h3
  unfold coreWrite
  rw [if_neg (by omega), barWrite_open h2, if_neg (by simp [h3']), if_neg (by simp [h4])]

theorem ctxWrite_open {s : State} {ep c k reg : Nat} {f : Env → Mach → Mach} (h : coreOpen s ep c = true) (hk : k < 16) :
    ctxWrite ep c k reg f s.env s.mach = f s.env s.mach := by
  unfold ctxWrite
  rw [coreWrite_open h, if_pos hk]

theorem intakeWrite_open {s : State} {ep i reg : Nat} {f : Env → Mach → Mach} (h : barOpen s ep (ringDie s.mach ep i) = true)
    (h1 : 1 ≤ i) (h2 : i ≤ 1024) : intakeWrite ep i reg f s.env s.mach = f s.env s.mach := by
  unfold intakeWrite
  rw [barWrite_open h, if_pos ⟨h1, h2⟩]

theorem compWrite_open {s : State} {ep r reg : Nat} {f : Env → Mach → Mach} (h : barOpen s ep ep = true) (hr : r < 64) :
    compWrite ep r reg f s.env s.mach = f s.env s.mach := by
  unfold compWrite
  rw [barWrite_open h, if_pos hr]

/-- A write of an RW register while both gauges share one copy. -/
theorem rwWrite_shared {m : Mach} (g key v : Nat) (f : Mach → Mach) (h : apartRegs m = false) : rwWrite m g key v f = f m := by
  simp [rwWrite, h]

/-! ### Fault rings -/

@[simp] theorem faultRing_set (m : Mach) (g : Nat) (x : FaultRing) : faultRing (setFaultRing m g x) g = x := by
  unfold faultRing setFaultRing
  split <;> rfl
@[simp] theorem setFaultRing_set (m : Mach) (g : Nat) (x y : FaultRing) :
    setFaultRing (setFaultRing m g x) g y = setFaultRing m g y := by
  unfold setFaultRing
  split <;> rfl
@[simp] theorem setFaultRing_size (m : Mach) (g : Nat) (x : FaultRing) :
    (setFaultRing m g x).faults.sizeLog2 = m.faults.sizeLog2 := by
  unfold setFaultRing
  split <;> rfl

theorem ringWritable_set (m : Mach) (g : Nat) (x : FaultRing) (h1 : x.base = (faultRing m g).base)
    (h2 : x.head = (faultRing m g).head) (h3 : x.tail = (faultRing m g).tail) :
    ringWritable (setFaultRing m g x) g = ringWritable m g := by
  simp only [ringWritable, ringBase, ringHead, ringLog2, rwRead, apartRegs, setFaultRing_mgmt, faultRing_set, setFaultRing_size,
    endpoint, setFaultRing_host, h1, h2, h3]
  rfl

/-! ### Completion rings -/

@[simp] theorem compRing_setComp (m : Mach) (r : Nat) (x : CompRing) : (m.setComp r x).compRing r = x := by
  simp [Mach.compRing, Mach.setComp]

end Sys2Proof.Machine
end

