-- ==== Sys2Proof/Laws/Issue.lean ====
section
/-! SUPPORT. Everything that an issue of the sequencer can do, and that what follows a command does nothing where nothing waits. -/

namespace Sys2Proof.Machine

/-! ### What a meaning of one shape does -/

theorem does_liftM {i : Instr} {s : State} {f : Env → Mach → Mach} {m : Mach} (h : exec i s = liftM f s) (hm : f s.env s.mach = m) :
    Does i s m := by
  unfold Does
  rw [h, liftM, hm]

theorem does_liftK {i : Instr} {s : State} {f : Variant → Strokes → Mach → Strokes × Mach} {k : Strokes} {m : Mach}
    (h : exec i s = liftK f s) (hm : f s.variant s.strokes s.mach = (k, m)) : DoesK i s k m := by
  unfold DoesK
  rw [h, liftK, hm]

/-! ### Checks -/

/-- Of two lists of checks the second decides where the first finds nothing. -/
theorem firstBad_append (l r : List (Bool × Nat)) (h : firstBad l = none) : firstBad (l ++ r) = firstBad r := by
  revert h
  induction l with
  | nil => exact fun _ => rfl
  | cons q l ih =>
    rcases q with ⟨_ | _, c⟩
    · exact ih
    · exact fun h => nomatch h

/-! ### Nothing waits -/

theorem wakeAll_nil (e : Env) (c : Nat) (m : Mach) : wakeAll e c [] m = m := rfl

theorem calm_parts {x : Ctx} (h : x.calm = true) :
    ((x.state == .waiting || x.state == .saved) && (x.cause == .unit || x.cause == .idleFence)) = false ∧ x.retakes = false ∧
      x.coming = [] := by
  unfold Ctx.calm at h
  simp only [Bool.and_eq_true, Bool.not_eq_true', List.isEmpty_iff] at h
  exact ⟨h.1.1, h.1.2, h.2⟩

theorem unitMet_calm (m : Mach) (c k : Nat) (h : (m.ctx c k).calm = true)
    (hs : ((m.ctx c k).state == .waiting || (m.ctx c k).state == .saved) = true) : unitMet m c k = false := by
  have h1 := (calm_parts h).1
  rw [hs, Bool.true_and, Bool.or_eq_false_iff] at h1
  unfold unitMet
  cases hc : (m.ctx c k).cause <;> simp_all

theorem wakeCore_calm (e : Env) (m : Mach) (c : Nat) (h : ∀ k < 16, (m.ctx c k).calm = true) : wakeCore e m c = m := by
  have : (List.range 16).filter (fun k =>
      ((m.ctx c k).state == .waiting || (m.ctx c k).state == .saved) && (m.ctx c k).saving.isEmpty && unitMet m c k) = [] := by
    rw [List.filter_eq_nil_iff]
    intro k hk
    have hk' := h k (List.mem_range.mp hk)
    cases hs : ((m.ctx c k).state == .waiting || (m.ctx c k).state == .saved) with
    | false => simp
    | true => simp [unitMet_calm m c k hk' hs]
  unfold wakeCore
  rw [this]
  rfl

theorem mayBegin_calm (e : Env) (m : Mach) (c k : Nat) (h : (m.ctx c k).calm = true) : mayBegin e m c k = false := by
  simp [mayBegin, (calm_parts h).2.2]

/-- A step that leaves its start alone for every member of a list leaves it alone over the list. -/
theorem foldl_stays (f : Mach → Nat → Mach) (m : Mach) (l : List Nat) (h : ∀ n ∈ l, f m n = m) : l.foldl f m = m := by
  induction l with
  | nil => rfl
  | cons n l ih =>
    have hn : f m n = m := h n List.mem_cons_self
    simpa only [List.foldl_cons, hn] using ih (fun x hx => h x (List.mem_cons_of_mem n hx))

theorem beginCore_calm (e : Env) (m : Mach) (c : Nat) (h : ∀ k < 16, (m.ctx c k).calm = true) : beginCore e m c = m := by
  unfold beginCore
  apply foldl_stays
  intro k hk
  simp [mayBegin_calm e m c k (h k (List.mem_range.mp hk))]

theorem quiet_parts {m : Mach} (h : quiet m = true) :
    m.due = [] ∧ ∀ p ∈ m.cores, p.2.streamsRest = true ∧ ∀ k < 16, (m.ctx p.1 k).calm = true := by
  unfold quiet at h
  simp only [Bool.and_eq_true, List.all_eq_true, List.isEmpty_iff, List.mem_range] at h
  exact h

theorem wakeUnits_quiet (e : Env) (m : Mach) (h : quiet m = true) : wakeUnits e m = m := by
  unfold wakeUnits
  apply foldl_stays
  intro c hc
  simp only [List.mem_map] at hc
  obtain ⟨p, hp, rfl⟩ := hc
  have hk := ((quiet_parts h).2 p hp).2
  rw [wakeCore_calm e m p.1 hk, beginCore_calm e m p.1 hk]

/-! ### What keeps a machine in which nothing waits so -/

/-- A lookup finds the default, or the value of an entry. -/
theorem spGet_entry {α : Type} (d : α) : ∀ (l : Sparse α) (c : Nat), spGet d l c = d ∨ ∃ p ∈ l, p.1 = c ∧ p.2 = spGet d l c
  | [], _ => .inl rfl
  | (k, w) :: t, c => by
    unfold spGet
    by_cases h : k = c
    · exact .inr ⟨(k, w), by simp, h, by rw [if_pos h]⟩
    · rw [if_neg h]
      exact (spGet_entry d t c).imp id (fun ⟨p, hp, hc⟩ => ⟨p, by simp [hp], hc⟩)

theorem quiet_calm {m : Mach} (h : quiet m = true) (c : Nat) {k : Nat} (hk : k < 16) : (m.ctx c k).calm = true := by
  rcases spGet_entry Core.reset m.cores c with h1 | ⟨p, hp, rfl, _⟩
  · have : m.ctx c k = Ctx.reset := by unfold Mach.ctx Mach.core; rw [h1]; rfl
    rw [this]
    decide
  · exact ((quiet_parts h).2 p hp).2 k hk

theorem quiet_rest {m : Mach} (h : quiet m = true) (c : Nat) : (m.core c).streamsRest = true := by
  unfold Mach.core
  rcases spGet_entry Core.reset m.cores c with h1 | ⟨p, hp, _, hv⟩
  · rw [h1]; decide
  · rw [← hv]; exact ((quiet_parts h).2 p hp).1

/-- With nothing to act on, nothing is acted on. -/
theorem quiesce_quiet (e : Env) (n : Nat) (m : Mach) (h : quiet m = true) : quiesce e (n + 1) m = m := by
  have hp : ctxsWhere m (parks m) = [] := by
    have hf (c k : Nat) : parks m c k = false := by
      have := quiet_rest h c
      unfold Core.streamsRest at this
      simp only [List.all_eq_true, Bool.and_eq_true, Bool.not_eq_true'] at this
      unfold parks
      rw [Bool.and_eq_false_iff]
      right
      rw [List.any_eq_false]
      intro p hp
      simp [(this p hp).2]
    simp [ctxsWhere, hf]
  have hr : ctxsWhere m (fun c k => (m.ctx c k).retakes) = [] := by
    unfold ctxsWhere
    rw [List.flatMap_eq_nil_iff]
    intro p _
    rw [List.map_eq_nil_iff, List.filter_eq_nil_iff]
    intro k hk
    simp [(calm_parts (quiet_calm h p.1 (List.mem_range.mp hk))).2.1]
  have hd : drivenCores m = [] := by
    unfold drivenCores
    rw [List.map_eq_nil_iff, List.filter_eq_nil_iff]
    intro p hp
    have := ((quiet_parts h).2 p hp).1
    unfold Core.streamsRest at this
    simp only [List.all_eq_true, Bool.and_eq_true, Bool.not_eq_true'] at this
    simp only [List.any_eq_true, not_exists, not_and]
    exact fun q hq => by simp [(this q hq).1]
  simp only [quiesce, settle_nil e m (quiet_parts h).1, hp, hr, List.foldl_nil, pumpAll, hd, (quiet_parts h).1]
  simp

/-- Where no fault waits, no stream moves and no context can go on by itself, what follows a command changes nothing. -/
theorem finish_quiet (e : Env) (m : Mach) (h : quiet m = true) : finish e m = m := by
  unfold finish
  rw [show (2048 : Nat) = 2047 + 1 from rfl, quiesce_quiet e 2047 m h, wakeUnits_quiet e m h]

theorem quiet_modCore {m : Mach} (c : Nat) (f : Core → Core) (h : quiet m = true) (hs : (f (m.core c)).streamsRest = true)
    (hf : ∀ k < 16, ((f (m.core c)).ctx k).calm = true) : quiet (m.modCore c f) = true := by
  have hd : (m.modCore c f).due = [] := (quiet_parts (m := m) h).1
  unfold quiet
  simp only [Bool.and_eq_true, List.isEmpty_iff, List.all_eq_true, List.mem_range]
  refine ⟨hd, fun p hp => ⟨?_, fun k hk => ?_⟩⟩
  · rcases mem_spSet c (f (m.core c)) m.cores p hp with rfl | hq
    · exact hs
    · exact ((quiet_parts h).2 p hq).1
  · by_cases hc : c = p.1
    · subst hc
      have : (m.modCore p.1 f).ctx p.1 k = (f (m.core p.1)).ctx k := by simp [Mach.ctx]
      rw [this]
      exact hf k hk
    · have : (m.modCore c f).ctx p.1 k = m.ctx p.1 k := by simp [Mach.ctx, core_modCore_other _ _ hc]
      rw [this]
      exact quiet_calm h p.1 hk

/-- An update of a core that leaves its contexts and streams alone. -/
theorem quiet_sameCtxs {m : Mach} (c : Nat) (f : Core → Core) (h : quiet m = true) (hf : (f (m.core c)).ctxs = (m.core c).ctxs)
    (hs : (f (m.core c)).streams = (m.core c).streams) : quiet (m.modCore c f) = true :=
  quiet_modCore c f h (by unfold Core.streamsRest; rw [hs]; exact quiet_rest h c)
    (fun k hk => by unfold Core.ctx; rw [hf]; exact quiet_calm h c hk)

theorem quiet_modCtx {m : Mach} (c k : Nat) (f : Ctx → Ctx) (h : quiet m = true) (hf : k < 16 → (f (m.ctx c k)).calm = true) :
    quiet (m.modCtx c k f) = true :=
  quiet_modCore c _ h (quiet_rest h c) (fun j hj => by
    unfold Core.ctx
    rw [spGet_spSet]
    by_cases hk : k = j
    · rw [if_pos hk]
      exact hf (by omega)
    · rw [if_neg hk]
      exact quiet_calm h c hj)

theorem calm_past (x : Ctx) (w : Word) : (x.past w).calm = x.calm := by
  unfold Ctx.past
  split <;> rfl

theorem quiet_goesOn {m : Mach} (c k : Nat) (w : Word) (h : quiet m = true) : quiet (goesOn c k w m) = true :=
  quiet_modCtx c k _ h (fun hk => by rw [calm_past]; exact quiet_calm h c hk)

/-! ### The sequencer -/

/-- A command that the context issues and that decodes is executed, and its end decides what becomes of the context. -/
theorem issue_runs {s : State} {c k op : Nat} {w : Word} (run : Run) (h : dispatches s c k op w = true) :
    issue op run c k w s.env s.mach =
      finish s.env (issueEnds s.env (run s.env (issuedMach s c k w) c k (issuedWord s c k w)).1 c k (issuedWord s c k w)
        (run s.env (issuedMach s c k w) c k (issuedWord s c k w)).2) := by
  simp only [dispatches, issuing, Bool.and_eq_true, beq_iff_eq, decide_eq_true_eq] at h
  obtain ⟨⟨⟨h1, h2⟩, h3⟩, h4⟩ := h
  have h2' : (fld ((s.mach.ctx c k).waitCmd.getD w) 7 0 != op) = false := by simp [h2]
  have h3' : ¬ (s.mach.ctx c k).length ≤ (s.mach.ctx c k).pos := by omega
  have hi : issue op run c k w s.env s.mach = finish s.env (issueRun run c k w s.env (chosen s c k)) := by
    unfold issue
    simp only [h1, h2', h3', Bool.not_true, Bool.false_or, Bool.and_false, Bool.false_eq_true, if_false]
    rfl
  rw [hi]
  unfold decodes at h4
  simp only [Bool.and_eq_true, Bool.not_eq_true'] at h4
  have hc : (if !opcodeKnown (fld (issuedWord s c k w) 7 0) then (issuedMach s c k w, Issue.reject cIllegalOpcode)
      else if ((chosen s c k).ctx c k).cx6 && cx6Bad (issuedWord s c k w) then (issuedMach s c k w, Issue.fault famHost 0x12 0 0)
      else if ((chosen s c k).ctx c k).waitCmd.isNone && intakeTooWide ((chosen s c k).ctx c k) then
        (issuedMach s c k w, Issue.reject cBounds)
      else run s.env (issuedMach s c k w) c k (issuedWord s c k w)) = run s.env (issuedMach s c k w) c k (issuedWord s c k w) := by
    simp only [h4.1.1, h4.1.2, h4.2, Bool.not_true, Bool.false_eq_true, if_false]
  have hr : issueRun run c k w s.env (chosen s c k) = issueEnds s.env (run s.env (issuedMach s c k w) c k (issuedWord s c k w)).1 c k
      (issuedWord s c k w) (run s.env (issuedMach s c k w) c k (issuedWord s c k w)).2 := by
    unfold issueRun
    exact congrArg (fun r => issueEnds s.env r.1 c k (issuedWord s c k w) r.2) hc
  exact congrArg (finish s.env) hr

/-- A command that is taken: issue goes on at the next one. -/
theorem issue_taken {s : State} {c k op : Nat} {w : Word} {run : Run} {m : Mach} (h : dispatches s c k op w = true)
    (hr : run s.env (issuedMach s c k w) c k (issuedWord s c k w) = (m, .taken)) :
    issue op run c k w s.env s.mach = finish s.env (goesOn c k (issuedWord s c k w) m) := by
  rw [issue_runs run h, hr]
  rfl

/-- Where the command outranks none of them, none is pre-empted. -/
theorem preemptLower_none (e : Env) (c k : Nat) (m : Mach) (js : List Nat) (h : js.all (fun j => !outranks m c k j) = true) :
    preemptLower e c k js m = m := by
  induction js with
  | nil => rfl
  | cons j js ih =>
    rw [List.all_cons, Bool.and_eq_true, Bool.not_eq_true'] at h
    rw [preemptLower, h.1, if_neg Bool.false_ne_true, ih h.2]

/-- A command whose unit is free, with nobody to pre-empt, is placed. -/
theorem forUnit_placed {e : Env} {m : Mach} {c k : Nat} {w : Word} (place : Mach → Mach) (hb : unitBlocked m c k w = false)
    (hn : nobodyPreempted m c k w = true) : forUnit e m c k w place = (place m, .taken) := by
  unfold forUnit
  rw [hb, preemptLower_none e c k m _ hn]
  simp

end Sys2Proof.Machine
end

