-- ==== Sys2Proof/Laws/Strokes.lean ====
section
/-! SUPPORT. What one tick of the stroke clock does, and that the shared operations of the clock keep its bounds. -/

namespace Sys2Proof.Machine

/-! ### What the source shows and what takes effect -/

theorem followSource_fields (ns : Nat) (k : Strokes) :
    (followSource ns k).counter = k.counter ∧ (followSource ns k).counter1 = k.counter1 ∧ (followSource ns k).split = k.split ∧
    (followSource ns k).period = k.period ∧ (followSource ns k).armed = k.armed ∧ (followSource ns k).window = k.window ∧
    (followSource ns k).windowNext = k.windowNext ∧ (followSource ns k).target = k.target ∧
    (followSource ns k).pendingPeriod = k.pendingPeriod ∧ (followSource ns k).inDelay = k.inDelay ∧
    (followSource ns k).inWindow = k.inWindow ∧ (followSource ns k).inWindow1 = k.inWindow1 := by
  unfold followSource
  split
  · simp
  · split
    · simp
    · split <;> simp

theorem applyAlign_fields (k : Strokes) :
    (applyAlign k).counter = k.counter ∧ (applyAlign k).counter1 = k.counter1 ∧ (applyAlign k).split = k.split ∧
    (applyAlign k).period = k.period ∧ (applyAlign k).armed = k.armed ∧ (applyAlign k).window = k.window ∧
    (applyAlign k).windowNext = k.windowNext ∧ (applyAlign k).target = k.target ∧
    (applyAlign k).pendingPeriod = k.pendingPeriod ∧ (applyAlign k).inDelay = k.inDelay ∧
    (applyAlign k).inWindow = k.inWindow ∧ (applyAlign k).inWindow1 = k.inWindow1 := by
  unfold applyAlign
  split
  · simp
  · split <;> simp

/-- R39: the period after the boundary that begins stroke `s`. -/
def periodAfter (k : Strokes) (s : Nat) : Nat :=
  match k.armed with
  | some (p, n) => if n ≤ s then p else k.period
  | none => k.period

/-- R39: what stays armed after it. -/
def armedAfter (k : Strokes) (s : Nat) : Option (Nat × Nat) :=
  match k.armed with
  | some (p, n) => if n ≤ s then none else some (p, n)
  | none => none

theorem applyClock_fields (k : Strokes) (s : Nat) :
    (applyClock k s).counter = k.counter ∧ (applyClock k s).counter1 = k.counter1 ∧ (applyClock k s).split = k.split ∧
    (applyClock k s).period = periodAfter k s ∧ (applyClock k s).armed = armedAfter k s ∧
    (applyClock k s).window = k.windowNext.getD k.window ∧ (applyClock k s).windowNext = none ∧
    (applyClock k s).target = k.target ∧ (applyClock k s).pendingPeriod = k.pendingPeriod ∧
    (applyClock k s).inDelay = k.inDelay ∧ (applyClock k s).inWindow = k.inWindow ∧
    (applyClock k s).inWindow1 = k.inWindow1 := by
  unfold applyClock periodAfter armedAfter
  cases h : k.armed with
  | none => simp [applyAlign_fields, h]
  | some q =>
    obtain ⟨p, n⟩ := q
    by_cases hn : n ≤ s <;> simp [applyAlign_fields, hn, h]

/-- R37, R39, R40: one tick of a device that runs as one. -/
theorem tick_fields (k : Strokes) (ns : Nat) (full : Bool) (h : k.split = false) :
    (tick k 0 ns true full).counter = nextNumber k 0 ns ∧ (tick k 0 ns true full).timestamp = ns ∧
    (tick k 0 ns true full).split = false ∧ (tick k 0 ns true full).inWindow = full ∧
    (tick k 0 ns true full).inWindow1 = k.inWindow1 ∧ (tick k 0 ns true full).period = periodAfter k (nextNumber k 0 ns) ∧
    (tick k 0 ns true full).armed = armedAfter k (nextNumber k 0 ns) ∧
    (tick k 0 ns true full).window = k.windowNext.getD k.window ∧ (tick k 0 ns true full).windowNext = none ∧
    (tick k 0 ns true full).target = k.target ∧ (tick k 0 ns true full).pendingPeriod = k.pendingPeriod ∧
    (tick k 0 ns true full).inDelay = k.inDelay := by
  have a := applyClock_fields (followSource ns k) (nextNumber k 0 ns)
  have b := followSource_fields ns k
  have hs : (applyClock (followSource ns k) (nextNumber k 0 ns)).split = false := by rw [a.2.2.1, b.2.2.1, h]
  simp [tick, setWindow, a, b, h, periodAfter, armedAfter]

/-- R37: the number of the next boundary is higher than that of this one. -/
theorem nextNumber_gt (k : Strokes) (h ns : Nat) : counterOf k h < nextNumber k h ns := by
  unfold nextNumber
  simp only []
  split
  · have := Nat.le_max_left (counterOf k h + 1) ((sourceNumber k ns).getD (counterOf k h + 1)); omega
  · omega

/-! ### The bounds -/

theorem strokeBounds_iff (k : Strokes) :
    strokeBounds k = true ↔
      (∀ p ∈ periodsOf k, 10 ≤ p ∧ p ≤ 65535) ∧ (∀ w ∈ windowsOf k, 4 ≤ w ∧ w ≤ 32) ∧
        (∀ p ∈ periodsOf k, ∀ w ∈ windowsOf k, 2 * w < p) := by
  simp [strokeBounds, and_assoc]

/-- A clock whose periods and windows are among those of another keeps its bounds. -/
theorem strokeBounds_sub (k j : Strokes) (hp : ∀ p ∈ periodsOf j, p ∈ periodsOf k) (hw : ∀ w ∈ windowsOf j, w ∈ windowsOf k)
    (h : strokeBounds k = true) : strokeBounds j = true := by
  rw [strokeBounds_iff] at *
  exact ⟨fun p a => h.1 p (hp p a), fun w a => h.2.1 w (hw w a), fun p a w b => h.2.2 p (hp p a) w (hw w b)⟩

/-- Only the period, its armed change, the window and its written length matter. -/
theorem strokeBounds_same (k j : Strokes) (h1 : j.period = k.period) (h2 : j.armed = k.armed) (h3 : j.window = k.window)
    (h4 : j.windowNext = k.windowNext) : strokeBounds j = strokeBounds k := by
  simp [strokeBounds, periodsOf, windowsOf, h1, h2, h3, h4]

theorem periodAfter_mem (k : Strokes) (s : Nat) : periodAfter k s ∈ periodsOf k := by
  unfold periodAfter periodsOf
  cases k.armed with
  | none => simp
  | some q => obtain ⟨p, n⟩ := q; by_cases hn : n ≤ s <;> simp [hn]

theorem armedAfter_mem (k : Strokes) (s : Nat) (a : Nat × Nat) (h : armedAfter k s = some a) : a.1 ∈ periodsOf k := by
  unfold armedAfter at h
  unfold periodsOf
  cases hk : k.armed with
  | none => rw [hk] at h; cases h
  | some q =>
    obtain ⟨p, n⟩ := q
    rw [hk] at h
    by_cases hn : n ≤ s
    · simp [hn] at h
    · simp [hn] at h; subst h; simp

/-- R39, R40: what takes effect at a boundary keeps the bounds. -/
theorem strokeBounds_applyClock (k : Strokes) (s : Nat) (h : strokeBounds k = true) : strokeBounds (applyClock k s) = true := by
  have a := applyClock_fields k s
  refine strokeBounds_sub k _ (fun p hp => ?_) (fun w hw => ?_) h
  · rw [periodsOf, a.2.2.2.1, a.2.2.2.2.1] at hp
    rw [List.mem_cons] at hp
    rcases hp with rfl | hp
    · exact periodAfter_mem k s
    · cases hq : armedAfter k s with
      | none => rw [hq] at hp; simp at hp
      | some q =>
        rw [hq] at hp
        simp at hp
        subst hp
        exact armedAfter_mem k s q hq
  · rw [windowsOf, a.2.2.2.2.2.1, a.2.2.2.2.2.2.1] at hw
    simp at hw
    subst hw
    unfold windowsOf
    cases k.windowNext <;> simp

end Sys2Proof.Machine
end

