-- ==== Sys2Proof/WellFormed.lean ====
section
/-! DEFINITION. When a command is well formed: its operands lie in the ranges of the units they name and of the fields that carry
them. The meanings are total and do not rest on it: an operand out of range names a unit that is not there. -/

namespace Sys2Proof

/-! ### Ranges of operands -/

/-- R3, R306: a core and a context of it. -/
def coreOk (c : Nat) : Bool := decide (c < 64)
def ctxOk (c k : Nat) : Bool := coreOk c && decide (k < 16)

/-- R16: there are two dies, gauges and endpoints. -/
def twoOk (d : Nat) : Bool := decide (d < 2)

/-- R13, R27: fields of 8, 16, 32 and 64 bits, and device identifiers. -/
def bitsOk (n x : Nat) : Bool := decide (x < 2 ^ n)
def deviceOk (d : Nat) : Bool := decide (d < 8192)

/-- A command-stream command carries the opcode of its row in bits [7:0] (R80). -/
def opcodeIs (w : Word) (op : Nat) : Bool := w.toNat % 256 == op
def streamOk (c k op : Nat) (w : Word) : Bool := ctxOk c k && opcodeIs w op

/-- R448, R460: an endpoint's window, or a gauge and a TXN byte. -/
def viaOk : Via → Bool
  | .window ep => twoOk ep
  | .can g txn => twoOk g && bitsOk 8 txn

/-- R450, R460: a request names a gauge, a TXN byte, an index and a subindex. -/
def requestOk (g txn idx sub : Nat) : Bool := twoOk g && bitsOk 8 txn && bitsOk 16 idx && bitsOk 8 sub

/-- R465: a DOM_SEGMENT carries a U24 number and at most 56 bytes. -/
def segmentOk (seg : Nat) (data : List Byte) : Bool := bitsOk 24 seg && decide (data.length ≤ 56)

/-- R5, R400: a link, and the head of a routed frame. -/
def linkOk (n : Nat) : Bool := decide (n < 96)
def headOk (h : FrameHead) : Bool := deviceOk h.origin && deviceOk h.dest && decide (h.hops ≤ 32)

/-- R400: a WRITE carries 1 to 256 bytes. -/
def writeBodyOk (b : WriteBody) : Bool :=
  bitsOk 32 b.seq && bitsOk 40 b.offset && decide (1 ≤ b.data.length) && decide (b.data.length ≤ 256) && ctxOk b.core b.ctx && twoOk b.channel
def signalBodyOk (b : SignalBody) : Bool :=
  coreOk b.core && bitsOk 12 b.index && decide (1 ≤ b.value) && decide (b.value ≤ 2 ^ 32) && bitsOk 32 b.lastWrite
def beatOk (b : Beat) : Bool := bitsOk 32 b.collId && bitsOk 48 b.progress

/-- R342, R380: a physical address names a window 0 to 5 of the 16 stacks. -/
def physOk (pa : Nat) : Bool := decide (pa < 6 * 2 ^ 40)

/-- R380: who writes through a glue window. -/
def writerOk : Writer → Bool
  | .context c k => ctxOk c k
  | .host ep => twoOk ep
  | .peer o => deviceOk o

/-- R333: who sends a signal. -/
def senderOk : Sender → Bool
  | .context c k => ctxOk c k
  | .engine c _ => coreOk c
  | .stream c s => coreOk c && decide (s < 16)
  | .device => true
  | .peer o => deviceOk o

/-- R426, R445, R447: an address of a host access. -/
def spaceOk (space : HostSpace) (a : Nat) : Bool :=
  match space with
  | .mem w => decide (w ≤ 4) && decide (a < if w < 2 then 2 ^ 40 else if w < 4 then 5 * 2 ^ 40 else 2 ^ 31)
  | .bar0 => decide (a < 2 ^ 22)
  | .bar2 => decide (a < 2 ^ 25)
  | .config => decide (a < 4096)

/-- R563: a register is 1, 2, 4 or 8 bytes wide. -/
def widthOk (w : Nat) : Bool := w == 1 || w == 2 || w == 4 || w == 8

/-- R426, R447: an offset of BAR0 or BAR2, and a value of the written width. -/
def barOk (bar off width n : Nat) : Bool :=
  ((bar == 0 && decide (off < 2 ^ 22)) || (bar == 2 && decide (off < 2 ^ 25))) && widthOk width && bitsOk (8 * width) n

/-- What a boundary brings names units that exist. -/
def obsOk (o : BoundaryObs) : Bool :=
  twoOk o.half && o.stalls.all (fun x => coreOk x.1 && bitsOk 8 x.2.1) && o.cooledDies.all twoOk &&
    o.trayFlips.all (fun x => coreOk x.1 && decide (x.2.1 < 4194304)) && o.parity.all (fun x => coreOk x.1) &&
    o.tails.all (fun x => twoOk x.1)

/-! ### The commands -/

/-- The command's operands name units and values that its fields can carry. -/
def Instr.wellFormed : Instr → Bool
  | .boundary obs => obsOk obs
  | .windowEnd half _ => twoOk half
  | .windowExtended half => twoOk half
  | .pendingPeriodWrite via us => viaOk via && bitsOk 16 us
  | .windowLengthWrite via us => viaOk via && bitsOk 8 us
  | .strokeInEdge _ _ => true
  | .alignmentLock => true
  | .sourceLoss => true
  | .pass c k w => streamOk c k 0x10 w
  | .preload c k w => streamOk c k 0x11 w
  | .swap c k w => streamOk c k 0x12 w
  | .drain c k w => streamOk c k 0x13 w
  | .passFill c => coreOk c
  | .passStreamingEnd c => coreOk c
  | .preloadLoadEnd c => coreOk c
  | .tileDrainEnd c => coreOk c
  | .elem c k w => streamOk c k 0x20 w
  | .reduce c k w => streamOk c k 0x21 w
  | .norm c k w => streamOk c k 0x22 w
  | .smaxBlock c k w => streamOk c k 0x23 w
  | .smaxMerge c k w => streamOk c k 0x24 w
  | .smaxFinal c k w => streamOk c k 0x25 w
  | .wideAdd c k w => streamOk c k 0x26 w
  | .convert c k w => streamOk c k 0x27 w
  | .vectorCommandEnd c => coreOk c
  | .gather c k w => streamOk c k 0x30 w
  | .pool c k w => streamOk c k 0x31 w
  | .sample c k w => streamOk c k 0x32 w
  | .merge c k w => streamOk c k 0x33 w
  | .mergeFlush c k w => streamOk c k 0x34 w
  | .gatherCommandEnd c => coreOk c
  | .hbmReadReturn pa _ _ => physOk pa
  | .hbmWrite pa _ _ => physOk pa
  | .addFp32 src off _ _ => writerOk src && bitsOk 40 off
  | .addBf16 src off _ _ => writerOk src && bitsOk 40 off
  | .addInt32 src off _ _ => writerOk src && bitsOk 40 off
  | .addInt64 src off _ _ => writerOk src && bitsOk 40 off
  | .maxInt64 src off _ _ => writerOk src && bitsOk 40 off
  | .publicationTailWrite via tail _ => viaOk via && bitsOk 32 tail
  | .updateTailWrite via tail => viaOk via && bitsOk 32 tail
  | .put d => twoOk d
  | .compactionBaseWrites d t => twoOk d && bitsOk 12 t
  | .compactionFilterBuild d t => twoOk d && bitsOk 12 t
  | .search c k w => streamOk c k 0x40 w
  | .expand c k w => streamOk c k 0x41 w
  | .apply c k w => streamOk c k 0x42 w
  | .traversalCommandEnd x => coreOk x.core
  | .progressTotalWrite via job total => viaOk via && bitsOk 8 job && bitsOk 64 total
  | .stream c k w => streamOk c k 0x50 w
  | .rearm c k w => streamOk c k 0x51 w
  | .cancel c k w => streamOk c k 0x52 w
  | .retire c k w => streamOk c k 0x53 w
  | .streamEarlyDispatch c k _ between w => streamOk c k 0x50 w && decide (between.length ≤ 63)
  | .streamPassEnd c slot => coreOk c && decide (slot < 16)
  | .streamCancellation c slot _ => coreOk c && decide (slot < 16)
  | .chainRelay c slot hop => coreOk c && decide (slot < 16) && decide (hop < 64)
  | .railTake c k w => streamOk c k 0x68 w
  | .railPush c k w => streamOk c k 0x69 w
  | .railPop c k w _ => streamOk c k 0x6A w
  | .railRelease c k w => streamOk c k 0x6B w
  | .railSet c k w => streamOk c k 0x6C w
  | .poolSet c k w => streamOk c k 0x6D w
  | .railDeadlock rails => rails.all (fun r => coreOk r.1 && decide (r.2 < 32))
  | .nop c k w => streamOk c k 0x70 w
  | .loop c k w => streamOk c k 0x71 w
  | .waitIdle c k w => streamOk c k 0x72 w
  | .yield c k w => streamOk c k 0x73 w
  | .stop c k w => streamOk c k 0x74 w
  | .clampInit c k w => streamOk c k 0x60 w
  | .clampSignal c k w => streamOk c k 0x61 w
  | .clampWait c k w => streamOk c k 0x62 w
  | .clampSet c k w => streamOk c k 0x63 w
  | .clampRead c k w => streamOk c k 0x64 w
  | .clampRelease c k w => streamOk c k 0x65 w
  | .clampSignalArrival snd c i => senderOk snd && coreOk c && bitsOk 12 i
  | .contextDescriptor ep c k n => twoOk ep && ctxOk c k && bitsOk 64 n
  | .engineSaveEnd c _ _ => coreOk c
  | .contextRestore c k => ctxOk c k
  | .preempt ep c k => twoOk ep && ctxOk c k
  | .release ep c k => twoOk ep && ctxOk c k
  | .contextCancel ep c k => twoOk ep && ctxOk c k
  | .kill ep c k => twoOk ep && ctxOk c k
  | .reset ep c k => twoOk ep && ctxOk c k
  | .resume ep c k => twoOk ep && ctxOk c k
  | .sequencerFetch c k _ => ctxOk c k
  | .commandPrefetch c k => ctxOk c k
  | .pageWalk c k va _ source slot => ctxOk c k && bitsOk 52 va && decide (source < 16) && bitsOk 8 slot
  | .channelRetrain st ch => decide (st < 16) && decide (ch < 32)
  | .channelRetrainEnd st ch _ _ cause => decide (st < 16) && decide (ch < 32) && decide (1 ≤ cause) && decide (cause ≤ 3)
  | .pairEvacuationEnd pair _ => decide (pair < 512)
  | .stackTempRead st _ => decide (st < 16)
  | .regionDomainFault g => decide (g < 8)
  | .peerSignalDetect n => linkOk n
  | .linkTrained n t => linkOk n && bitsOk 16 t.peerId && bitsOk 7 t.peerLink
  | .peerSignalLoss n => linkOk n
  | .retrainRequest via n => viaOk via && bitsOk 8 n
  | .linkFence n => linkOk n
  | .uncorrectableCodeword x => linkOk x.link
  | .writeFrame n h b => linkOk n && headOk h && writeBodyOk b
  | .signal n h b => linkOk n && headOk h && signalBodyOk b
  | .marker n number hops _ => linkOk n && bitsOk 64 number && bitsOk 8 hops
  | .heartbeat n h b => linkOk n && headOk h && beatOk b
  | .slow n level => linkOk n && decide (level ≤ 5)
  | .abort n h id o reason => linkOk n && headOk h && bitsOk 32 id && bitsOk 16 o && bitsOk 8 reason
  | .nack n h off reason c k => linkOk n && headOk h && bitsOk 40 off && bitsOk 8 reason && ctxOk c k
  | .unreachable n h d => linkOk n && headOk h && deviceOk d
  | .heartbeatPeriod => true
  | .pathLoss die o => twoOk die && deviceOk o
  | .peerDead slot peer => decide (slot < 16) && deviceOk peer
  | .ucieTrained ep _ => twoOk ep
  | .versionSel ep n => twoOk ep && bitsOk 32 n
  | .subTail ep c k n => twoOk ep && ctxOk c k && bitsOk 32 n
  | .submissionTake c k => ctxOk c k
  | .planTail ep c n => twoOk ep && coreOk c && bitsOk 32 n
  | .intakeTail ep i n => twoOk ep && decide (1 ≤ i) && decide (i ≤ 1024) && bitsOk 32 n
  | .intakeDesc ep i word n => twoOk ep && decide (1 ≤ i) && decide (i ≤ 1024) && decide (word < 3) && bitsOk 64 n
  | .intakeBatchCopyEnd i => decide (1 ≤ i) && decide (i ≤ 1024)
  | .strokeWorkComplete c k => ctxOk c k
  | .completionHead ep r n => twoOk ep && decide (r < 64) && bitsOk 32 n
  | .msixModerationEnd ep r => twoOk ep && decide (r < 64)
  | .hostMemRead ep space a n => twoOk ep && spaceOk space a && decide (1 ≤ n)
  | .hostMemWrite ep w a data => twoOk ep && (spaceOk (.mem w) a || (w == 5 && bitsOk 64 a) || (w == 6 && spaceOk .config a)) && decide (1 ≤ data.length)
  | .registerWrite ep bar off width n => twoOk ep && barOk bar off width n
  | .read g txn idx sub => requestOk g txn idx sub
  | .write g x idx sub value => requestOk g x.txn idx sub && decide (x.op < 256) && (x.op == 2 || x.op == 0 || decide (6 < x.op)) &&
    decide (value.length ≤ 56)
  | .domReadStart g txn idx sub => requestOk g txn idx sub
  | .domWriteStart g txn idx sub len => requestOk g txn idx sub && bitsOk 32 len
  | .domSegment g txn idx sub seg data => requestOk g txn idx sub && segmentOk seg data
  | .domAbort g txn idx sub => requestOk g txn idx sub
  | .domTimeout g => twoOk g
  | .domCopyRead ep => twoOk ep
  | .domCopyWrite ep => twoOk ep
  | .domCopyEnd g => twoOk g
  | .statusFrame g => twoOk g
  | .flashStoreEnd => true
  | .wedgeRenew g _ => twoOk g
  | .wedgeLeaseExpiry => true
  | .leadLapse g => twoOk g
  | .wedgePoll g => twoOk g
  | .wedgeAskDelay => true
  | .contactLoss g _ => twoOk g
  | .contactRegained _ => true
  | .leadHandover via g => viaOk via && bitsOk 8 g
  | .gaugeWatchdog g => twoOk g
  | .presentMate => true
  | .presentBreak => true
  | .startPermitted => true
  | .alwaysOnPower => true
  | .inputLoss _ => true
  | .holdupExhausted => true
  | .thermalTrip => true
  | .overcurrent => true
  | .dieHot d _ => twoOk d
  | .holdupMeasure _ mv => decide (30000 ≤ mv)
  | .park via => viaOk via
  | .wake via => viaOk via
  | .remove via => viaOk via
  | .removeReq => true
  | .boot => true
  | .imageVerified g => twoOk g
  | .hbmBistEnd pairs x => pairs.all (fun p => decide (p < 512)) && x.badStacks.all (fun t => decide (t < 16)) &&
    x.lanes.all (fun p => decide (p.1 < 16)) && x.temps.length == 16
  | .coresUp failed _ => failed.all twoOk
  | .memtestEnd frames => frames.all (fun p => decide (p.1 < 16) && decide (p.2 < 22888))
  | .imageBegin via => viaOk via
  | .verify via => viaOk via
  | .imageVerifyEnd => true
  | .reboot via => viaOk via
  | .ownerKeyWrite via _ => viaOk via
  | .svnAdvance via n => viaOk via && bitsOk 32 n
  | .attestationRequest via n => viaOk via && bitsOk 8 n
  | .attestationEnd g _ => twoOk g
  | .faultRecordDelivery g => twoOk g
  | .faultRingHead via ring n => viaOk via && twoOk ring && bitsOk 32 n
  | .faultClear via ring n => viaOk via && twoOk ring && bitsOk 32 n
  | .coreFence c cause => coreOk c && bitsOk 8 cause
  | .coreFenceRequest via c => viaOk via && coreOk c
  | .coreUnfenceRequest via c => viaOk via && coreOk c
  | .regionFenceRequest via g => viaOk via && decide (g < 8)
  | .regionUnfenceRequest via g => viaOk via && decide (g < 8)
  | .dieFenceRequest via d => viaOk via && twoOk d
  | .dieUnfenceRequest via d => viaOk via && twoOk d
  | .coreSelfTestEnd c _ => coreOk c
  | .regionUnfenceEnd g _ => decide (g < 8)
  | .gaugeLinkDown => true
  | .dieToDiePathDown => true
  | .busOffRecovery x => twoOk x.gauge

end Sys2Proof
end

