-- ==== Sys2Proof/Tests/Slice0.lean ====
section
/-! SUPPORT. Tests: ill-formed commands that the checks refuse, a state and operands that meet the hypotheses of every clause of
every statement, and a few results worked by hand from the manual. -/

set_option Elab.async false

open Sys2Proof Sys2Proof.Machine

namespace Sys2Proof.Tests

/-! ### WellFormed refuses -/

theorem test_wf_core : Instr.wellFormed (.passFill 64) = false := by decide
theorem test_wf_ctx : Instr.wellFormed (.contextRestore 0 16) = false := by decide
theorem test_wf_opcode : Instr.wellFormed (.pass 0 0 0x11#512) = false := by decide +kernel
theorem test_wf_two : Instr.wellFormed (.put 2) = false := by decide
theorem test_wf_bits : Instr.wellFormed (.subTail 0 0 0 (2 ^ 32)) = false := by decide
theorem test_wf_device : Instr.wellFormed (.peerDead 0 8192) = false := by decide
theorem test_wf_via : Instr.wellFormed (.park (.can 0 256)) = false ∧ Instr.wellFormed (.park (.window 2)) = false := by decide
theorem test_wf_request : Instr.wellFormed (.read 0 0 65536 0) = false := by decide
theorem test_wf_segment : Instr.wellFormed (.domSegment 0 0 0 0 0 (List.replicate 57 0)) = false := by decide
theorem test_wf_link : Instr.wellFormed (.linkFence 96) = false := by decide
theorem test_wf_head :
    Instr.wellFormed (.unreachable 0 { origin := 0, dest := 0, hops := 33 } 0) = false := by decide
theorem test_wf_write_body :
    Instr.wellFormed (.writeFrame 0 { origin := 0, dest := 0, hops := 1 }
      { seq := 0, offset := 0, data := [], core := 0, ctx := 0, channel := 0, detect := false }) = false := by decide
theorem test_wf_signal_body :
    Instr.wellFormed (.signal 0 { origin := 0, dest := 0, hops := 1 } { core := 0, index := 0, value := 0, lastWrite := 0 }) = false := by
  decide
theorem test_wf_beat :
    Instr.wellFormed (.heartbeat 0 { origin := 0, dest := 0, hops := 1 }
      { collId := 2 ^ 32, progress := 0, deferred := false, slow := false, slowPath := false, done := false }) = false := by decide
theorem test_wf_phys : Instr.wellFormed (.hbmReadReturn (6 * 2 ^ 40) false 0) = false := by decide
theorem test_wf_writer : Instr.wellFormed (.addFp32 (.host 2) 0 false []) = false := by decide
theorem test_wf_sender : Instr.wellFormed (.clampSignalArrival (.stream 0 16) 0 0) = false := by decide
theorem test_wf_space : Instr.wellFormed (.hostMemRead 0 (.mem 5) 0 1) = false := by decide
theorem test_wf_width : Instr.wellFormed (.registerWrite 0 0 0 3 0) = false := by decide
theorem test_wf_bar : Instr.wellFormed (.registerWrite 0 1 0 4 0) = false := by decide
theorem test_wf_obs :
    Instr.wellFormed (.boundary { ns := 0, half := 2, inputPower := 0, inputMv := 0, inputCurrent := 0, stalls := [], trayFlips := [],
                                  parity := [], tails := [], cooledDies := [], published := none, aligned := true }) = false := by decide
theorem test_wf_path : Instr.wellFormed (.streamEarlyDispatch 0 0 0 [] 0x51) = false := by decide +kernel
theorem test_wf_op : Instr.wellFormed (.write 0 ⟨3, 0⟩ 0 0 []) = false := by decide
theorem test_wf_temps : Instr.wellFormed (.hbmBistEnd [] ⟨[], [], [0]⟩) = false := by decide
theorem test_wf_config : Instr.wellFormed (.hostMemWrite 0 6 4096 [0]) = false := by decide

/-! ### States -/

/-- A command of the given opcode with further fields: bit position and value. -/
def cmd (op : Nat) (fs : List (Nat × Nat)) : Word := BitVec.ofNat 512 (op + (fs.map (fun p => p.2 * 2 ^ p.1)).sum)

def gauge (lead : Bool) : Gauge := { Gauge.reset with alive := true, lead := lead }

def ep : Endpoint := { Endpoint.reset with trained := true, attach := 3 }

/-- A running module: both gauges work and gauge 0 leads, HBM and the host die are up. -/
def running : Mach :=
  { Mach.reset with
    hbm := { Hbm.reset with on := true }
    mgmt := { Mgmt.reset with g0 := gauge true, g1 := gauge false, holder := some 0, epoch := 1, leaseRunning := true, bootState := 1,
                              hbmDone := true, coresDone := true, ready := true }
    host := { HostIf.reset with ep0 := ep, ep1 := ep, selected := true }
    power := { Power.reset with present := true, debounced := true, alwaysOn := true, main := true, state := 2 } }

/-- Strokes run, in stroke 7. -/
def clock : Strokes := { Strokes.reset with running := true, counter := 7, timestamp := 1750000 }

def up (m : Mach) : State := { State.reset with strokes := clock, mach := m }

/-- A batch context with ARRAY set that runs a stream of 10 commands at its first one. -/
def runner : Ctx := { Ctx.reset with descriptor := 8, state := .running, running := true, length := 10, base := 0x1000 }

/-- Core 0 in service with class 8, context 2 on it. -/
def coreWith (x : Ctx) : Core := { Core.reset with up := true, admitted := 0x18, decided := 0x18, ctxs := [(2, x)] }

/-- The module with context 2 of core 0 running and the core as changed by `f`. -/
def at0 (f : Core → Core) : State := up { running with cores := [(0, f (coreWith runner))] }

def plain : State := at0 (fun x => x)

def obs : BoundaryObs :=
  { ns := 2000000, half := 0, inputPower := 1000, inputMv := 42000, inputCurrent := 500, stalls := [], trayFlips := [],
    parity := [], tails := [], cooledDies := [], published := none, aligned := true }

/-! ### The queue and the clock -/

theorem test_reset_bounds : strokeBounds State.reset.strokes = true := by decide
theorem test_reset_memory :
    Memory.wf State.reset.mach.hbm.cells = true ∧ Memory.wf State.reset.mach.host.mem = true ∧ State.reset.pending = [] := by decide

theorem test_meets_StepRunsFront :
    ({ plain with pending := [.alignmentLock, .boot] } : State).pending = .alignmentLock :: [.boot] ∧ plain.pending = [] := by decide
theorem test_step_idles : step plain = .next plain := rfl
theorem test_meets_OtherCommandsLeaveTheClock : writesClock (.boot) = false := by decide

/-- R37: a boundary adds one to the counter, so a step answers with the bounds kept. -/
theorem test_meets_StrokeBoundsKept :
    strokeBounds plain.strokes = true ∧ ∃ t, step { plain with pending := [.alignmentLock] } = .next t := ⟨by decide, _, rfl⟩
theorem test_meets_CounterNeverFalls :
    (∃ t, step { plain with pending := [.sourceLoss] } = .next t) ∧ ({ clock with split := true } : Strokes).split = true :=
  ⟨⟨_, rfl⟩, rfl⟩

theorem test_meets_BoundaryCounts :
    plain.strokes.split = false ∧ joins plain.strokes plain.mach 0 obs.aligned = false ∧ mayTick plain.strokes plain.mach 0 = true ∧
    windowRuns plain.mach = true ∧ mayTick State.reset.strokes State.reset.mach 0 = false ∧
    joins State.reset.strokes State.reset.mach 0 true = false ∧
    windowRuns { running with power := { running.power with state := 4 } } = false ∧
    mayTick clock { running with power := { running.power with state := 4 } } 0 = true ∧
    joins clock { running with power := { running.power with state := 4 } } 0 true = false ∧ clock.adopt = false := by decide

/-- R39: with no change armed the period stays. -/
theorem test_tick_period : (tick clock 0 2000000 true true).period = 250 ∧ (tick clock 0 2000000 true true).counter = 8 := by decide
/-- R39: a change armed for stroke 8 takes effect at its boundary, one armed for stroke 9 does not. -/
theorem test_tick_armed :
    (tick { clock with armed := some (300, 8) } 0 2000000 true true).period = 300 ∧
      (tick { clock with armed := some (300, 9) } 0 2000000 true true).period = 250 := by decide

def inWindow : State := { plain with strokes := { clock with inWindow := true } }
def calmWindow : State := { inWindow with mach := { running with cores := [(0, coreWith Ctx.reset)] } }

theorem test_meets_WindowEnds :
    plain.strokes.inWindow = false ∧ plain.strokes.split = false ∧ calmWindow.strokes.inWindow = true ∧
      calmWindow.strokes.split = false ∧ boundaryQuiet calmWindow.mach = true := by decide

theorem test_meets_PeriodAndWindowWrites :
    writeReaches plain (.window 0) 0x0A00 2 true = true ∧ writeReaches plain (.can 0 9) 0x0A00 4 true = true ∧
    (10 ≤ 10 ∧ 10 ≤ 65535 ∧ (∀ p ∈ [clock.period, 10], ∀ w ∈ windowsOf clock, 2 * w < p)) ∧
    ¬(10 ≤ 9 ∧ 9 ≤ 65535 ∧ (∀ p ∈ [clock.period, 9], ∀ w ∈ windowsOf clock, 2 * w < p)) ∧
    (4 ≤ 32 ∧ 32 ≤ 32 ∧ (∀ p ∈ periodsOf clock, ∀ w ∈ [32, clock.window], 2 * w < p)) ∧
    ¬(4 ≤ 33 ∧ 33 ≤ 32 ∧ (∀ p ∈ periodsOf clock, ∀ w ∈ [33, clock.window], 2 * w < p)) := by decide

def follower (mode : Nat) : Strokes := { clock with align := { AlignCtl.reset with mode := mode }, alignState := 1, good := 8, missing := 3 }
def linkUpMach : Mach := { running with fabric := { running.fabric with deviceId := 5, links := [(0, { Link.reset with state := 2, peer := 6 })] } }

theorem test_meets_FollowerEvents :
    listens (follower 2) running 2 = true ∧ (follower 2).lastEdge = none ∧ listens (follower 3) linkUpMach 3 = true ∧
    Variant.full.hasLink 0 = true ∧ (linkUpMach.link 0).state = 2 ∧ (follower 3).source = none ∧
    follows (follower 3).align = true ∧ (follower 3).alignState = 1 ∧ 8 ≤ (follower 3).good ∧ (follower 3).periodMismatch = false ∧
    (follower 3).align.lossCount ≤ (follower 3).missing := by decide

/-- R550: an edge is 5 µs behind the last one at the earliest. -/
theorem test_edge_spacing :
    ∀ t, ({ follower 2 with lastEdge := some 1000 } : Strokes).lastEdge = some t → t + 5000 ≤ 6000 := by decide

/-! ### Commands of a command stream -/

/-- Table 0: 16 embedding rows of 16 FP32 values; table 1: an adjacency of 16 rows; table 2: 16 rows of 32 values of 16 bits. -/
def tables : DieTables :=
  { DieTables.reset with
    region := 0x100000
    slots := [(0, { Slot.reset with set := true, desc := 1 + 64 * 2 ^ 16 + 16 * 2 ^ 128 + 64 * 2 ^ 176 }),
              (1, { Slot.reset with set := true, desc := 2 + 16 * 2 ^ 128 }),
              (2, { Slot.reset with set := true, desc := 1 + 256 + 64 * 2 ^ 16 + 16 * 2 ^ 128 + 64 * 2 ^ 176 })] }

/-- The same with tables, and with context 2 as the last to have issued a `PRELOAD`. -/
def tabled : State :=
  up { running with
    cores := [(0, { coreWith runner with arr := { ArrayUnit.reset with preloaded := [2] } })]
    tables := { Tables.reset with die0 := tables, die1 := tables } }

/-- Context 2 issues `w`, it decodes, its checks find nothing, its unit has room, and nobody is pre-empted. -/
abbrev accepted (s : State) (op : Nat) (w : Word) (bad : Option Nat) : Prop :=
  dispatches s 0 2 op w = true ∧ bad = none ∧ unitBlocked (issuedMach s 0 2 w) 0 2 (issuedWord s 0 2 w) = false ∧
    nobodyPreempted (issuedMach s 0 2 w) 0 2 (issuedWord s 0 2 w) = true

abbrev arrayBad (s : State) (w : Word) : Option Nat := firstBad (arrayChecks s.env (issuedMach s 0 2 w) 0 2 (issuedWord s 0 2 w))
abbrev vectorBad (s : State) (w : Word) : Option Nat := firstBad (vecChecks s.env (issuedMach s 0 2 w) (issuedWord s 0 2 w))
abbrev gatherBad (s : State) (w : Word) : Option Nat := firstBad (gatChecks s.env (issuedMach s 0 2 w) 0 2 (issuedWord s 0 2 w))
abbrev scribeBad (s : State) (w : Word) : Option Nat := firstBad (scrChecks s.env (issuedMach s 0 2 w) 0 (issuedWord s 0 2 w))
abbrev gatherReads (s : State) (w : Word) : Option Nat := trayBad (issuedMach s 0 2 w) 0 (gatCheckReads (issuedWord s 0 2 w))
abbrev scribeReads (s : State) (w : Word) : Option Nat := trayBad (issuedMach s 0 2 w) 0 (scrCheckReads (issuedWord s 0 2 w))

/-- One row, column and slice of native operands. -/
def wPass : Word := cmd 0x10 [(64, 1), (72, 1), (81, 1)]
def wPreload : Word := cmd 0x11 [(64, 1), (72, 1)]
def vec (op typ : Nat) : Word :=
  cmd op [(72, typ), (76, typ), (80, 0), (99, 8), (118, 16), (137, 32), (156, 1), (180, 1), (196, 1), (212, 1), (278, 0x400)]
def wGather : Word := cmd 0x30 [(96, 0), (153, 64), (172, 1), (188, 0x800), (246, 1)]
def wPool : Word := cmd 0x31 [(76, 1), (115, 1), (153, 64), (172, 1), (188, 0x800), (230, 1)]
def wSample : Word := cmd 0x32 [(64, 1), (115, 1), (134, 2), (172, 1), (188, 0x800), (211, 1)]
def wMerge (op : Nat) : Word :=
  cmd op [(96, 0), (115, 16), (134, 32), (153, if op = 0x33 then 64 else 0), (172, 1), (188, 0x800), (211, 1),
          (226, if op = 0x33 then 1 else 0)]
def wSearch : Word :=
  cmd 0x40 [(64, 2), (76, 1), (88, 1), (96, 1), (109, 1), (120, 1), (128, 1), (160, 0), (179, 0x400), (198, 0x800), (217, 0x8000),
            (236, 0x100000)]
def wExpand : Word := cmd 0x41 [(64, 1), (76, 1), (96, 0), (134, 16), (172, 1), (236, 0x800)]
def wApply : Word := cmd 0x42 [(76, 1), (128, 0x10000), (180, 16), (247, 0x800)]

theorem test_meets_ArrayCommandsIssue :
    accepted tabled 0x10 wPass (arrayBad tabled wPass) ∧ accepted tabled 0x11 wPreload (arrayBad tabled wPreload) ∧
    accepted tabled 0x12 (cmd 0x12 []) (arrayBad tabled (cmd 0x12 [])) ∧ accepted tabled 0x13 (cmd 0x13 []) (arrayBad tabled (cmd 0x13 [])) := by
  decide +kernel

theorem test_meets_VectorCommandsIssue :
    (∀ op ∈ [0x20, 0x21, 0x22, 0x23, 0x24, 0x25], accepted plain op (vec op 0) (vectorBad plain (vec op 0))) ∧
    accepted plain 0x26 (vec 0x26 10) (vectorBad plain (vec 0x26 10)) ∧ accepted plain 0x27 (vec 0x27 0) (vectorBad plain (vec 0x27 0)) := by
  decide +kernel

/-- The tables with the window of die 0's half open. -/
def tabledIn : State := { tabled with strokes := { clock with inWindow := true } }

abbrev heldBack (s : State) (op : Nat) (w : Word) (bad reads : Option Nat) : Prop :=
  dispatches s 0 2 op w = true ∧ reads = none ∧ bad = none ∧ windowAt s.strokes (dieOf 0) = true ∧ fld (issuedWord s 0 2 w) 7 0 ≠ 0x34

theorem test_meets_GatherCommandsIssue :
    (∀ p ∈ [(0x30, wGather), (0x31, wPool), (0x32, wSample), (0x33, wMerge 0x33), (0x34, wMerge 0x34)],
      accepted tabled p.1 p.2 (gatherBad tabled p.2) ∧ gatherReads tabled p.2 = none) ∧
    (∀ p ∈ [(0x30, wGather), (0x31, wPool), (0x32, wSample), (0x33, wMerge 0x33)],
      heldBack tabledIn p.1 p.2 (gatherBad tabledIn p.2) (gatherReads tabledIn p.2)) ∧ windowAt clock (dieOf 0) = false := by
  decide +kernel

theorem test_meets_TraversalCommandsIssue :
    (∀ p ∈ [(0x40, wSearch), (0x41, wExpand), (0x42, wApply)],
      accepted tabled p.1 p.2 (scribeBad tabled p.2) ∧ scribeReads tabled p.2 = none) ∧
    (∀ p ∈ [(0x40, wSearch), (0x41, wExpand), (0x42, wApply)],
      heldBack tabledIn p.1 p.2 (scribeBad tabledIn p.2) (scribeReads tabledIn p.2)) := by
  decide +kernel

/-- CLASS 1 is refused with BOUNDS (R80 and its siblings). -/
theorem test_meets_EngineCommandsRejected :
    (∀ op ∈ [0x10, 0x11, 0x12, 0x13], dispatches plain 0 2 op (cmd op [(17, 1)]) = true ∧ arrayBad plain (cmd op [(17, 1)]) = some 1) ∧
    (∀ op ∈ [0x20, 0x21, 0x22, 0x23, 0x24, 0x25, 0x26, 0x27],
      dispatches plain 0 2 op (cmd op [(17, 1)]) = true ∧ vectorBad plain (cmd op [(17, 1)]) = some 1) ∧
    (∀ op ∈ [0x30, 0x31, 0x32, 0x33, 0x34], dispatches plain 0 2 op (cmd op [(17, 1)]) = true ∧
      gatherReads plain (cmd op [(17, 1)]) = none ∧ gatherBad plain (cmd op [(17, 1)]) = some 1) ∧
    (∀ op ∈ [0x40, 0x41, 0x42], dispatches plain 0 2 op (cmd op [(17, 1)]) = true ∧ scribeReads plain (cmd op [(17, 1)]) = none ∧
      scribeBad plain (cmd op [(17, 1)]) = some 1) := by
  decide +kernel

abbrev controlBad (s : State) (w : Word) : Option Nat := firstBad (controlChecks (issuedWord s 0 2 w))

/-- A Chisel command of context 2 that runs: the context's earlier commands are not complete. -/
def busy : State := at0 (fun x => { x with vec := [engCmd plain.env 0 2 (vec 0x20 0) []] })

def wLoop (n : Nat) : Word := cmd 0x71 [(64, n), (96, 1)]

theorem test_meets_ControlCommands :
    (∀ op ∈ [0x70, 0x72, 0x73, 0x74], dispatches plain 0 2 op (cmd op []) = true ∧ controlBad plain (cmd op []) = none) ∧
    (∀ n ∈ [0, 1], dispatches plain 0 2 0x71 (wLoop n) = true ∧ controlBad plain (wLoop n) = none ∧ ctCount (issuedWord plain 0 2 (wLoop n)) = n ∧
      loopFits ((issuedMach plain 0 2 (wLoop n)).ctx 0 2) (ctBody (issuedWord plain 0 2 (wLoop n))) = true) ∧
    fenceMet (issuedMach plain 0 2 (cmd 0x72 [])) 0 2 = true ∧
    dispatches busy 0 2 0x72 (cmd 0x72 []) = true ∧ fenceMet (issuedMach busy 0 2 (cmd 0x72 [])) 0 2 = false ∧
    ((issuedMach plain 0 2 (cmd 0x74 [])).arr 0).active.any (fun t => t.ctx == 2) = false ∧
    ((issuedMach plain 0 2 (cmd 0x74 [])).ctx 0 2).serving = false ∧ fenceMet (issuedMach plain 0 2 (cmd 0x74 [])) 0 2 = true := by
  decide +kernel

/-- Clamp 9 of core 0 in a state, with counter 5 and owner 2. -/
def clamped (st : ClampState) : State :=
  at0 (fun x => { x with clamps := [(9, { state := st, counter := 5, owner := 2, waiters := [] })] })

def wClamp (op value flags : Nat) : Word := cmd op [(8, flags), (64, 9), (128, value)]

abbrev clampGoes (s : State) (op : Nat) (w : Word) (st : ClampState) : Prop :=
  dispatches s 0 2 op w = true ∧ firstBad (clampChecks 0 (issuedWord s 0 2 w)) = none ∧
    ((issuedMach s 0 2 w).clamp 0 (clIndex (issuedWord s 0 2 w))).state = st ∧
    ((issuedMach s 0 2 w).clamp 0 (clIndex (issuedWord s 0 2 w))).owner = 2 ∧
    ((issuedMach s 0 2 w).clamp 0 (clIndex (issuedWord s 0 2 w))).counter = 5 ∧
    ((issuedMach s 0 2 w).clamp 0 (clIndex (issuedWord s 0 2 w))).waiters = []

theorem test_meets_ClampCommands :
    clampGoes (clamped .free) 0x60 (wClamp 0x60 5 0) .free ∧ clampGoes (clamped .owned) 0x61 (wClamp 0x61 1 0) .owned ∧
    Variant.full.hasCore 0 = true ∧ coreFenced (clamped .owned).mach 0 = false ∧
    clampGoes (clamped .owned) 0x62 (wClamp 0x62 5 0) .owned ∧ clampGoes (clamped .owned) 0x62 (wClamp 0x62 5 2) .owned ∧
    clConsume (wClamp 0x62 5 2) = true ∧ clConsume (wClamp 0x62 5 0) = false ∧ clValue (wClamp 0x62 6 0) = 6 ∧
    clampGoes (clamped .owned) 0x62 (wClamp 0x62 6 0) .owned := by
  decide +kernel

theorem test_meets_ClampCommands_rest :
    clampGoes (clamped .owned) 0x63 (wClamp 0x63 0 0) .owned ∧
    clampGoes (clamped .owned) 0x64 (wClamp 0x64 0 0) .owned ∧ clampGoes (clamped .owned) 0x65 (wClamp 0x65 0 0) .owned ∧
    clampGoes (clamped .free) 0x62 (wClamp 0x62 0 0) .free ∧ clampGoes (clamped .broken) 0x62 (wClamp 0x62 0 0) .broken := by
  decide +kernel

/-- R331: the image of an OWNED clamp with counter 5, owner 2 and context 3 waiting. -/
theorem test_clamp_image :
    clampImage { state := .owned, counter := 5, owner := 2, waiters := [{ ctx := 3, value := 9, consume := false }] } =
      [5, 0, 0, 0, 0, 0, 0, 0, 1, 2, 8, 0, 0, 0, 0, 0] := by decide

def emptyHandle : Handle := { buffer := 0, length := 0, last := false, cancelled := false, poisoned := false, tag := 0 }
def handleIn : Entry := { h := emptyHandle, origin := none, spent := false, generated := false, maker := none }

/-- Rail 0 takes from context 2, rail 1 from streams; both use pool 0 of `n` buffers. Context 2 holds a taken buffer in slot 1. -/
def railed (n : Nat) (full : Nat) (handles : List Entry) : State :=
  up { running with cores := [(0, { coreWith { runner with hslots := [(1, { h := emptyHandle, taken := true, rail := 0 })] } with
    rails := [(0, { Rail.reset with consumer := some 2, prodIsContext := true, entries := List.replicate full handleIn }),
              (1, { Rail.reset with consumer := some 2, entries := handles })]
    pools := [(0, { base := 0x10000, sizeLog2 := 12, count := n, used := [] })] })] }

/-- The rail, handle slot and further fields. -/
def wRail (op r slot : Nat) (fs : List (Nat × Nat)) : Word := cmd op ([(64, r), (69, slot)] ++ fs)

abbrev railGoes (s : State) (op : Nat) (w : Word) : Prop := dispatches s 0 2 op w = true ∧ rlHead (issuedWord s 0 2 w) = false

theorem test_meets_RailCommands :
    (let s := railed 2 63 [handleIn]
     railGoes s 0x68 (wRail 0x68 0 3 []) ∧ patchesOk (wRail 0x68 0 3 []) = true ∧ notProducer s.mach 0 2 0 = false ∧
     hslotOf s.mach 0 2 3 = none ∧ mayTake s.mach 0 0 = true ∧
     railGoes s 0x69 (wRail 0x69 0 1 [(128, 4096)]) ∧ rlLength (wRail 0x69 0 1 [(128, 4096)]) ≤ 2 ^ (s.mach.pool 0 0).sizeLog2 ∧
     (hslotOf s.mach 0 2 1).any (fun y => y.taken && y.rail == 0) = true ∧ (s.mach.rail 0 0).entries.length < 64 ∧
     railGoes s 0x6A (wRail 0x6A 1 3 []) ∧ (s.mach.rail 0 1).consumer = some 2 ∧
     (s.mach.rail 0 1).entries = [handleIn] ∧ railGoes s 0x6B (wRail 0x6B 0 1 []) ∧
     railGoes s 0x6C (wRail 0x6C 4 0 [(76, 2)]) ∧ railBusy s.mach 0 2 4 = false ∧
     railGoes s 0x6C (wRail 0x6C 4 0 [(84, 1)]) ∧ rlUnbind (wRail 0x6C 4 0 [(84, 1)]) = true ∧
     (((railsOf s.mach 0 0).filter (fun q => q.1 != 4)).map (fun q => q.2.floor)).sum + 2 ≤ (s.mach.pool 0 0).count ∧
     (let w := wRail 0x6D 0 0 [(72, 3), (115, 20), (120, 32)]
      railGoes s 0x6D w ∧ rlPool w = 3 ∧ rlCount w = 32 ∧ rlSize w = 20 ∧ railsOf s.mach 0 3 = [] ∧
        beyondTray (rlBase w) (rlCount w * 2 ^ rlSize w) = false)) := by
  decide +kernel

theorem test_meets_RailWaits :
    (let s := railed 0 64 []
     railGoes s 0x68 (wRail 0x68 0 3 []) ∧ mayTake s.mach 0 0 = false ∧ railGoes s 0x69 (wRail 0x69 0 1 [(128, 1)]) ∧
     64 ≤ (s.mach.rail 0 0).entries.length ∧ railGoes s 0x6A (wRail 0x6A 1 3 []) ∧ (s.mach.rail 0 1).consumer = some 2 ∧
     (s.mach.rail 0 1).entries = [] ∧ (s.mach.rail 0 1).prodStream = none ∧ hslotOf s.mach 0 2 3 = none ∧
     notProducer s.mach 0 2 0 = false ∧ hslotOf s.mach 0 2 1 = some { h := emptyHandle, taken := true, rail := 0 }) := by
  decide +kernel

/-- A stream of no blocks to rail 1 of core 0; `kind` 2 reads by table 0. -/
def wStream (kind : Nat) : Word := cmd 0x50 [(9, 1), (17, if kind = 2 then 1 else 0), (64, 3), (68, kind), (88, 1), (256, 1)]

/-- The persistent stream of `wStream` in slot 3. -/
def streamOf (active : Bool) : Stream :=
  { ctx := 2, w := wStream 0, srcBases := [], dstBases := [], dstBase := 0, active := active, bound := none, stroke := 7,
    src := { blk := 0, occ := 0, off := 0 }, dst := { blk := 0, occ := 0, off := 0 }, gen := 1, relays := [], filling := [],
    rearmHeld := none, retirePending := false, cancel := none, tags := 0, counts := countsReset, poisoned := false, badWord := 0,
    resumed := false, late := false, flight := [], flightPoison := false, stageAt := 0, staged := 0, faulted := false }

/-- The rails, tables and, when given, the stream of slot 3; strokes as given. -/
def streaming (k : Strokes) (early : List Word) (y : Option Stream) : State :=
  { up { running with
      cores := [(0, { coreWith { runner with early := early } with
        rails := [(1, { Rail.reset with consumer := some 2 })]
        pools := [(0, { base := 0x10000, sizeLog2 := 12, count := 2, used := [] })]
        streams := match y with | some x => [(3, x)] | none => [] })]
      tables := { Tables.reset with die0 := tables, die1 := tables } } with strokes := k }

abbrev streamBad (s : State) (w : Word) : Option Nat := firstBad (streamChecks s.env (issuedMach s 0 2 w) 0 2 (issuedWord s 0 2 w))
abbrev rearmBad (s : State) (w : Word) : Option Nat := firstBad (rearmChecks (issuedMach s 0 2 w) 0 2 (issuedWord s 0 2 w))

theorem test_meets_StreamCommands :
    (let s := streaming clock [wStream 0] none
     dispatches s 0 2 0x50 (wStream 0) = true ∧ ((issuedMach s 0 2 (wStream 0)).ctx 0 2).early.contains (wStream 0) = true) ∧
    (let s := streaming { clock with inWindow := true } [] none
     dispatches s 0 2 0x50 (wStream 2) = true ∧ streamBad s (wStream 2) = none ∧ stSrcKind (wStream 2) = 2 ∧
       windowAt s.strokes (dieOf 0) = true ∧ ((issuedMach s 0 2 (wStream 2)).ctx 0 2).early.contains (wStream 2) = false) ∧
    (let s := streaming clock [] none
     dispatches s 0 2 0x50 (wStream 0) = true ∧ streamBad s (wStream 0) = none ∧ unitBlocked (issuedMach s 0 2 (wStream 0)) 0 2 (wStream 0) = false) ∧
    (∀ a : Bool, let s := streaming clock [] (some (streamOf a))
      (dispatches s 0 2 0x51 (cmd 0x51 [(64, 3)]) = true ∧ rearmBad s (cmd 0x51 [(64, 3)]) = none) ∧
      (dispatches s 0 2 0x52 (cmd 0x52 [(64, 3)]) = true ∧ rearmBad s (cmd 0x52 [(64, 3)]) = none) ∧
      (dispatches s 0 2 0x53 (cmd 0x53 [(64, 3)]) = true ∧ rearmBad s (cmd 0x53 [(64, 3)]) = none) ∧
      slotAwaited (issuedMach s 0 2 (cmd 0x51 [(64, 3)])) 0 2 3 = false ∧
      persistentOf (issuedMach s 0 2 (cmd 0x51 [(64, 3)])) 0 2 3 = some (streamOf a) ∧ (streamOf a).rearmHeld = none) ∧
    (let y : Stream := { streamOf false with w := wStream 2 }
     let s := streaming { clock with inWindow := true } [] (some y)
     dispatches s 0 2 0x51 (cmd 0x51 [(64, 3)]) = true ∧ rearmBad s (cmd 0x51 [(64, 3)]) = none ∧
       persistentOf (issuedMach s 0 2 (cmd 0x51 [(64, 3)])) 0 2 3 = some y ∧ stSrcKind y.w = 2 ∧
       flag (issuedWord s 0 2 (cmd 0x51 [(64, 3)])) 72 = false ∧ windowAt s.strokes (dieOf 0) = true) := by
  decide +kernel

/-- Nothing waits in the states of the tests above. -/
theorem test_meets_CommandsInQuiet :
    quiet (issuedMach plain 0 2 (cmd 0x70 [])) = true ∧ quiet (issuedMach plain 0 2 (cmd 0x72 [])) = true ∧
    quiet (issuedMach plain 0 2 (cmd 0x73 [])) = true ∧ quiet (issuedMach (clamped .free) 0 2 (wClamp 0x60 5 0)) = true ∧
    quiet (issuedMach (clamped .owned) 0 2 (wClamp 0x64 0 0)) = true ∧ quiet (issuedMach (clamped .owned) 0 2 (wClamp 0x65 0 0)) = true ∧
    quiet (issuedMach plain 0 2 (wRail 0x6D 0 0 [(72, 3), (115, 20), (120, 32)])) = true ∧
    (∀ op ∈ [0x20, 0x21, 0x22, 0x23, 0x24, 0x25, 0x27], quiet (issuedMach plain 0 2 (vec op 0)) = true) ∧
    quiet (issuedMach plain 0 2 (vec 0x26 10)) = true := by
  decide +kernel


/-! ### The engines and HBM -/

def qPass : ArrCmd := { ctx := 2, w := wPass, stroke := 7 }
def qGoOn : ArrCmd := { qPass with w := wPass ||| 0x100#512 }
def pre : Preload := { ctx := 2, w := wPreload, loaded := true, values := [], after := false }
def tile : Tile := tileFrom pre wPass 2

def arrayed (f : ArrayUnit → ArrayUnit) : State := at0 (fun x => { x with arr := f x.arr })

theorem test_meets_ArrayEvents_fill :
    (let s := arrayed (fun a => { a with queue := [qPass], preload := some pre })
     coreClocked s.env s.mach 0 = true ∧ (s.mach.arr 0).queue = [qPass] ∧ fld qPass.w 7 0 = 0x10 ∧ psEmpty qPass.w = false ∧
       setsQuiet (s.mach.arr 0) = true ∧ 0 < arrayClass s.mach 0 ∧ psContinue qPass.w = false ∧ (s.mach.arr 0).preload = some pre) ∧
    (let s := arrayed (fun a => { a with queue := [qGoOn], active := some tile })
     coreClocked s.env s.mach 0 = true ∧ (s.mach.arr 0).queue = [qGoOn] ∧ fld qGoOn.w 7 0 = 0x10 ∧ psEmpty qGoOn.w = false ∧
       setsQuiet (s.mach.arr 0) = true ∧ 0 < arrayClass s.mach 0 ∧ psContinue qGoOn.w = true ∧ (s.mach.arr 0).active = some tile) := by
  decide +kernel

/-- The set that `SWAP` made active streams too; a preload that a drain overwrites reads before it. -/
theorem test_meets_ArrayEvents_raw :
    (let s := arrayed (fun a => { a with queue := [qGoOn], activeRaw := some pre })
     (s.mach.arr 0).queue = [qGoOn] ∧ setsQuiet (s.mach.arr 0) = true ∧ 0 < arrayClass s.mach 0 ∧ (s.mach.arr 0).active = none ∧
       (s.mach.arr 0).activeRaw = some pre) ∧
    (let w := cmd 0x11 [(64, 1), (72, 1), (81, 2), (147, 1)]
     let s := arrayed (fun a => { a with draining := some tile, preload := some { pre with w := w, loaded := false } })
     coreClocked s.env s.mach 0 = true ∧ readsHeld (s.mach.arr 0) (preloadReads w) = true ∧ trayBad s.mach 0 (preloadReads w) = none ∧
       readsHeld (s.mach.arr 0) [(64, 64)] = false) := by
  decide +kernel

theorem test_meets_ArrayEvents_rest :
    (let s := arrayed (fun a => { a with streaming := some { cmd := qPass, streamed := 0 }, active := some tile })
     coreClocked s.env s.mach 0 = true ∧ 0 < arrayClass s.mach 0 ∧
       readsHeld (s.mach.arr 0) (passReads wPass 0 (psShare wPass)) = false ∧ (s.mach.ctx 0 2).saving.contains .array = false ∧
       trayBad s.mach 0 (passReads wPass 0 (psShare wPass)) = none) ∧
    (let s := arrayed (fun a => { a with preload := some { pre with loaded := false } })
     coreClocked s.env s.mach 0 = true ∧ readsHeld (s.mach.arr 0) (preloadReads wPreload) = false ∧
       trayBad s.mach 0 (preloadReads wPreload) = none) ∧
    (let s := arrayed (fun a => { a with draining := some tile })
     coreClocked s.env s.mach 0 = true ∧ (s.mach.arr 0).draining = some tile) := by
  decide +kernel

/-- A command of no rows, started, at the head of each engine. -/
def headed : State :=
  at0 (fun x => { x with
    vec := [{ engCmd plain.env 0 2 (cmd 0x20 [(72, 0), (278, 0x400)]) [] with started := true }]
    gat := [{ engCmd plain.env 0 2 (cmd 0x30 []) [] with started := true }]
    scr := [{ engCmd plain.env 0 2 (cmd 0x42 []) [] with started := true }] })

/-- Core 0 with `x` at the head of an engine, past its start. -/
def heading (en : Engine) (x : EngCmd) : State := at0 (fun y => setQueue en [x] y)
where
  setQueue (en : Engine) (xs : List EngCmd) (y : Core) : Core :=
    match en with
    | .chisel => { y with vec := xs }
    | .marquetry => { y with gat := xs }
    | _ => { y with scr := xs }

def begun (w : Word) (item : Nat) : EngCmd := { engCmd plain.env 0 2 w [] with started := true, item := item }

abbrev atHead (en : Engine) (x : EngCmd) : Prop :=
  coreClocked (heading en x).env (heading en x).mach 0 = true ∧ x.started = true ∧ engQueue (heading en x).mach 0 en = [x] ∧
    ((heading en x).mach.ctx 0 x.ctx).saving.contains en = false ∧
    ((heading en x).mach.core 0).trayErr.all (fun p => decide (p.2 < 2)) = true

/-- A query that has stopped, the one of its `SEARCH`. -/
def stoppedQuery : Query :=
  { heap := [], results := [], expansions := 0, evaluated := 0, poisoned := false, dropped := false, nonfinite := false, sat := false,
    inexact := false, stop := some 1 }
def searched : SearchRun :=
  { holds := true, rows := [], qs := [stoppedQuery], round := 1, todo := [], ids := [], pend := [], batch := [], cols := 0 }

theorem test_meets_EngineCommandsEnd_tray :
    atHead .chisel (begun (vec 0x20 0) 0) ∧ atHead .chisel (begun (vec 0x23 0) 1) ∧ atHead .chisel (begun (vec 0x23 0) 0) ∧
    vcRows (vec 0x23 0) = 0 + 1 ∧ trayNat (heading .chisel (begun (vec 0x23 0) 0)).mach 0 (stateAt (vec 0x23 0) 0 + 8) 4 = vcPos (vec 0x23 0) ∧
    trayNat (heading .chisel (begun (vec 0x23 0) 0)).mach 0 (stateAt (vec 0x23 0) 0 + 12) 4 ≤ 4194304 ∧
    (∀ p ∈ [(wGather, 1), (wPool, 1), (wSample, 1), (wMerge 0x33, 1), (wMerge 0x34, 1)],
      atHead .marquetry (begun p.1 p.2) ∧ engFresh (begun p.1 p.2) = false ∧
        ((heading .marquetry (begun p.1 p.2)).mach.core 0).merge.all (fun q => decide (q.tags.length < 2 ^ 32)) = true) ∧
    gtIndices wGather ≤ 1 ∧ gtBags wPool ≤ ({ begun wPool 1 with pos := 1 } : EngCmd).pos ∧ smVertices wSample ≤ 1 ∧
    (∀ p ∈ [(wExpand, 1), (wApply, 1), (wSearch, 1)], atHead .scribe (begun p.1 p.2) ∧ engFresh (begun p.1 p.2) = false) ∧
    exCount wExpand ≤ 1 ∧ apInCount wApply ≤ 1 ∧ scQueries (cmd 0x40 []) = 0 ∧ (begun (cmd 0x40 []) 1).search = none ∧
    atHead .scribe { begun wSearch 1 with search := some searched } ∧ searched.qs.all (fun z => z.stop.isSome) = true := by
  decide +kernel

theorem test_meets_EngineCommandsEnd :
    coreClocked headed.env headed.mach 0 = true ∧
    ∀ en ∈ [Engine.chisel, .marquetry, .scribe],
      (match engQueue headed.mach 0 en with
       | x :: _ => x.started && !(headed.mach.ctx 0 x.ctx).saving.contains en && ((engRun headed.env headed.mach 0 en (2 ^ 64) x).2.2 == .done)
       | [] => false) = true := by
  decide +kernel

def savingWith (es : List Engine) (a : ArrayUnit → ArrayUnit) : State :=
  at0 (fun x => { x with ctxs := [(2, { runner with saving := es})], arr := a x.arr })

abbrev waitsFor (s : State) (en : Engine) : Prop := (List.range 16).find? (fun j => (s.mach.ctx 0 j).saving.contains en) = some 2

theorem test_meets_EngineSaves :
    (let s := savingWith [.array] (fun a => { a with active := some tile })
     waitsFor s .array ∧ (s.mach.arr 0).draining = none ∧ (s.mach.arr 0).streaming = none ∧ (s.mach.arr 0).active = some tile) ∧
    (let s := savingWith [.array, .chisel, .marquetry, .scribe, .batten] (fun a => { a with activeRaw := some pre })
     waitsFor s .array ∧ (s.mach.arr 0).draining = none ∧ (s.mach.arr 0).streaming = none ∧ (s.mach.arr 0).active = none ∧
     (∀ en ∈ [Engine.chisel, .marquetry, .scribe], waitsFor s en ∧ (saveEngine s.env s.mach 0 2 en 0).2 = true ∧
        (mergeHolder (saveEngine s.env s.mach 0 2 en 0).1 0).contains 2 = false ∧ (mergeHolder s.mach 0).contains 2 = false) ∧
     waitsFor s .batten ∧ (s.mach.core 0).streams.any (fun p => p.2.ctx == 2 && p.2.cancel.isSome) = false) := by
  decide +kernel

/-- A running pass whose slice can be read, and running commands that save at once. -/
theorem test_meets_EngineSaves_running :
    (let s := savingWith [.array] (fun a => { a with active := some tile, streaming := some { cmd := qPass, streamed := 0 } })
     waitsFor s .array ∧ (s.mach.arr 0).draining = none ∧ (s.mach.arr 0).streaming = some { cmd := qPass, streamed := 0 } ∧
       (s.mach.arr 0).active = some tile ∧ trayBad s.mach 0 (passReads wPass 0 (min (psShare wPass) (0 + toBoundary wPass 1))) = none) ∧
    (∀ en ∈ [Engine.chisel, .marquetry, .scribe],
      let s : State := { savingWith [en] id with mach := setEngQueue (savingWith [en] id).mach 0 [begun (vec 0x20 0) 0] en }
      waitsFor s en ∧ engQueue s.mach 0 en = [begun (vec 0x20 0) 0]) := by
  decide +kernel

/-- HBM with granule `g` on the given side. -/
def sided (sd : Side) : State := { plain with mach := setSide running 64 sd }

theorem test_meets_GranuleReturns :
    hbmServes plain.mach 4096 = true ∧ checkGranule plain.mach (granule 4096) false = .pass ∧
    hbmServes (sided .detect).mach 4096 = true ∧ checkGranule (sided .detect).mach (granule 4096) true = .pass ∧
    checkGranule (sided .detect).mach (granule 4096) false = .bad ∧
    hbmServes (sided .poison).mach 4096 = true ∧ checkGranule (sided .poison).mach (granule 4096) false = .poison ∧
    (inSecond (nsAt clock 0) 0 0).1 < plain.mach.hbm.retrainLimit ∧
    ({ running with hbm := { running.hbm with retrainLimit := 1 } } : Mach).hbm.retrainLimit ≤ (inSecond (nsAt clock 0) 0 0).1 := by
  decide +kernel

theorem test_meets_HbmWriteStores :
    (∀ sd ∈ [Side.protect, .detect, .poison],
      let m := (sided sd).mach
      hbmServes m 4096 = true ∧ winOf 4096 = 0 ∧ (m.stack (stackOf 4096)).pairB = 255 ∧ Memory.wf m.hbm.cells = true) ∧
    4096 % 64 = 0 ∧ (List.replicate 64 (1 : Byte)).length = 64 ∧
    4100 % 64 + [(1 : Byte), 2].length ≤ 64 ∧ 4159 % 64 + [(1 : Byte)].length ≤ 64 ∧
    checkGranule (sided .protect).mach (granule 4100) false = .pass ∧ checkGranule (sided .poison).mach (granule 4100) false = .poison ∧
    checkGranule (sided .detect).mach (granule 4100) false = .bad := by
  decide +kernel

theorem test_meets_GlueWrites :
    ∀ p ∈ [(1, 4), (2, 2), (3, 4), (4, 8), (5, 8)],
      let pa := p.1 * 2 ^ 40 + 4096
      (∀ sd ∈ [Side.protect, .detect, .poison],
        let m := (sided sd).mach
        hbmServes m pa = true ∧ glueAligned p.1 pa p.2 = true ∧ p.2 = glueSize p.1 ∧ lostBlock m pa = false ∧
          lostBlock m (64 * granule pa) = false) ∧
      (sided .protect).variant.train = true ∧ checkGranule (sided .protect).mach (granule pa) false = .pass ∧
      checkGranule (sided .poison).mach (granule pa) false = .poison ∧ checkGranule (sided .detect).mach (granule pa) false = .bad := by
  decide +kernel

theorem test_meets_GlueRefused :
    ({ plain with variant := { Variant.full with train := false } } : State).variant.train = false ∧ plain.variant.train = true ∧
    plain.mach.hbm.on = true ∧ plain.mach.hbm.selfRefresh = false ∧
    ∀ p ∈ [1, 2, 3, 4, 5], hbmServes plain.mach (p * 2 ^ 40 + 4097) = true ∧ glueAligned p (p * 2 ^ 40 + 4097) 1 = false := by
  decide +kernel

theorem test_meets_LanesAndPairs :
    running.hbm.on = true ∧
    ((running.modStack 15 (fun x => { x with training := [31] })).stack 15).training.contains 31 = true ∧
    (running.stack 15).pairA = 255 ∧ (running.stack 15).pairB = 255 ∧
    (let m := running.modStack 15 (fun x => { x with pairA := 30, evacuating := true })
     (m.stack 15).pairA ≠ 255 ∧ (m.stack 15).pairA ≠ 31 ∧ (m.stack 15).pairB = 255 ∧
     (m.stack 15).more.contains 31 = false ∧
     (let m3 := m.modStack 15 (fun x => { x with pairB := 29, training := [31] })
      (m3.stack 15).training.contains 31 = true ∧ (m3.stack 15).pairB ≠ 255 ∧ (m3.stack 15).pairB ≠ 31) ∧
     (m.stack (510 / 32)).evacuating = true ∧ (m.stack (510 / 32)).pairA = 510 % 32) := by
  decide +kernel

/-- Die 0's page table: a leaf of 1 GiB for virtual address 0, the identity or one on stack 8. -/
def walkedTo (more : List (Nat × Byte)) (at2 : Byte) : State :=
  up { running with
    cores := [(0, { coreWith runner with })]
    hbm := { running.hbm with root0 := 0x10000, cells := [⟨0x10000, 1⟩, ⟨0x10002, 2⟩, ⟨0x20000, at2⟩] ++ more } }
def walked (at2 : Byte) : State := walkedTo [] at2
def walkedAway : State := walkedTo [⟨0x20004, 0x80⟩] 7

/-- A page of core 0's translation buffer. -/
def held2 : TlbEntry := { page := 1, frame := 0x200000, write := true, detect := false }

theorem test_meets_FetchesAndWalks :
    issues plain.env plain.mach 0 2 = true ∧ (plain.mach.ctx 0 2).pos < (plain.mach.ctx 0 2).length ∧
    (let s := at0 (fun x => { x with ctxs := [(2, { runner with pos := 10 })] })
     issues s.env s.mach 0 2 = true ∧ (s.mach.ctx 0 2).length ≤ (s.mach.ctx 0 2).pos) ∧
    (let s := at0 (fun x => { x with tlb2 := [held2] })
     coreClocked s.env s.mach 0 = true ∧ isAperture 0x234567 = false ∧ (s.mach.core 0).tlb1.find? (fun y => y.page == 0x234567 / 2 ^ 30) = none ∧
       (s.mach.core 0).tlb2.find? (fun y => y.page == 0x234567 / 2 ^ 21) = some held2 ∧
       useLeaf s.env s.mach false true held2.frame 0x234567 held2.write held2.detect = .ok 0x234567 false) ∧
    coreClocked plain.env plain.mach 0 = true ∧ (plain.mach.ctx 0 2).state = .running ∧
    coreClocked (walked 7).env (walked 7).mach 0 = true ∧
    (match (translate (walked 7).env (walked 7).mach 0 0x1234 true).2 with | .ok pa _ => pa == 0x1234 | _ => false) = true ∧
    (match (translate (walked 5).env (walked 5).mach 0 0x1234 true).2 with | .fault _ _ => true | _ => false) = true := by
  decide +kernel

/-! ### Live tables, streams, contexts, intake, the host -/

theorem test_meets_TableRegisterWrites :
    apartRegs plain.mach = false ∧ writeReaches plain (.window 0) 0x0900 3 false = true ∧ writeReaches plain (.can 0 9) 0x0900 9 false = true ∧
    (∀ j ∈ [0, 1, 15, 16], writeReaches plain (.window 0) 0x0800 j false = true) ∧
    (2 ^ 64 - 2) % 2 ^ 64 ≠ 2 ^ 64 - 1 ∧ (2 ^ 64 - 1) % 2 ^ 64 = 2 ^ 64 - 1 := by decide +kernel

def updating (tail : Nat) : State :=
  { plain with mach := { running with tables := { Tables.reset with updBase := 0x8000, updEntry := 7, updTail := tail } } }

theorem test_meets_UpdateTaken :
    (dieTables (updating 0).mach 1).updHead = rwRead (updating 0).mach 1 (rwKey 0x0900 9) (updating 0).mach.tables.updTail ∧
    (let s := updating 1
     dieFenced s.mach 1 = false ∧ s.mach.hbm.on = true ∧ s.mach.mgmt.leaderless = false ∧ hostReached s.env s.mach 1 = true ∧
       s.mach.tables.updBase ≠ 0 ∧ (dieTables s.mach 1).updHead ≠ rwRead s.mach 1 (rwKey 0x0900 9) s.mach.tables.updTail ∧
       updateBad s.mach 1 (2 ^ s.mach.tables.updEntry) (hostRead s.mach 0x8000 64) = true) := by
  decide +kernel

/-- A good entry of table 0, whose overlay lies on die 1: die 0's writer leaves it, and writes its RESULT while the device is split. -/
theorem test_meets_UpdateTaken_home :
    (let desc := 1 + 2 ^ 12 + 64 * 2 ^ 16 + 16 * 2 ^ 128
     let m : Mach := { walkedAway.mach with
       host := { running.host with mem := [⟨0x8000, 1⟩] }
       tables := { Tables.reset with updBase := 0x8000, updEntry := 7, updTail := 1
                                     die0 := { tables with slots := [(0, { Slot.reset with set := true, desc := desc })] } } }
     dieFenced m 0 = false ∧ m.hbm.on = true ∧ hostReached walkedAway.env m 0 = true ∧
       updateBad m 0 (2 ^ m.tables.updEntry) (hostRead m 0x8000 64) = false ∧
       homeDie walkedAway.env 0 (dOverlayPtr (descOn m 0 0)) m = some 1 ∧ walkedAway.strokes.split = false ∧
       ({ clock with split := true } : Strokes).split = true) := by
  decide +kernel

def compacting (stage : Nat) : State :=
  { plain with mach := { (walked 7).mach with tables := { Tables.reset with
      die0 := { tables with slots := [(0, { Slot.reset with set := true, compaction := some { entry := 0, late := false, cut := 0, stage := stage } })] } } } }

theorem test_meets_CompactionStages :
    (∀ g ∈ [1, 2],
      let s := compacting g
      dieFenced s.mach 0 = false ∧ s.mach.hbm.on = true ∧ (tableSlot s.mach 0 0).compaction.map (fun c => c.stage) = some g ∧
        precedes32 (oldestOf (tableSlot s.mach 0 0)) 0 = false ∧ (openOverlay s.env 0 (dOverlayPtr (tableSlot s.mach 0 0).desc) s.mach).2.isSome = true) ∧
    (let s := compacting 2
     match openOverlay s.env 0 (dOverlayPtr (tableSlot s.mach 0 0).desc) s.mach with
     | (_, some a) => coreIn s.env s.mach a.o.filterCore && !filterAway s.env a
     | (_, none) => false) = true := by
  decide +kernel

set_option maxRecDepth 20000 in
theorem test_meets_CompactionStages_header :
    deviceTranslate (compacting 2).env (compacting 2).mach 0 0 false = ((compacting 2).mach, .ok 0 false) ∧
      checkGranule (compacting 2).mach (granule 0) false = .pass := ⟨rfl, by decide +kernel⟩

/-- The stream of `streamOf` waiting to be relayed from target 0, to its last target. -/
def wChain : Word := cmd 0x50 [(9, 1), (64, 3), (68, 0), (88, 1), (256, 3)]
def relay : Relay := { hop := 0, core := 0, buffer := 0, h := emptyHandle, released := false }

theorem test_meets_StreamEvents_early :
    (let s := streaming clock [] none
     let x := s.mach.ctx 0 2
     let y := (dispatched x (vec 0x20 0)).1.past (dispatched x (vec 0x20 0)).2
     let v := (dispatched y (wStream 0)).2
     x.state = .running ∧ x.saving = [] ∧ x.held = false ∧ coreClocked s.env s.mach 0 = true ∧ fld v 7 0 = 0x50 ∧ x.patches = [] ∧
       x.early = [] ∧ x.pos < x.length ∧ patchDue x = false ∧ 0x10 ≤ fld (dispatched x (vec 0x20 0)).2 7 0 ∧
       fld (dispatched x (vec 0x20 0)).2 7 0 < 0x50 ∧ y.pos < y.length ∧ patchDue y = false ∧ y.early = [] ∧
       stGuided v = false ∧ stClass v ≠ 1 ∧ x.cx6 = false ∧ s.mach.stream? 0 (stSlot v) = none ∧
       stSrcKind v ≠ 2 ∧ firstBad (streamChecks s.env s.mach 0 2 v) = none ∧
       lookAlong s.mach 0 [vec 0x20 0, wStream 0] x false = some (y, v, false)) := by
  decide +kernel

theorem test_meets_StreamEvents_rest :
    (let s : State := { streaming clock [] (some (streamOf true)) with
       mach := { (streaming clock [] (some (streamOf true))).mach with hbm := (walked 7).mach.hbm } }
     s.mach.stream? 0 3 = some (streamOf true) ∧ streamLive s.env s.mach 0 (streamOf true) = true ∧
       guidedHeld s.env 0 (streamOf true) = false ∧
       (let z : Stream := { streamOf true with srcBases := [0] }
        z.unread = false ∧ z.flight = [] ∧ stBlocks z.w ≤ z.src.blk ∧ z.relays = [] ∧ guidedHeld s.env 0 z = false ∧
          streamLive s.env s.mach 0 z = true) ∧
       (match streamRun s.env 0 3 (2 ^ 64) s.mach with
        | (m1, .ended) => (m1.stream? 0 3).any (fun (y : Stream) => y.relays.isEmpty)
        | _ => false) = true) ∧
    (let y : Stream := { streamOf true with cancel := some { drop := false, quiet := [], fenced := [], unbound := [] } }
     (streaming clock [] (some y)).mach.stream? 0 3 = some y) ∧
    (let y : Stream := { streamOf true with w := wChain, relays := [relay] }
     let s := streaming clock [] (some y)
     let n : State := { s with mach := { s.mach with cores := s.mach.cores ++ [(1, (s.mach.core 0))] } }
     n.mach.stream? 0 3 = some y ∧ y.cancel = none ∧ y.relays.find? (fun z => z.hop == 0) = some relay ∧ (stTargets wChain)[0 + 1]? = some 1 ∧
       (stTargets wChain)[0 + 2]? = none ∧
       trayBad n.mach 0 [(bufferAddr (n.mach.pool 0 (n.mach.rail 0 (stRail wChain)).pool) relay.buffer, relay.h.length)] = none ∧ mayTake n.mach 1 (stRail wChain) = true ∧ (n.mach.rail 1 (stRail wChain)).entries.length < 64) := by
  decide +kernel

/-- A consumer waits on an empty rail whose producing context waits on a full one. -/
def stalled : State :=
  up { running with cores := [(0, { coreWith { runner with state := .waiting, cause := .rail } with
    ctxs := [(2, { runner with state := .waiting, cause := .rail }), (3, { runner with state := .waiting, cause := .rail })]
    rails := [(1, { Rail.reset with consumer := some 2, prodIsContext := true, prodContext := some 3 })] })] }

theorem test_meets_StreamEvents_deadlock :
    [(0, 1)].all (fun r => halfOf stalled.strokes (dieOf r.1) == 0) = true ∧
    ((youngest ([(0, 1)].flatMap (fun r => railParties stalled.mach r.1 r.2))).map (fun p => p.slot.isNone)) = some true := by
  decide +kernel

def sig : Sig := { sender := .context 0 2, core := 0, index := 9, value := 3 }

theorem test_meets_SignalArrives :
    takeSignal sig.sender 0 9 [sig] = (some sig, []) ∧ running.fabric.colls = [] ∧
    coreIn (clamped .owned).env { (clamped .owned).mach with signals := [] } 0 = true ∧
    (({ (clamped .owned).mach with signals := [] } : Mach).clamp 0 9).state = .owned ∧
    (({ (clamped .broken).mach with signals := [] } : Mach).clamp 0 9).state ≠ .owned := by
  decide +kernel

/-- R335: with counter 5 the first waiter takes 3, the second, who wants 4, stays, and a third that wants 2 goes. -/
theorem test_meets_WaitersInOrder :
    (let w (k v : Nat) (c : Bool) : Waiter := { ctx := k, value := v, consume := c }
     wakeList 5 [w 1 3 true, w 2 4 false, w 3 2 true] = ([w 1 3 true, w 3 2 true], [w 2 4 false], 0)) := by decide

theorem test_meets_ContextRegisters :
    coreOpen plain 0 0 = true ∧
    (let s := at0 (fun x => { x with ctxs := [] })
     coreOpen s 0 0 = true ∧ descriptorOk s.mach 0 3 { s.mach.ctx 0 3 with descriptor := BitVec.ofNat 64 (descriptorMask 8) } = true ∧
       (s.mach.ctx 0 3).state = .free) ∧
    (let s := at0 (fun x => { x with ctxs := [(2, { Ctx.reset with state := .idle })] })
     coreOpen s 0 0 = true ∧ descriptorOk s.mach 0 2 { s.mach.ctx 0 2 with descriptor := BitVec.ofNat 64 (descriptorMask 8) } = true ∧
       (s.mach.ctx 0 2).state = .idle) ∧
    (plain.mach.ctx 0 2).serving = false ∧ doorbellBad 0 0 16 4 = false ∧ doorbellBad 0 0 17 4 = true ∧
    (plain.mach.ctx 0 2).subSize = 4 ∧ (plain.mach.core 0).planSize = 4 ∧ (plain.mach.core 0).planTail = 0 ∧ (plain.mach.core 0).planHead = 0 := by
  decide +kernel

def queued (base : Nat) : State :=
  { walked 7 with mach := { (walked 7).mach with cores := [(0, coreWith { Ctx.reset with state := .idle, subTail := 1, subBase := base })] } }

def savedWith (v : Option Saved) (a : ArrayUnit) : State :=
  at0 (fun x => { x with ctxs := [(2, { runner with state := .saved, saved := v })], arr := a })

def savedTile : Saved :=
  { tile := some tile, raw := none, streaming := none, rePreload := none, withdrawnArray := [], withdrawnChisel := [], withdrawnMarquetry := [],
    withdrawnScribe := [], chisel := none, marquetry := none, scribe := none, merge := none, streams := [] }

theorem test_meets_WorkIsTaken :
    (let s := queued 0x3000
     coreClocked s.env s.mach 0 = true ∧ (s.mach.ctx 0 2).state = .idle ∧ entryPending (s.mach.ctx 0 2) = true ∧
       (entryFetch s.env (setState s.env s.mach 0 2 .ready .none 0) 0 2 0x3000).2.isSome = true) ∧
    (let s := savedWith (some savedTile) { ArrayUnit.reset with active := some { tile with ctx := 3 } }
     (s.mach.ctx 0 2).state = .saved ∧ sequencerChoice s.env s.mach 0 = some 2 ∧ restoreBlocked s.mach 0 2 = true) ∧
    (let s := savedWith (some savedTile) ArrayUnit.reset
     (s.mach.ctx 0 2).state = .saved ∧ sequencerChoice s.env s.mach 0 = some 2 ∧ restoreBlocked s.mach 0 2 = false ∧
       (s.mach.ctx 0 2).running = true ∧ trayBad s.mach 0 (savedReads (s.mach.ctx 0 2) savedTile) = none) ∧
    (∀ more : Bool,
      let s := at0 (fun x => { x with ctxs := [(2, { runner with running := false, length := 0, state := .saved, subTail := if more then 1 else 0 })] })
      (s.mach.ctx 0 2).state = .saved ∧ sequencerChoice s.env s.mach 0 = some 2 ∧ restoreBlocked s.mach 0 2 = false ∧
        (s.mach.ctx 0 2).saved = none ∧ (s.mach.ctx 0 2).serving = false ∧ (s.mach.ctx 0 2).running = false ∧
        entryPending (s.mach.ctx 0 2) = more) := by
  decide +kernel

theorem test_meets_Actions :
    coreOpen plain 0 0 = true ∧ (plain.mach.ctx 0 2).pendAction = none ∧ (plain.mach.ctx 0 2).ending = none ∧
    (∀ a ∈ [Action.preempt, .cancel, .kill, .reset], actionLegal (plain.mach.ctx 0 2) a = true) ∧
    (∀ a ∈ [Action.release, .resume], actionLegal (plain.mach.ctx 0 2) a = false) ∧
    (∀ a ∈ [Action.preempt, .cancel, .kill], actionLegal (plain.mach.ctx 0 3) a = false) ∧
    actionLegal { runner with held := true } .release = true ∧ actionLegal { runner with state := .faultWait } .resume = true ∧
    (∀ st ∈ [CState.idle, .saved, .faulted],
      let s := at0 (fun x => { x with ctxs := [(15, { Ctx.reset with state := st })] })
      coreOpen s 1 0 = true ∧ (s.mach.ctx 0 15).state = st ∧ (s.mach.ctx 0 15).pendAction = none ∧ (s.mach.ctx 0 15).ending = none ∧
        (s.mach.ctx 0 15).serving = false) := by
  decide +kernel

def idleRing : IntakeDesc :=
  { enable := false, fill := false, drop := false, ageLimit := 1, sizeLog2 := 6, entryLog2 := 6, comp := 0, cap := 0, base := 0, reqBase := 0 }

theorem test_meets_IntakeRegisters :
    (∀ i ∈ [1, 1024],
      barOpen plain 0 (ringDie plain.mach 0 i) = true ∧ (plain.mach.intake i).desc.enable = false ∧
      (let m := plain.mach.modIntake i (fun x => { x with desc := idleRing })
       doorbellBad (m.intake i).tail.toNat (m.intake i).head.toNat 64 (m.intake i).desc.sizeLog2 = false ∧
         doorbellBad (m.intake i).tail.toNat (m.intake i).head.toNat 65 (m.intake i).desc.sizeLog2 = true) ∧
      intakeBad plain.mach i (intakeFields 0x606F0 0 0) = some 2 ∧ intakeBad plain.mach i (intakeFields 0x60610 0 0) = none ∧
      intakeBad plain.mach i (intakeFields 0x60611 0 0) = some 1) := by
  decide +kernel

/-- Context 2 is a serving context of ring 1, with its stroke's work open; ring 1 copies one request. -/
def serves (x : Ctx → Ctx) : State :=
  { walked 7 with mach := ({ (walked 7).mach with cores := [(0, coreWith (x { Ctx.reset with
      descriptor := 0x10001, state := .running, workOpen := true, workStroke := 7, workRing := 1, requests := [] }))] } : Mach).modIntake 1 (fun y =>
        { y with desc := { idleRing with enable := true, cap := 1, base := 0x4000 }, tail := 1,
                 copies := [{ core := 0, ctx := 2, stroke := 7, first := 0, ages := [0], leftOver := false, ended := 0, late := false }] }) }

theorem test_meets_StrokeWork :
    (let s := serves id
     (match (s.mach.intake 1).copies with
      | y :: _ =>
        (match readEntries s.env y.core (s.mach.intake 1).desc y.first y.ages.length s.mach with
         | (m1, some (_, bytes), _) => coreIn s.env m1 y.core &&
             coreIn s.env (trayWrite m1 y.core ((s.mach.intake 1).desc.reqBase * 64 + 64) bytes) y.core
         | _ => false)
      | [] => false) = true) ∧
    (let m := (serves id).mach.modIntake 1 (fun y =>
       { y with copies := [{ core := 0, ctx := 2, stroke := 7, first := 0, ages := [], leftOver := false, ended := 0, late := false }] })
     (m.intake 1).copies.any (fun y => y.ages.isEmpty && coreIn (serves id).env m y.core &&
       coreIn (serves id).env (trayWrite m y.core ((m.intake 1).desc.reqBase * 64 + 64) []) y.core) = true) ∧
    workComplete (serves (fun x => { x with yielded := true })).mach 0 2 = true ∧ workComplete plain.mach 0 2 = false := by
  decide +kernel

/-- Completion ring 63 with the fields set. -/
def ringed (f : CompRing → CompRing) : Mach := running.setComp 63 (f { CompRing.reset with base := 0x9000, vector := 1 })

theorem test_meets_CompletionRings :
    barOpen plain 0 0 = true ∧ (plain.mach.compRing 63).store = [] ∧
    (∀ h : Bool, let x := (ringed (fun x => { x with running0 := true, held0 := h, running1 := true, held1 := h })).compRing 63
      x.vector ≠ 0 ∧ x.running0 = true ∧ x.held0 = h ∧ x.running1 = true ∧ x.held1 = h) := by
  decide +kernel

def completion : Completion := { kind := 0, status := 0, ctx := 2, core := 0, token := 5, stroke := 7, detail := 0 }

theorem test_meets_CompletionRecords :
    (let x := (ringed (fun x => { x with vector := 0 })).compRing 63
     x.store = [] ∧ x.writable = true ∧ x.vector = 0) ∧
    (let x := (ringed (fun x => { x with base := 0 })).compRing 63
     x.writable = false ∧ x.store.length < 1024) ∧
    (let x := (ringed (fun x => { x with store := [completion] })).compRing 63
     x.store ≠ [] ∧ x.store.length < 1024) ∧
    (let x := (ringed (fun x => { x with store := List.replicate 1024 completion, saidLost := true })).compRing 63
     1024 ≤ x.store.length ∧ x.saidLost = true) := by
  decide +kernel

theorem test_meets_HostAccesses :
    memAnswers plain.mach 0 = true ∧ memAnswers plain.mach 1 = true ∧
    hostRefused plain.env plain.mach 0 (.tray 0 (64 % 0x2000000)) = none ∧ trayBad plain.mach 0 [(64, 64)] = none ∧
    hostRefused plain.env plain.mach 0 (.hbm 4096 false) = none ∧ hostRefused plain.env plain.mach 1 (.hbm (15 * 2 ^ 36 + 64) false) = none ∧
    dieFenced plain.mach 0 = false ∧ reaches plain.env plain.mach 0 (blockDie plain.mach 0 (regBlock 0x10).1) = true ∧
    ((blockRegs (regBlock 0x10).1).find? (fun q => q.1 == (regBlock 0x10).2)).any (fun q => 0x10 % q.2 == 0) = true := by
  decide +kernel

theorem test_meets_RegisterWrites : barOpen plain 0 0 = true ∧ barOpen plain 1 1 = true := by decide +kernel

/-! ### The dictionary, faults, wedge and contact -/

def asked (op txn idx sub : Nat) : State :=
  { plain with mach := { running with mgmt := { running.mgmt with g0 := { gauge true with lastRequest := some (op, txn, idx, sub) } } } }

/-- OP 0 and OP 7 name nothing. -/
theorem test_meets_DictionaryRequests_op :
    (∀ op ∈ [0, 7, 255], (op = 0 ∨ 6 < op) ∧ repeated plain.mach 0 op 9 0x0A00 4 = false ∧
      repeated (asked op 9 0x0A00 4).mach 0 op 9 0x0A00 4 = true) := by
  decide +kernel

theorem test_meets_DictionaryRequests_read :
    onBus plain.mach 0 = true ∧ repeated (asked 1 9 0x0A00 1).mach 0 1 9 0x0A00 1 = true ∧ repeated plain.mach 0 1 9 0x0A00 1 = false ∧
    unreached plain.mach 0 0x0A00 1 = false ∧
    (match servedObj plain.env plain.mach 0 0x0A00 1 with | some { access := a, value := .num _ _ } => a != .wo | _ => false) = true ∧
    servedObj plain.env plain.mach 0 0x0A00 0xEE = none := by
  decide +kernel

/-- Writes of 0x0A00.04: 4 is taken, 33 is refused; the second gauge may not write it; 0x0A00.EE names nothing. -/
theorem test_meets_DictionaryRequests_write :
    isReboot (.can 0 9) 0x0A00 4 [4, 0] = false ∧ repeated (asked 2 9 0x0A00 4).mach 0 2 9 0x0A00 4 = true ∧
    (match objAt plain.env plain.mach 0 0x0A00 4 with
      | some { access := a, value := .num w _ } => a != .ro && fitsWidth (.can 0 9) [4, 0] w && (a == .rws || a == .lrw) | _ => false) = true ∧
    repeated plain.mach 1 2 9 0x0A00 4 = false ∧ (writeBarred plain.mach 1 0x0A00 4 true).isSome = true ∧
    writeReaches plain (.can 0 9) 0x0A00 4 true = true ∧ (objRun 0 0x0A00 4 4 plain.variant plain.strokes plain.mach).1 = 0 ∧
    (objRun 0 0x0A00 4 33 plain.variant plain.strokes plain.mach).1 ≠ 0 ∧ objAt plain.env plain.mach 0 0x0A00 0xEE = none ∧
    writeReaches plain (.can 0 9) 0x0A00 0xEE false = true := by
  decide +kernel

theorem test_meets_LeaderlessRefuses :
    (let m : Mach := { running with mgmt := { running.mgmt with leaderless := true } }
     m.mgmt.leaderless = true ∧ (endpoint m 0).trained = true ∧ (gaugeOf m 0).alive = true ∧ (endpoint m 1).trained = true ∧
       (gaugeOf m 1).alive = true ∧ onBus m 1 = true ∧ repeated m 1 2 9 0x0A00 4 = false ∧ repeated m 1 4 9 0x0F00 0x11 = false ∧
       dieFenced m 1 = false ∧ isClearObject 0x0A00 4 = false ∧ isClearObject ((2 ^ 25 - 1) / 8192) ((2 ^ 25 - 1) / 32 % 256) = false) := by
  decide +kernel

/-- Gauge 0 with a transfer of the nonce, 0x0F00.40, open. -/
def moving (isWrite window : Bool) (seg len : Nat) : State :=
  { plain with mach := { running with mgmt := { running.mgmt with g0 := { gauge true with
      domTarget := 0x0F0040, domLength := 32
      dom := some { index := 0x0F00, sub := 0x40, isWrite := isWrite, window := window, length := len, nextSeg := seg, data := [] } } } } }

def targeted : State :=
  { plain with mach := { running with mgmt := { running.mgmt with g0 := { gauge true with domTarget := 0x0F0040, domLength := 32 } } } }

theorem test_meets_DomainTransfers :
    (∀ op ∈ [3, 4, 5, 6], onBus plain.mach 0 = true ∧ repeated plain.mach 0 op 9 0x0F00 0x40 = false) ∧
    (domReadCheck plain.env plain.mach 0 0x0F00 0x31).1 = 0 ∧ (gaugeOf plain.mach 0).dom = none ∧
    domWriteCheck plain.env plain.mach 0 0x0F00 0x40 32 = 0 ∧ writeReaches targeted (.window 0) 0x0F00 0xE3 false = true ∧
    (gaugeOf targeted.mach 0).domTarget / 256 % 65536 = 0x0F00 ∧ (gaugeOf targeted.mach 0).domTarget % 256 = 0x40 ∧
    domWriteCheck targeted.env targeted.mach 0 0x0F00 0x40 32 = 0 ∧
    (∀ w : Bool, ∀ p ∈ [(0, 32), (1, 32), (1, 100)], let d := (gaugeOf (moving w false p.1 p.2).mach 0).dom
      d.any (fun x => x.isWrite == w && !x.window && x.nextSeg == p.1 && x.length == p.2 && x.index == 0x0F00 && x.sub == 0x40) = true) ∧
    ([] ++ padTo (min 56 (100 - 56 * 0)) [1]).length < 100 ∧ 32 ≤ ([] ++ padTo (min 56 (32 - 56 * 0)) [1]).length ∧
    (domApply targeted.env 0 0x40 (padTo 32 [1]) (endDom 0 targeted.mach)).1 = 0 ∧
    (∀ w : Bool, let s := moving w true 0 32
      (gaugeOf s.mach 0).dom.any (fun x => x.window && x.isWrite == w) = true ∧ (gaugeOf s.mach 0).alive = true ∧
        (endpoint s.mach 0).trained = true ∧
        (domApply s.env 0 0x40 (hostRead s.mach (gaugeOf s.mach 0).domBuffer 32) (endDom 0 s.mach)).1 = 0) := by
  decide +kernel

def rec4 : FaultRec := mkFault plain.env running 0 1 0x10 1

/-- Gauge 0 with one record to deliver. -/
def faulty (f : FaultRing → FaultRing) : State :=
  { plain with mach := { running with faults := { Faults.reset with ring0 := f { FaultRing.reset with raised := [rec4] } } } }

theorem test_meets_FaultRecords :
    (gaugeOf (faulty id).mach 0).alive = true ∧ (faultRing plain.mach 0).raised = [] ∧ (faultRing (faulty id).mach 0).raised = [rec4] ∧
    needsLog rec4 = false ∧ 64 ≤ rec4.core ∧ (faultRing (faulty id).mach 0).store = [] ∧
    ringWritable (faulty (fun x => { x with base := 0x7000 })).mach 0 = true ∧ ringWritable (faulty id).mach 0 = false ∧
    (faultRing (faulty id).mach 0).store.length < 256 ∧ apartRegs (faulty id).mach = false ∧
    (∀ g ∈ [0, 1], writeReaches (faulty id) (.window 0) 0x0700 (4 + g) false = true ∧
      writeReaches (faulty id) (.can 0 9) 0x0700 (0x10 + g) false = true ∧
      (faultRing (faulty id).mach g).heldCount = (faultRing (faulty id).mach g).held.length) := by
  decide +kernel

def wedged (f : Mgmt → Mgmt) : State := { plain with mach := { running with mgmt := f running.mgmt } }

theorem test_meets_WedgeEvents :
    reachesWedge plain.mach 0 = true ∧ plain.mach.mgmt.holder = some 0 ∧ (gaugeOf plain.mach 0).restarted = false ∧
    plain.mach.mgmt.leaseRunning = true ∧ reachesWedge plain.mach 1 = true ∧ (gaugeOf plain.mach 1).lead = false ∧
    plain.mach.mgmt.holder.isSome = true ∧
    (let s := wedged (fun x => { x with holder := none, leaseRunning := false, g0 := gauge false })
     s.mach.mgmt.holder = none ∧ reachesWedge s.mach 0 = true ∧ reachesWedge s.mach 1 = true ∧ (gaugeOf s.mach 0).lead = false ∧
       (gaugeOf s.mach 1).lead = false ∧ 0 < s.mach.mgmt.epoch ∧ (gaugeOf s.mach 0).alive = true ∧ (gaugeOf s.mach 1).alive = true ∧
       s.strokes.split = false) ∧
    writeReaches plain (.can 0 9) 0x0B00 9 true = true ∧ (gaugeOf plain.mach 0).lead = true ∧ plain.mach.mgmt.contact = true ∧
    (gaugeOf plain.mach 1).alive = true ∧ plain.mach.power.alwaysOn = true ∧ plain.mach.mgmt.die0Power = true ∧
    plain.mach.mgmt.die1Power = true := by
  decide +kernel

theorem test_meets_ContactEvents :
    plain.mach.power.alwaysOn = true ∧ plain.strokes.split = false ∧ plain.mach.mgmt.contact = true ∧ plain.mach.mgmt.g0.alive = true ∧
    plain.mach.mgmt.g1.alive = true ∧ (gaugeOf plain.mach 0).lead = true ∧ plain.mach.mgmt.pathUp = true ∧ plain.mach.mgmt.linkUp = true ∧
    plain.mach.mgmt.leaderless = false ∧ plain.mach.mgmt.die0Power = true ∧ plain.mach.mgmt.die1Power = true ∧
    (wedged (fun x => { x with contact := false })).mach.mgmt.contact = false := by
  decide +kernel

/-! ### Power, boot, trust, fences -/

def powered (f : Power → Power) : State := { plain with mach := { running with power := f running.power } }

theorem test_meets_PowerSequence :
    State.reset.mach.power.present = false ∧ (powered (fun x => { x with main := false })).mach.power.main = false ∧
    plain.mach.power.present = true ∧ plain.mach.power.main = true ∧ (powered (fun x => { x with alwaysOn := false })).mach.power.alwaysOn = false ∧
    diesPowered plain.mach = true ∧ (powered (fun x => { x with onHoldup := true })).mach.power.onHoldup = true := by
  decide +kernel

theorem test_meets_PowerEvents :
    diesPowered plain.mach = true ∧ plain.mach.power.guard0 = false ∧ plain.mach.power.guard1 = false ∧
    (powered (fun x => { x with guard0 := true })).mach.power.guard0 = true ∧ (powered (fun x => { x with guard1 := true })).mach.power.guard1 = true ∧
    (16 : Int) * 100 ≤ 16 * (100 : Int) ∧ plain.mach.power.hot0 = false ∧ plain.mach.power.hot1 = false ∧ plain.mach.power.alwaysOn = true ∧
    writeReaches plain (.can 0 9) 0x0200 0x0B true = true ∧ plain.mach.power.state = 2 ∧
    (∀ st ∈ [4, 6], writeReaches (powered (fun x => { x with state := st })) (.window 0) 0x0200 0x0B true = true ∧
      (powered (fun x => { x with state := st })).mach.power.state = st) := by
  decide +kernel

def booting (f : Mgmt → Mgmt) (on : Bool) : State :=
  { plain with mach := { running with
      hbm := { running.hbm with on := on }
      mgmt := f { running.mgmt with bootState := 0, hbmDone := false, coresDone := false, ready := false } } }

theorem test_meets_BootSteps :
    (let off (x : Mgmt) : Mgmt := { x with g0 := Gauge.reset, g1 := Gauge.reset }
     ∀ hold ∈ [none, some 1], let s := booting (fun x => { off x with holder := hold }) false
       s.mach.power.alwaysOn = true ∧ s.mach.power.onHoldup = false ∧ s.mach.mgmt.g0.alive = false ∧ s.mach.mgmt.g1.alive = false ∧
         s.mach.mgmt.holder = hold ∧ s.mach.mgmt.die0Power = true) ∧
    (∀ b : Bool, let s := booting (fun x => { x with verified1 := b }) false
      s.mach.power.alwaysOn = true ∧ s.mach.power.onHoldup = false ∧ (gaugeOf s.mach 0).alive = true ∧ s.mach.mgmt.bootState = 0 ∧ (gaugeOf s.mach 0).recovery = 0 ∧
        s.mach.mgmt.verified0 = false ∧ s.mach.mgmt.verified1 = b ∧ s.mach.mgmt.contact = true ∧ (gaugeOf s.mach 1).alive = true ∧
        s.mach.hbm.on = false) ∧
    (let s := booting id true
     s.mach.hbm.on = true ∧ s.mach.mgmt.hbmDone = false ∧ s.mach.mgmt.bootState = 0) ∧
    (let s := booting (fun x => { x with hbmDone := true }) true
     s.mach.mgmt.hbmDone = true ∧ s.mach.mgmt.coresDone = false ∧ s.mach.power.onHoldup = false ∧ s.mach.power.state ≠ 5) ∧
    (powered (fun x => { x with state := 5 })).mach.power.state = 5 ∧ plain.mach.hbm.on = true ∧
    (wedged (fun x => { x with memtesting := true })).mach.mgmt.memtesting = true ∧ plain.mach.power.stopped = false ∧
    plain.mach.power.state ≠ 0 ∧ plain.mach.power.state ≠ 4 ∧ plain.mach.power.state ≠ 6 ∧ plain.mach.power.onHoldup = false ∧
    (endpoint (modEndpoint running 1 (fun _ => Endpoint.reset)) 1).trained = false ∧ (endpoint plain.mach 0).trained = true ∧
    (let m := modEndpoint running 1 (fun y => { y with attach := 1 })
     (endpoint m 1).attach = 1 ∧ 0x500 % 256 = 0 ∧ 0x500 / 256 % 256 ≤ 5 ∧ (endpoint m 0).attach ≠ 1 ∧ (endpoint m 0).attach ≠ 5) ∧
    (wedged (fun x => { x with stores := [.eraseBlock0] })).mach.mgmt.stores = [.eraseBlock0] := by
  decide +kernel

theorem test_meets_ImageAndTrust :
    writeReaches plain (.can 0 9) 0x0F00 0x12 true = true ∧ plain.mach.mgmt.session = 0 ∧ plain.mach.mgmt.stores.length < 16 ∧
    16 ≤ (wedged (fun x => { x with stores := List.replicate 16 .eraseBlock0 })).mach.mgmt.stores.length ∧ plain.mach.power.onHoldup = false ∧
    plain.mach.mgmt.contact = true ∧ plain.mach.mgmt.g0.alive = true ∧ plain.mach.mgmt.g1.alive = true ∧
    bankHolds (powered (fun x => { x with energy := 100000 })).mach .eraseBlock0 = true ∧
    bankHolds (powered (fun x => { x with energy := 0 })).mach .eraseBlock0 = false ∧
    (wedged (fun x => { x with session := 1 })).mach.mgmt.session = 1 ∧ mayReboot plain.mach = false ∧
    mayReboot (powered (fun x => { x with state := 4 })).mach = true ∧
    (wedged (fun x => { x with verifying := true })).mach.mgmt.verifying = true ∧ plain.mach.mgmt.stores = [] ∧
    writeReaches plain (.window 0) 0x0F00 0x20 true = true ∧ allZero plain.mach.mgmt.ownerHash = true ∧
    allZero (wedged (fun x => { x with ownerHash := [1] })).mach.mgmt.ownerHash = false ∧
    writeReaches plain (.window 0) 0x0F00 0x22 true = true ∧
    (let s := wedged (fun x => { x with svn := 3, fusedSvn := 2 })
     s.mach.mgmt.svn = 3 ∧ s.mach.mgmt.fusedSvn < 3 ∧ s.mach.mgmt.contact = true) ∧
    writeReaches plain (.window 1) 0x0F00 0x41 false = true ∧ (gaugeOf plain.mach 1).attState ≠ 1 ∧
    (gaugeOf (wedged (fun x => { x with g1 := { gauge false with attState := 1 } })).mach 1).attState = 1 := by
  decide +kernel

def fencedTo (f : Fences → Fences) : State := { plain with mach := { plain.mach with fences := f Fences.reset } }

theorem test_meets_FenceCommands_requests :
    writeReaches plain (.can 0 9) 0x0700 0x40 true = true ∧ plain.variant.hasCore 63 = true ∧
    ({ Variant.full with fused := #v[none, none, none, none, none, none, none, some 7] } : Variant).hasCore 63 = false ∧ plain.mach.fences.cores.getLsbD 63 = false ∧
    (fencedTo (fun x => { x with cores := 0x8000000000000000#64 })).mach.fences.cores.getLsbD 63 = true ∧
    writeReaches plain (.can 0 9) 0x0700 0x41 true = true ∧ plain.mach.fences.regions.getLsbD 7 = false ∧
    (let s := fencedTo (fun x => { x with regions := 0x80#8 })
     s.mach.fences.regions.getLsbD 7 = true ∧ regionHot s.mach 7 = false ∧
       regionHot (s.mach.modStack 15 (fun x => { x with temp := some 2000 })) 7 = true) ∧
    writeReaches plain (.can 0 9) 0x0700 0x42 true = true ∧ dieFenced plain.mach 0 = false ∧ dieFenced plain.mach 1 = false ∧
    (let s := fencedTo (fun x => { x with dies := 2#8, dieCause1 := 1 })
     dieFenced s.mach 0 = false ∧ dieFenced s.mach 1 = true ∧ dieMayReturn s.mach 1 = true) ∧
    (let s := fencedTo (fun x => { x with dies := 2#8, dieCause1 := 2 })
     dieFenced s.mach 1 = true ∧ dieMayReturn s.mach 1 = false) := by
  decide +kernel

theorem test_meets_FenceCommands_events :
    plain.variant.hasCore 0 = true ∧ plain.mach.fences.cores.getLsbD 0 = false ∧ (plain.mach.core 0).up = true ∧ plain.mach.hbm.on = true ∧
    trayRepeat ((at0 (fun x => { x with trayFaults := [1000000004, 6, 5] })).mach.core 0) = true ∧
    trayRepeat ((at0 (fun x => { x with trayFaults := [1000000005, 6, 5] })).mach.core 0) = false ∧
    (plain.mach.core 0).trayFaults.length < 3 ∧ plain.mach.fences.regions.getLsbD 7 = false ∧ liveSlots plain.mach = [] ∧ (plain.mach.stack 15).level = 0 ∧
    max (plain.mach.stack 15).level (levelOf plain.mach 320) ≠ 5 ∧ max (plain.mach.stack 15).level (levelOf plain.mach 4000) = 5 ∧
    (let s := fencedTo (fun x => { x with testingCores := [0], testingRegions := [7] })
     s.mach.fences.testingCores.contains 0 = true ∧ coreFenced (clearCoreFence s.mach 0) 0 = false ∧
       s.mach.fences.testingRegions.contains 7 = true) := by
  decide +kernel

/-! ### Links, frames, collectives -/

def linked (x : Link) : State := { plain with mach := { running with fabric := { running.fabric with deviceId := 5, links := [(95, x)] } } }

theorem test_meets_LinkEvents :
    (∀ st ∈ [0, 1, 2], linkUsable (linked { Link.reset with state := st }).env (linked { Link.reset with state := st }).mach 95 = true) ∧
    (∀ n ∈ [0, 1, 2], ((linked { Link.reset with state := 1, attempts := n }).mach.link 95).attempts = n) ∧
    commonVersion [] = none ∧ (commonVersion [(2, 0)]).isSome = true ∧ (linked Link.reset).mach.fabric.deviceId = 5 ∧
    (linked { Link.reset with state := 2 }).mach.link 95 = { Link.reset with state := 2 } ∧ Link.reset.retry = [] ∧
    writeReaches (linked Link.reset) (.can 0 9) 0x0400 7 true = true ∧
    (let s := linked { Link.reset with state := 2, peer := 6 }
     linkDelivers s.env s.mach 95 = true) := by
  decide +kernel

/-- The 16th codeword of a second is counted, the 17th and the eighth resend are fence rules; a retrain within the second fences. -/
theorem test_meets_LinkEvents_codewords :
    (inSecond (nsAt clock (dieOfLink 95)) 15 1000000).1 ≤ 16 ∧ 16 < (inSecond (nsAt clock (dieOfLink 95)) 16 1000000).1 ∧
    ¬ 6 + 1 = 8 ∧ 8 ≤ 7 + 1 ∧ (some 1000000 : Option Nat).any (fun t => decide (nsAt clock (dieOfLink 95) ≤ t + 1000000000)) = true ∧
    Link.reset.retrained.any (fun t => decide (nsAt clock (dieOfLink 95) ≤ t + 1000000000)) = false := by
  decide +kernel

def headTo (d : Nat) : FrameHead := { origin := 6, dest := d, hops := 1 }
def wbody (n : Nat) : WriteBody := { seq := n, offset := 0, data := [1], core := 0, ctx := 0, channel := 0, detect := false }
/-- Writes 4 and 6 of origin 6 are held while 4 is the next. -/
def holding (f : Origin → Origin) : State :=
  let s := linked { Link.reset with state := 2, peer := 6 }
  { s with mach := s.mach.modOrigin 6 (fun x => f { x with expected := 4, writes := [wbody 6, wbody 4] }) }

theorem test_meets_FramesArrive :
    linkDelivers plain.env plain.mach 0 = false ∧ linkDelivers (holding id).env (holding id).mach 95 = true ∧
    (headTo 9).dest ≠ (holding id).mach.fabric.deviceId ∧ (headTo 5).dest = (holding id).mach.fabric.deviceId ∧
    (let x := (holding id).mach.origin 6
     precedes32 3 x.expected = true ∧ precedes32 6 x.expected = false ∧ precedes32 5 x.expected = false ∧
       x.writes.any (fun q => q.seq % 2 ^ 32 == 6) = true ∧ x.writes.any (fun q => q.seq % 2 ^ 32 == 5) = false ∧
       x.writes.find? (fun q => q.seq % 2 ^ 32 == x.expected) = some (wbody 4) ∧ x.writes ≠ [] ∧ x.lost = false) ∧
    ((holding (fun x => { x with lost := true })).mach.origin 6).lost = true ∧ (holding id).mach.fabric.unreachable.contains (halfOf clock (dieOfLink 95), 9) = false ∧
    ({ running with fabric := { running.fabric with unreachable := [(0, 9)] } } : Mach).fabric.unreachable.contains (halfOf clock (dieOfLink 95), 9) = true ∧
    linksOn (holding id).mach = true := by
  decide +kernel

/-- Slot 2 holds collective 77, with peer 6. -/
def collected : State :=
  let s := linked { Link.reset with state := 2, peer := 6 }
  { s with mach := s.mach.modColl 2 (fun x => { x with state := 2, collId := 77, timeout := 1000000,
                                                       peers := [{ id := 6, progress := 0, done := false, slowLeft := 0 }] }) }

theorem test_meets_CollectiveEvents :
    linkDelivers collected.env collected.mach 95 = true ∧ (headTo 5).dest = collected.mach.fabric.deviceId ∧
    slotOf collected.mach 78 = none ∧ slotOf collected.mach 77 = some 2 ∧ collLive (collected.mach.coll 2) = true ∧
    (collected.mach.coll 2).peers.any (fun p => p.id == 6 && !p.done) = true ∧
    (let m := (linked Link.reset).mach
     linksOn m = true ∧ m.fabric.deviceId ≠ 0xFFFF ∧ liveSlots m = [] ∧ flagSlow m = false) := by
  decide +kernel


/-! ### The manual's worked examples -/

/-- R20 to R22: core 45 lies on die 1 in region 5, pseudo-channel 655 of address 0x0A5_1234_5680 on stack 10, channel 7 (11_memory.md). -/
theorem test_manual_address :
    dieOf 45 = 1 ∧ regionOf 45 = 5 ∧ stackOf 0x0A512345680 = 10 ∧ offOf 0x0A512345680 = 21780256384 ∧
    64 * stackOf 0x0A512345680 + pseudoOf (offOf 0x0A512345680) = 655 ∧
    32 * stackOf 0x0A512345680 + channelOf (offOf 0x0A512345680) = 327 := by decide +kernel

def summed (anchor start : Int) (ps : List FVal) : Int × Bool × Bool :=
  let r := ps.foldl (cellStep anchor) ({ acc := start, poison := false }, { sat := false, inexact := false })
  (r.1.acc, r.2.sat, r.2.inexact)

/-- 04_accumulation.md, the INT8 pass with a carried sum: one group clamps, two groups do not. -/
theorem test_manual_carried_sum :
    (let p (neg : Bool) (x : Nat) : FVal := .fin neg x 0
     let start : Int := signed 128 0x7FFFFFFFFFFFFFD8F000000000000000
     let one := summed 0 start [p false 1000, p false 1000, p false 16384, p true 16256]
     (image 128 one.1, one.2) = (0x7FFFFFFFFFFFFFC07FFFFFFFFFFFFFFF, true, false) ∧
     (let a := summed 0 start [p false 1000, p false 1000]
      let b := summed 0 0 [p false 16384, p true 16256]
      mergeCells [{ acc := a.1, poison := false }, { acc := b.1, poison := false }] =
          some { v := signed 128 0x7FFFFFFFFFFFFFE14000000000000000, sat := false, inexact := false } ∧ a.2 = (false, false))) := by
  decide +kernel

/-- 04_accumulation.md, the BF16 tile at two anchors: SAT and INEXACT at −60, INEXACT alone at −59, 0x44A0_0000 at both. -/
theorem test_manual_anchor :
    (let ps : List FVal := [.fin false 1280 0, .fin false 768 0, .fin true 768 0, .fin false 1 (-120)]
     (summed (-60) 0 ps).2 = (true, true) ∧ (summed (-59) 0 ps).2 = (false, true) ∧
     ∀ a ∈ [(-60 : Int), -59], (convOut 0 a (some { v := (summed a 0 ps).1, sat := false, inexact := false })).bits = 0x44A00000) := by
  decide +kernel

/-- 04_accumulation.md, the split FP8 tile: the parts' exact sum, its image and its FP32 output. -/
theorem test_manual_split :
    (let a := summed 0 (2 ^ 55) [.fin false 16777216 0, .fin false 1 0]
     let b := summed 0 0 [.fin true 16777216 0, .fin false 1 (-17)]
     let c := addAcc a.1 b.1
     image 128 c.v = 0x0180008000000000 ∧ c.sat = false ∧ (convOut 0 0 (some c)).bits = 0x3FC00040 ∧
     f32add (convOut 0 0 (some { v := a.1, sat := false, inexact := false })).bits
       (convOut 0 0 (some { v := b.1, sat := false, inexact := false })).bits = 0x40000000) := by
  decide +kernel

/-- R150's example: 16,777,216 and four ones sum to 16,777,220 in the tree. -/
theorem test_manual_reduce : laneTree 0 (laneChunk 0 [] [0x4B800000, 0x3F800000, 0x3F800000, 0x3F800000, 0x3F800000]) = 0x4B800002 := by decide +kernel

/-- R502's example: with E_u = 22 J the fourth block store is accepted and the fifth refused. -/
theorem test_manual_holdup :
    (let m (n : Nat) : Mach := { running with power := { running.power with energy := 22000 }
                                              mgmt := { running.mgmt with stores := List.replicate n (.block 1 []) } }
     bankHolds (m 3) (.block 4 []) = true ∧ bankHolds (m 4) (.block 5 []) = false) := by decide +kernel

/-- R494's example (15_power.md): 40 serving plans of class 0x18 and 24 batch classes of 0x1A within 1,500 W. -/
def tallboy : Mach :=
  { running with
    power := { running.power with budget := 1500, hostLimit := 180 }
    cores := (List.range 64).map (fun c => (c, { Core.reset with
      up := true, batchClass := if c < 40 then 0 else 0x1A, plan := (if c < 40 then some ⟨0, 1, 0, 0x18, []⟩ else none) })) }

theorem test_manual_admission :
    (let m := (admitCores (up tallboy).env 0 false tallboy).1
     [(39, 0x18), (40, 0x1A), (44, 0x1A), (45, 0x19), (46, 0), (63, 0)].all (fun p => (m.core p.1).decided == p.2) &&
       m.power.batchReduced == 19) = true := by decide +kernel

end Sys2Proof.Tests
end

section
/-! The statements on the whole of the block: what shape every command's meaning has, and the glue writes that are refused. -/

namespace Sys2Proof.Machine

/-! ### Every command is one of the two shapes of a meaning -/

/-- A command reads the identity and the stroke clock and writes the rest, or it is one of `writesClock` and writes the clock too;
neither shape has another answer than a next state. -/
theorem exec_eq_liftM_or_liftK (c : Instr) : (∃ f, exec c = liftM f) ∨ writesClock c = true ∧ ∃ f, exec c = liftK f := by
  cases c
  case boundary | windowEnd | windowExtended | pendingPeriodWrite | windowLengthWrite | strokeInEdge | alignmentLock | sourceLoss
      | marker | coresUp | reboot | write | registerWrite | contactLoss | gaugeLinkDown | dieToDiePathDown | presentBreak
      | alwaysOnPower | inputLoss | holdupExhausted | thermalTrip =>
    unfold exec
    exact .inr ⟨rfl, _, rfl⟩
  all_goals
    unfold exec
    exact .inl ⟨_, rfl⟩

/-- Settles O2: both shapes of a meaning answer a next state with the identity and the queue of the old one. -/
theorem everyCommandGoesOn : Obligations.EveryCommandGoesOn := by
  intro c s
  obtain ⟨f, hf⟩ | ⟨-, f, hf⟩ := exec_eq_liftM_or_liftK c
  · exact ⟨_, _, congrFun hf s⟩
  · exact ⟨_, _, congrFun hf s⟩

/-! ### Glue writes of a context -/

/-- The five glue writes with their windows (R380). -/
def glueWrites (src : Writer) (off : Nat) (detect : Bool) (data : List Byte) : List (Nat × Instr) :=
  [(1, .addFp32 src off detect data), (2, .addBf16 src off detect data), (3, .addInt32 src off detect data),
    (4, .addInt64 src off detect data), (5, .maxInt64 src off detect data)]

/-- Each glue write is the one meaning `glueM` at its own window. -/
theorem does_glueWrites {src : Writer} {off : Nat} {detect : Bool} {data : List Byte} {p : Nat × Instr}
    (hp : p ∈ glueWrites src off detect data) (s : State) : Does p.2 s (glueM p.1 src off detect data s.env s.mach) := by
  simp only [glueWrites, List.mem_cons, List.not_mem_nil, or_false] at hp
  obtain rfl | rfl | rfl | rfl | rfl := hp <;> rfl

section
variable {w c k off : Nat} {detect : Bool} {data : List Byte} {e : Env} {m : Mach}

/-- R12, R385: a part without the adders refuses before the address is looked at. -/
theorem glueM_context_untrained (hon : m.hbm.on = true) (hrefresh : m.hbm.selfRefresh = false) (htrain : e.v.train = false) :
    glueM w (.context c k) off detect data e m = finish e (failCtx e m c k famMemory cUnitAbsent) := by
  simp [glueM, hon, hrefresh, htrain]

/-- R381: the record names the physical address in the glue window. -/
theorem glueM_context_misaligned (hon : m.hbm.on = true) (hrefresh : m.hbm.selfRefresh = false) (htrain : e.v.train = true)
    (hoff : off < 2 ^ 40) (hserves : hbmServes m (w * 2 ^ 40 + off) = true)
    (halign : glueAligned w (w * 2 ^ 40 + off) data.length = false) :
    glueM w (.context c k) off detect data e m =
      finish e (failCtxAt e m c k famMemory 0x15 0 (w * 2 ^ 40 + off) 0) := by
  simp [glueM, Nat.mod_eq_of_lt hoff, hon, hrefresh, htrain, hserves, halign, -Nat.reducePow]

end

/-- Settles O29: the five commands share `glueM`, whose two refusals are read off in the order of its checks. -/
theorem glueRefused : Obligations.GlueRefused := by
  intro s c k off detect data p hp pa hoff hon hrefresh
  have hdoes := does_glueWrites hp s
  refine ⟨fun htrain => ?_, fun htrain hserves halign => ?_⟩
  · rwa [glueM_context_untrained hon hrefresh htrain] at hdoes
  · rwa [glueM_context_misaligned hon hrefresh htrain hoff hserves halign] at hdoes

end Sys2Proof.Machine
end

section
/-! The stroke clock over every step: which commands leave it alone, and what the others keep of it. -/

namespace Sys2Proof.Machine

/-! ### Commands that leave the clock alone -/

/-- Settles O3: a command outside `writesClock` has the shape that writes the machine only. -/
theorem otherCommandsLeaveTheClock : Obligations.OtherCommandsLeaveTheClock := by
  intro c s hc
  obtain ⟨f, hf⟩ | ⟨hw, -⟩ := exec_eq_liftM_or_liftK c
  · exact ⟨_, congrFun hf s⟩
  · rw [hc] at hw
    cases hw

/-- Settles O5: the values of the reset state. -/
theorem strokeClockAtReset : Obligations.StrokeClockAtReset := by
  unfold Obligations.StrokeClockAtReset
  decide

/-! ### What a command that is no restart keeps of the clock -/

/-- From clock `k` to clock `j`: the bounds are kept (R36, R39, R40), the counter of die 0's half does not fall, and while the device
stays split neither does that of die 1's half (R37). -/
structure ClockKept (k j : Strokes) : Prop where
  bounds : strokeBounds k = true → strokeBounds j = true
  counter : k.counter ≤ j.counter
  counter1 : k.split = true → j.split = true → k.counter1 ≤ j.counter1

/-- A change of other fields keeps the clock. -/
theorem ClockKept.of_same {k j : Strokes} (hp : j.period = k.period := by rfl) (ha : j.armed = k.armed := by rfl)
    (hw : j.window = k.window := by rfl) (hn : j.windowNext = k.windowNext := by rfl) (hc : j.counter = k.counter := by rfl)
    (hc1 : j.counter1 = k.counter1 := by rfl) : ClockKept k j where
  bounds := by rw [strokeBounds_same k j hp ha hw hn]; exact id
  counter := hc.ge
  counter1 _ _ := hc1.ge

theorem ClockKept.refl (k : Strokes) : ClockKept k k := .of_same

/-- One change after another, where the device is split throughout or is not split at the end. -/
theorem ClockKept.trans {k j i : Strokes} (h1 : ClockKept k j) (h2 : ClockKept j i) (hs : i.split = true → j.split = true) :
    ClockKept k i where
  bounds hb := h2.bounds (h1.bounds hb)
  counter := h1.counter.trans h2.counter
  counter1 hk hi := (h1.counter1 hk (hs hi)).trans (h2.counter1 (hs hi) hi)

/-- A change of the written period or window alone. -/
theorem ClockKept.of_bounds {k j : Strokes} (hb : strokeBounds k = true → strokeBounds j = true)
    (hc : j.counter = k.counter := by rfl) (hc1 : j.counter1 = k.counter1 := by rfl) : ClockKept k j where
  bounds := hb
  counter := hc.ge
  counter1 _ _ := hc1.ge

/-- Of two branches that both have a property of the clock, the one taken has it. -/
theorem fst_ite {P : Strokes → Prop} {c : Prop} [Decidable c] {a b : Strokes × Mach} (ha : P a.1) (hb : P b.1) :
    P (if c then a else b).1 := by
  split
  · exact ha
  · exact hb

/-! ### The boundary and the window -/

theorem ClockKept.window_set {k j : Strokes} (h : ClockKept k j) (half : Nat) (on : Bool) : ClockKept k (setWindow j half on) := by
  unfold setWindow
  split <;> exact h.trans .of_same id

theorem setWindow_split (k : Strokes) (h : Nat) (on : Bool) : (setWindow k h on).split = k.split := by
  unfold setWindow
  split <;> rfl

theorem applyClock_followSource_split (k : Strokes) (ns n : Nat) : (applyClock (followSource ns k) n).split = k.split := by
  obtain ⟨-, -, hfollow, -⟩ := followSource_fields ns k
  obtain ⟨-, -, hclock, -⟩ := applyClock_fields (followSource ns k) n
  exact hclock.trans hfollow

/-- A boundary keeps the device split or whole. -/
theorem tick_split (k : Strokes) (h ns : Nat) (lead full : Bool) : (tick k h ns lead full).split = k.split := by
  cases lead with
  | false =>
    simp only [tick, setWindow_split, Bool.not_false, if_true]
    split <;> rfl
  | true =>
    have hsplit := applyClock_followSource_split k ns (nextNumber k h ns)
    simp only [tick, setWindow_split, Bool.not_true, Bool.false_eq_true, if_false]
    split <;> exact hsplit

/-- R39, R40: the clock as the source and the written values leave it keeps its bounds and its counters. -/
theorem applyClock_followSource_kept (k : Strokes) (ns n : Nat) : ClockKept k (applyClock (followSource ns k) n) := by
  obtain ⟨hc, hc1, -, hp, ha, hw, hn, -⟩ := followSource_fields ns k
  obtain ⟨hc', hc1', -⟩ := applyClock_fields (followSource ns k) n
  refine .of_bounds (fun hb => strokeBounds_applyClock _ n ?_) (hc'.trans hc) (hc1'.trans hc1)
  rwa [strokeBounds_same k _ hp ha hw hn]

/-- A half counts: its own counter is raised. -/
theorem ClockKept.counted {k j : Strokes} {h n : Nat} (ns : Nat) (hk : ClockKept k j) (hn : counterOf k h ≤ n) :
    ((k.split && h == 1) = true → ClockKept k { j with counter1 := n, timestamp1 := ns }) ∧
      ((k.split && h == 1) = false → ClockKept k { j with counter := n, timestamp := ns }) := by
  constructor <;> intro hh <;> rw [counterOf, hh] at hn
  · exact ⟨hk.bounds, hk.counter, fun _ _ => hn⟩
  · exact ⟨hk.bounds, hn, hk.counter1⟩

/-- R37: a boundary that the lead issues raises the counter of its half. -/
theorem tick_lead_kept (k : Strokes) (h ns : Nat) (full : Bool) : ClockKept k (tick k h ns true full) := by
  have hcounted := (applyClock_followSource_kept k ns (nextNumber k h ns)).counted ns (nextNumber_gt k h ns).le
  have hsplit := applyClock_followSource_split k ns (nextNumber k h ns)
  unfold tick
  simp only [Bool.not_true, Bool.false_eq_true, if_false, hsplit]
  refine ClockKept.window_set ?_ h full
  cases hh : k.split && h == 1
  · simp only [Bool.false_eq_true, if_false]
    exact (hcounted.2 hh).trans .of_same hsplit.trans
  · simp only [if_true]
    exact (hcounted.1 hh).trans .of_same hsplit.trans

/-- R37, R482: a boundary that the lead does not issue counts the half that runs it, a locked one to gauge 0's number. -/
theorem tick_follower_kept (k : Strokes) (h ns : Nat) (full : Bool) : ClockKept k (tick k h ns false full) := by
  unfold tick
  simp only [Bool.not_false, if_true]
  generalize hn : (if k.locked = true then max (counterOf k h + 1) (counterOf k (1 - h)) else counterOf k h + 1) = n
  have hle : counterOf k h ≤ n := by
    subst hn
    split <;> omega
  refine ClockKept.window_set ?_ h full
  by_cases hh : h = 1
  · rw [if_pos hh]
    refine ⟨id, le_rfl, fun hs _ => ?_⟩
    rwa [counterOf, if_pos (by simp [hs, hh])] at hle
  · rw [if_neg hh]
    exact ((ClockKept.refl k).counted ns hle).2 (by simp [hh])

theorem tick_kept (k : Strokes) (h ns : Nat) (lead full : Bool) : ClockKept k (tick k h ns lead full) := by
  cases lead
  · exact tick_follower_kept k h ns full
  · exact tick_lead_kept k h ns full

/-- What the steps of a boundary count, and a window that park closes, are no part of what is kept. -/
theorem ClockKept.after_steps {k j : Strokes} (h : ClockKept k j) (a b c : BitVec 64) (park : Bool) :
    ClockKept k (let k2 := { j with overruns := a, carried := b, deferred := c }
      if park then { k2 with inWindow := false, inWindow1 := false } else k2) := by
  cases park <;> exact h.trans .of_same id

/-- R483: the counters of the halves join to the higher one. -/
theorem rejoin_kept (v : Variant) (k : Strokes) (m : Mach) :
    ClockKept k (rejoin v k m).1 ∧ (rejoin v k m).1.split = false := by
  refine ⟨⟨id, ?_, fun _ h => nomatch h⟩, rfl⟩
  show k.counter ≤ if k.split then max k.counter k.counter1 else k.counter
  split <;> omega

/-- R42: the counts that the steps add, and the window that park closes, are no part of what is kept. -/
theorem boundaryM_kept (obs : BoundaryObs) (v : Variant) (k : Strokes) (m : Mach) : ClockKept k (boundaryM obs v k m).1 := by
  unfold boundaryM
  generalize hh : (if k.split then obs.half else 0) = h0
  simp only []
  split
  · exact .refl k
  · generalize hj : (if windowRuns m && joins k m h0 obs.aligned then rejoin v k m else (k, m)) = j
    have hjoin : ClockKept k j.1 ∧ (j.1.split = true → k.split = true) := by
      subst hj
      split
      · exact ⟨(rejoin_kept v k m).1, fun h => nomatch h⟩
      · exact ⟨.refl k, id⟩
    have htick (h : Nat) (lead full : Bool) : ClockKept k (tick j.1 h obs.ns lead full) :=
      hjoin.1.trans (tick_kept j.1 h obs.ns lead full) (by rw [tick_split]; exact id)
    split
    · exact htick _ _ _
    · exact (htick _ _ _).after_steps _ _ _ _

/-- R42 step 10: the end of a window leaves all that is kept alone. -/
theorem endWindow_kept (half : Nat) (x : Bool) (before : Env → Nat → Mach → Mach) (v : Variant) (k : Strokes) (m : Mach) :
    ClockKept k (endWindow half x before v k m).1 := by
  unfold endWindow
  exact fst_ite (.refl k) ((ClockKept.of_same (k := k)).window_set _ _)

/-! ### Writes of the dictionary -/

/-- A write changes the clock as its effect does, or not at all. -/
theorem dictWrite_kept {via : Via} {idx sub : Nat} {wedge : Bool} {f : DictRun} {v : Variant} {k : Strokes} {m : Mach}
    (hf : ClockKept k (f v k m).2.1) : ClockKept k (dictWrite via idx sub wedge f v k m).1 := by
  simp only [dictWrite]
  cases writeBarred m (viaGauge via) idx sub wedge with
  | some code => cases via <;> exact fst_ite (.refl k) (fst_ite (.refl k) (.refl k))
  | none => cases via <;> exact fst_ite (.refl k) (fst_ite (.refl k) (fst_ite hf (.refl k)))

theorem pairingBad_iff (ps ws : List Nat) : pairingBad ps ws = false ↔ ∀ p ∈ ps, ∀ w ∈ ws, 2 * w < p := by
  simp [pairingBad]

/-- R39: a change that is armed keeps every range and leaves every window short enough. -/
theorem periodRun_kept (us : Nat) (v : Variant) (k : Strokes) (m : Mach) : ClockKept k (periodRun us v k m).2.1 := by
  unfold periodRun
  split
  · exact .refl k
  · next hrange =>
    split
    · exact .refl k
    · next hpair =>
      rw [Bool.not_eq_true, pairingBad_iff] at hpair
      refine .of_bounds (fun hb => ?_)
      obtain ⟨hperiods, hwindows, -⟩ := (strokeBounds_iff k).mp hb
      have hperiod := hperiods k.period (by simp [periodsOf])
      refine (strokeBounds_iff _).mpr ⟨?_, hwindows, hpair⟩
      simp only [periodsOf, Option.map_some, Option.toList_some, List.forall_mem_cons]
      exact ⟨hperiod, by omega, by simp⟩

/-- R40: so does a window length that is written. -/
theorem windowRun_kept (us : Nat) (v : Variant) (k : Strokes) (m : Mach) : ClockKept k (windowRun us v k m).2.1 := by
  unfold windowRun
  split
  · exact .refl k
  · next hrange =>
    split
    · exact .refl k
    · next hpair =>
      rw [Bool.not_eq_true, pairingBad_iff] at hpair
      refine .of_bounds (fun hb => ?_)
      obtain ⟨hperiods, hwindows, -⟩ := (strokeBounds_iff k).mp hb
      have hwindow := hwindows k.window (by simp [windowsOf])
      refine (strokeBounds_iff _).mpr ⟨hperiods, ?_, fun p hp w hw => hpair p hp w ?_⟩
      · simp only [windowsOf, Option.toList_some, List.forall_mem_cons]
        exact ⟨hwindow, by omega, by simp⟩
      · simp only [windowsOf, Option.toList_some, List.mem_cons, List.not_mem_nil, or_false] at hw
        simp [hw.symm]

/-- R39 to R41, R58: the objects of the stroke clock. -/
theorem strokeRun_kept (sub n : Nat) (v : Variant) (k : Strokes) (m : Mach) : ClockKept k (strokeRun sub n v k m).2.1 := by
  unfold strokeRun
  split
  · exact periodRun_kept n v k m
  split
  · exact .of_same
  split
  · exact windowRun_kept n v k m
  split
  · split <;> exact .of_same
  split
  · split <;> exact .of_same
  · exact .refl k

theorem objRun_kept (g idx sub n : Nat) (v : Variant) (k : Strokes) (m : Mach) : ClockKept k (objRun g idx sub n v k m).2.1 := by
  unfold objRun
  split
  · exact strokeRun_kept sub n v k m
  · exact .refl k

/-! ### Restarts -/

/-- The clock is back at its reset, or kept. -/
def ResetOrKept (k j : Strokes) : Prop := j = Strokes.reset ∨ ClockKept k j

theorem rebootM_resetOrKept (via : Via) (v : Variant) (k : Strokes) (m : Mach) : ResetOrKept k (rebootM via v k m).1 := by
  unfold rebootM
  exact fst_ite (.inl rfl) (.inr (.refl k))

theorem alwaysOnM_resetOrKept (k : Strokes) (m : Mach) : ResetOrKept k (alwaysOnM k m).1 := by
  unfold alwaysOnM
  exact fst_ite (.inl rfl) (.inr (.refl k))

theorem exhaustM_resetOrKept (k : Strokes) (m : Mach) : ResetOrKept k (exhaustM k m).1 := by
  unfold exhaustM
  exact fst_ite (.inl rfl) (.inr (.refl k))

/-- R519: of the writes by number REBOOT alone restarts the module. -/
theorem writeObj_resetOrKept (via : Via) (idx sub : Nat) (bytes : List Byte) (v : Variant) (k : Strokes) (m : Mach) :
    ResetOrKept k (writeObj via idx sub bytes v k m).1 := by
  have hrefused (code : Nat) : ClockKept k (dictWrite via idx sub false (refusedRun code) v k m).1 :=
    dictWrite_kept (.refl k)
  unfold writeObj
  simp only []
  split
  · exact rebootM_resetOrKept via v k m
  split
  · exact .inr (hrefused _)
  split
  · split
    · exact .inr (hrefused _)
    · exact .inr (dictWrite_kept (objRun_kept _ _ _ _ v k m))
  · exact .inr (hrefused _)

theorem requestM_resetOrKept (g op txn idx sub : Nat) (bytes : List Byte) (v : Variant) (k : Strokes) (m : Mach) :
    ResetOrKept k (requestM g op txn idx sub bytes v k m).1 := by
  unfold requestM
  split
  · exact writeObj_resetOrKept _ idx sub bytes v k m
  split <;> exact .inr (.refl k)

theorem registerM_resetOrKept (ep bar off width n : Nat) (v : Variant) (k : Strokes) (m : Mach) :
    ResetOrKept k (registerM ep bar off width n v k m).1 := by
  have hslot : ResetOrKept k (slotWriteM ep off width n v k m).1 := by
    unfold slotWriteM
    simp only []
    split
    · exact .inr (.refl k)
    split
    · exact writeObj_resetOrKept _ _ _ _ v k m
    · exact .inr (dictWrite_kept (.refl k))
  unfold registerM
  split
  · exact .inr (.refl k)
  split
  · split
    · exact hslot
    · exact .inr (.refl k)
  split <;> exact .inr (.refl k)

/-! ### Followers -/

theorem strokeInM_kept (ns width : Nat) (k : Strokes) (m : Mach) : ClockKept k (strokeInM ns width k m) := by
  unfold strokeInM
  simp only []
  split <;> exact .of_same

theorem markerM_kept (n number hops ns : Nat) (v : Variant) (k : Strokes) (m : Mach) :
    ClockKept k (markerM n number hops ns v k m) := by
  unfold markerM
  simp only []
  split
  · exact .refl k
  split
  · exact .of_same
  split
  · exact .of_same
  split <;> exact .of_same

theorem lockM_kept (k : Strokes) (m : Mach) : ClockKept k (lockM k m) := by
  unfold lockM
  simp only []
  split
  · exact .refl k
  split
  · exact .of_same
  split
  · exact .of_same
  split
  · exact .of_same
  split <;> exact .of_same

theorem lossM_kept (k : Strokes) : ClockKept k (lossM k) := by
  unfold lossM
  split <;> exact .of_same

/-! ### Contact between the halves -/

/-- R476, R482: die 1's half goes on from the number that the device has. -/
theorem splitClock_kept (k : Strokes) (locked : Bool) : ClockKept k (splitClock k locked) := by
  unfold splitClock
  split
  · exact .of_same
  · next hs => exact ⟨id, le_rfl, fun h => absurd h hs⟩

theorem loseContact_kept (v : Variant) (k : Strokes) (m : Mach) : ClockKept k (loseContact v k m).1 := splitClock_kept k false

theorem afterStop_kept (v : Variant) (k : Strokes) (m : Mach) (g : Nat) : ClockKept k (afterStop v k m g).1 := by
  unfold afterStop
  exact fst_ite (.refl k) (fst_ite (fst_ite (.refl k) (.refl k)) (loseContact_kept v k m))

theorem unpowered_kept (v : Variant) (k : Strokes) (m : Mach) (g : Nat) : ClockKept k (unpowered v k m g).1 := by
  unfold unpowered
  exact fst_ite (fst_ite (.refl k) (splitClock_kept k false)) (fst_ite (.refl k) (afterStop_kept v k _ 1))

theorem contactLossM_kept (g : Nat) (cause : LossCause) (v : Variant) (k : Strokes) (m : Mach) :
    ClockKept k (contactLossM g cause v k m).1 := by
  unfold contactLossM
  refine fst_ite (.refl k) ?_
  cases cause with
  | paths => exact fst_ite (loseContact_kept v k _) (.refl k)
  | stopped => exact fst_ite (afterStop_kept v k _ g) (.refl k)
  | unpowered => exact fst_ite (unpowered_kept v k m g) (.refl k)

theorem pathDownM_kept (v : Variant) (k : Strokes) (m : Mach) : ClockKept k (pathDownM v k m).1 := by
  unfold pathDownM
  exact fst_ite (.refl k) (fst_ite (splitClock_kept k true)
    (fst_ite (loseContact_kept v k _) (fst_ite (.refl k) (fst_ite (.refl k) (.refl k)))))

theorem linkDownM_kept (v : Variant) (k : Strokes) (m : Mach) : ClockKept k (linkDownM v k m).1 := by
  unfold linkDownM
  exact fst_ite (.refl k) (fst_ite (.refl k) (fst_ite (loseContact_kept v k _) (.refl k)))

/-! ### Power -/

theorem loseInput_kept (record : Bool) (detail : Nat) (v : Variant) (k : Strokes) (m : Mach) :
    ClockKept k (loseInput record detail k v m).1 := by
  unfold loseInput
  exact fst_ite (.refl k) .of_same

theorem breakM_kept (v : Variant) (k : Strokes) (m : Mach) : ClockKept k (breakM v k m).1 := by
  unfold breakM
  exact fst_ite (.refl k) (loseInput_kept _ _ v k _)

theorem thermalTripM_kept (v : Variant) (k : Strokes) (m : Mach) : ClockKept k (thermalTripM v k m).1 := by
  unfold thermalTripM
  exact fst_ite (loseInput_kept _ _ v k m) (.refl k)

theorem coresUpM_kept (failed : List Nat) (ms : Nat) (v : Variant) (k : Strokes) (m : Mach) :
    ClockKept k (coresUpM failed ms v k m).1 := by
  unfold coresUpM
  exact fst_ite (.refl k) (fst_ite .of_same (.refl k))

/-! ### Every step -/

theorem liftM_strokes {f : Env → Mach → Mach} {s t : State} (h : liftM f s = .next t) : t.strokes = s.strokes := by
  cases h; rfl

theorem resetOrKept_of_liftK {c : Instr} {f : Variant → Strokes → Mach → Strokes × Mach} {s t : State} (h : exec c s = .next t)
    (hc : exec c = liftK f) (hf : ∀ v k m, ResetOrKept k (f v k m).1) : ResetOrKept s.strokes t.strokes := by
  rw [hc] at h
  cases h
  exact hf _ _ _

/-- Every command returns the clock to its reset or keeps it. -/
theorem exec_resetOrKept (c : Instr) {s t : State} (h : exec c s = .next t) : ResetOrKept s.strokes t.strokes := by
  obtain ⟨f, hf⟩ | ⟨hw, -⟩ := exec_eq_liftM_or_liftK c
  · rw [hf] at h
    rw [liftM_strokes h]
    exact .inr (.refl _)
  cases c
  case boundary => exact resetOrKept_of_liftK h rfl (fun v k m => .inr (boundaryM_kept _ v k m))
  case windowEnd => exact resetOrKept_of_liftK h rfl (fun v k m => .inr (endWindow_kept _ _ _ v k m))
  case windowExtended => exact resetOrKept_of_liftK h rfl (fun v k m => .inr (endWindow_kept _ _ _ v k m))
  case pendingPeriodWrite => exact resetOrKept_of_liftK h rfl (fun v k m => .inr (dictWrite_kept (periodRun_kept _ v k m)))
  case windowLengthWrite => exact resetOrKept_of_liftK h rfl (fun v k m => .inr (dictWrite_kept (windowRun_kept _ v k m)))
  case strokeInEdge ns width =>
    exact resetOrKept_of_liftK (f := fun _ k m => (strokeInM ns width k m, m)) h rfl (fun _ k m => .inr (strokeInM_kept ns width k m))
  case alignmentLock =>
    exact resetOrKept_of_liftK (f := fun _ k m => (lockM k m, m)) h rfl (fun _ k m => .inr (lockM_kept k m))
  case sourceLoss => exact resetOrKept_of_liftK (f := fun _ k m => (lossM k, m)) h rfl (fun _ k _ => .inr (lossM_kept k))
  case marker n number hops ns =>
    exact resetOrKept_of_liftK (f := fun v k m => (markerM n number hops ns v k m, m)) h rfl
      (fun v k m => .inr (markerM_kept n number hops ns v k m))
  case coresUp => exact resetOrKept_of_liftK h rfl (fun v k m => .inr (coresUpM_kept _ _ v k m))
  case reboot => exact resetOrKept_of_liftK h rfl (fun v k m => rebootM_resetOrKept _ v k m)
  case write => exact resetOrKept_of_liftK h rfl (fun v k m => requestM_resetOrKept _ _ _ _ _ _ v k m)
  case registerWrite => exact resetOrKept_of_liftK h rfl (fun v k m => registerM_resetOrKept _ _ _ _ _ v k m)
  case contactLoss => exact resetOrKept_of_liftK h rfl (fun v k m => .inr (contactLossM_kept _ _ v k m))
  case gaugeLinkDown => exact resetOrKept_of_liftK h rfl (fun v k m => .inr (linkDownM_kept v k m))
  case dieToDiePathDown => exact resetOrKept_of_liftK h rfl (fun v k m => .inr (pathDownM_kept v k m))
  case presentBreak => exact resetOrKept_of_liftK h rfl (fun v k m => .inr (breakM_kept v k m))
  case alwaysOnPower => exact resetOrKept_of_liftK h rfl (fun _ k m => alwaysOnM_resetOrKept k m)
  case inputLoss => exact resetOrKept_of_liftK h rfl (fun v k m => .inr (loseInput_kept _ _ v k m))
  case holdupExhausted => exact resetOrKept_of_liftK h rfl (fun _ k m => exhaustM_resetOrKept k m)
  case thermalTrip => exact resetOrKept_of_liftK h rfl (fun v k m => .inr (thermalTripM_kept v k m))
  all_goals cases hw

/-- So does every step; an empty queue leaves the clock as it is. -/
theorem step_resetOrKept {s t : State} (h : step s = .next t) : ResetOrKept s.strokes t.strokes := by
  unfold step at h
  split at h
  · cases h
    exact .inr (.refl _)
  · next c rest _ =>
    have hkept := exec_resetOrKept c h
    exact hkept

/-- Settles O4: the reset state has the bounds, and every other step keeps them. -/
theorem strokeBoundsKept : Obligations.StrokeBoundsKept := by
  intro s t hb h
  obtain hreset | hkept := step_resetOrKept h
  · rw [hreset]
    decide
  · exact hkept.bounds hb

/-- Settles O6: a step that does not restart the module keeps the counters. -/
theorem counterNeverFalls : Obligations.CounterNeverFalls := by
  intro s t h
  exact (step_resetOrKept h).imp_right (fun hkept => ⟨hkept.counter, hkept.counter1⟩)

end Sys2Proof.Machine
end

section
/-! The boundary of a device that runs as one, and the end of its window where nothing waits. -/

namespace Sys2Proof.Machine

/-! ### The boundary -/

section
variable {obs : BoundaryObs} {v : Variant} {k : Strokes} {m : Mach}

/-- R46, R475: a boundary that nobody may issue. -/
theorem boundaryM_barred (hs : k.split = false) (hmay : mayTick k m 0 = false) : boundaryM obs v k m = (k, m) := by
  simp [boundaryM, hs, hmay]

/-- R38, R489: a boundary whose window does not run. -/
theorem boundaryM_clockOnly (hs : k.split = false) (hmay : mayTick k m 0 = true) (hwin : windowRuns m = false) :
    boundaryM obs v k m = (tick k 0 obs.ns true false, noteInput obs (noteEpoch k 0 m)) := by
  simp [boundaryM, hs, hmay, hwin]

/-- The clock in its window once the steps have run: what they counted is added, and park closes the window. -/
theorem closeWindow_eq (k : Strokes) (a b c : BitVec 64) (w park : Bool) (hw : k.inWindow = true) (hw1 : k.inWindow1 = w) :
    (if park then { k with overruns := a, carried := b, deferred := c, inWindow := false, inWindow1 := false }
      else { k with overruns := a, carried := b, deferred := c }) =
      { k with overruns := a, carried := b, deferred := c, inWindow := !park, inWindow1 := w && !park } := by
  cases park <;> simp [hw, hw1]

/-- R42: a boundary that runs its window and has no half to take back. -/
theorem boundaryM_full (hs : k.split = false) (hj : joins k m 0 obs.aligned = false) (hmay : mayTick k m 0 = true)
    (hwin : windowRuns m = true) :
    let k1 := tick k 0 obs.ns true true
    let e : Env := { v := v, k := k1 }
    let r := runSteps e 0 true obs (compareTables e (sendTicks k1 (noteInput obs (noteEpoch k 0 m)) 0))
    boundaryM obs v k m =
      ({ k1 with
          overruns := k1.overruns + BitVec.ofNat 64 r.1.1
          carried := k1.carried + BitVec.ofNat 64 r.1.2.1
          deferred := k1.deferred + BitVec.ofNat 64 r.1.2.2.1
          inWindow := !r.1.2.2.2
          inWindow1 := k.inWindow1 && !r.1.2.2.2 }, r.2) := by
  intro k1 e r
  obtain ⟨-, -, -, hw, hw1, -⟩ := tick_fields k obs.ns true hs
  rw [← closeWindow_eq k1 _ _ _ _ r.1.2.2.2 hw hw1]
  simp [boundaryM, hs, hj, hmay, hwin, k1, e, r]

/-- R37: without a number to adopt the clock counts on by one. -/
theorem nextNumber_own (ns : Nat) (hs : k.split = false) (ha : k.adopt = false) : nextNumber k 0 ns = k.counter + 1 := by
  simp [nextNumber, counterOf, hs, ha]

end

/-- Settles O7: the three kinds of boundary, and the clock that `tick_fields` gives. -/
theorem boundaryCounts : Obligations.BoundaryCounts := by
  intro s obs hs hj
  refine ⟨fun hmay => does_liftK rfl (boundaryM_barred hs hmay),
    fun hmay hwin => does_liftK rfl (boundaryM_clockOnly hs hmay hwin),
    fun hmay hwin => does_liftK rfl (boundaryM_full hs hj hmay hwin), fun full => ?_⟩
  obtain ⟨hc, ht, hsplit, hw, -, hp, ha, hlen, hnext, htarget, hpend, hdelay⟩ := tick_fields s.strokes obs.ns full hs
  refine ⟨hc, fun had => hc.trans (nextNumber_own obs.ns hs had), ht, hsplit, hw, ?_, ?_, hlen, hnext, htarget, hpend, hdelay⟩
  · rw [hp, hc]; rfl
  · rw [ha, hc]; rfl

/-! ### A machine in which nothing waits for the boundary -/

/-- The contexts of a machine that is quiet at the boundary. -/
theorem boundaryQuiet_parts {m : Mach} (h : boundaryQuiet m = true) :
    quiet m = true ∧ ∀ c k, k < 16 →
      (m.ctx c k).state ≠ .waiting ∧ (m.ctx c k).state ≠ .saved ∧ (m.ctx c k).state ≠ .faulted := by
  simp only [boundaryQuiet, Bool.and_eq_true, List.all_eq_true, List.mem_range, bne_iff_ne] at h
  obtain ⟨hq, hstates⟩ := h
  refine ⟨hq, fun c k hk => ?_⟩
  obtain hreset | ⟨p, hp, rfl, -⟩ := spGet_entry Core.reset m.cores c
  · have hctx : m.ctx c k = Ctx.reset := by
      rw [Mach.ctx, Mach.core, hreset]
      rfl
    rw [hctx]
    decide
  · obtain ⟨⟨hw, hs⟩, hf⟩ := hstates p hp k hk
    exact ⟨hw, hs, hf⟩

/-- Whether anything waits is a matter of the cores and of the faults met. -/
theorem quiet_congr {m n : Mach} (hd : n.due = m.due) (hc : n.cores = m.cores) : quiet n = quiet m := by
  simp only [quiet, Mach.ctx, Mach.core, hd, hc]

theorem boundaryQuiet_congr {m n : Mach} (hd : n.due = m.due) (hc : n.cores = m.cores) : boundaryQuiet n = boundaryQuiet m := by
  simp only [boundaryQuiet, quiet_congr hd hc, Mach.ctx, Mach.core, hc]

/-- An update of the listed entries that leaves a part of each alone leaves it alone under every number. -/
theorem spGet_map_part {α β : Type} (part : α → β) (f : Nat × α → Nat × α)
    (hf : ∀ p, (f p).1 = p.1 ∧ part (f p).2 = part p.2) (d : α) (c : Nat) : ∀ l : Sparse α, part (spGet d (l.map f) c) = part (spGet d l c)
  | [] => rfl
  | p :: t => by
    obtain ⟨hkey, hpart⟩ := hf p
    rw [List.map_cons, show f p = (p.1, (f p).2) from Prod.ext hkey rfl, spGet, spGet]
    by_cases h : p.1 = c
    · rw [if_pos h, if_pos h, hpart]
    · rw [if_neg h, if_neg h, spGet_map_part part f hf d c t]

/-- A change of the cores of a half that leaves their contexts alone. -/
theorem ctx_mapHalf (k : Strokes) (h : Nat) {f : Nat → Core → Core} (hf : ∀ c x, (f c x).ctxs = x.ctxs) (m : Mach) (c j : Nat) :
    (mapHalf k h f m).ctx c j = m.ctx c j := by
  have hctxs : ((mapHalf k h f m).core c).ctxs = (m.core c).ctxs :=
    spGet_map_part Core.ctxs _ (fun p => by split <;> simp [hf]) Core.reset c m.cores
  simp only [Mach.ctx, Core.ctx, hctxs]

/-- A change of the cores of a half that leaves their contexts and streams alone wakes nobody. -/
theorem boundaryQuiet_mapHalf (k : Strokes) (h : Nat) {f : Nat → Core → Core} (hc : ∀ c x, (f c x).ctxs = x.ctxs)
    (hs : ∀ c x, (f c x).streams = x.streams) {m : Mach} (hm : boundaryQuiet m = true) : boundaryQuiet (mapHalf k h f m) = true := by
  obtain ⟨hq, hstates⟩ := boundaryQuiet_parts hm
  obtain ⟨hdue, hcores⟩ := quiet_parts hq
  simp only [boundaryQuiet, quiet, Bool.and_eq_true, List.isEmpty_iff, List.all_eq_true, List.mem_range, ctx_mapHalf k h hc,
    bne_iff_ne]
  refine ⟨⟨hdue, fun p hp => ⟨?_, fun j hj => quiet_calm hq p.1 hj⟩⟩, fun p _ j hj => ?_⟩
  · obtain ⟨q, hq, rfl⟩ := List.mem_map.mp hp
    have hrest := (hcores q hq).1
    split
    · simpa only [Core.streamsRest, hs] using hrest
    · exact hrest
  · obtain ⟨hw, hsaved, hf⟩ := hstates p.1 j hj
    exact ⟨⟨hw, hsaved⟩, hf⟩

/-! ### The end of the window -/

/-- R308, R542: a core on which nobody waits for the boundary and nobody is FAULTED. -/
theorem windowEndCore_quiet (e : Env) (n c : Nat) {m : Mach} (h : boundaryQuiet m = true) : windowEndCore e n c m = m := by
  obtain ⟨-, hstates⟩ := boundaryQuiet_parts h
  have hrecovers : (List.range 16).filter (fun k => recovers n (m.ctx c k)) = [] := by
    rw [List.filter_eq_nil_iff]
    intro k hk
    simp [recovers, (hstates c k (List.mem_range.mp hk)).2.2]
  have hwaiters : waitersOf m c .boundary = [] := by
    unfold waitersOf
    rw [List.filter_eq_nil_iff]
    intro k hk
    obtain ⟨hw, hs, -⟩ := hstates c k (List.mem_range.mp hk)
    simp [hw, hs]
  have hplans : (List.range 16).filter (fun k => awaitsPlan (m.ctx c k)) = [] := by
    rw [List.filter_eq_nil_iff]
    intro k hk
    simp [awaitsPlan, (hstates c k (List.mem_range.mp hk)).1]
  simp only [windowEndCore, hrecovers, List.foldl_nil, hwaiters, List.filter_nil, wakeAll_nil, hplans]

theorem applyDecided_quiet (k : Strokes) (h : Nat) {m : Mach} (hm : boundaryQuiet m = true) :
    boundaryQuiet (applyDecided k h m) = true := by
  rw [← boundaryQuiet_mapHalf k h (f := fun _ x => { x with admitted := x.decided }) (fun _ _ => rfl) (fun _ _ => rfl) hm]
  exact boundaryQuiet_congr rfl rfl

/-- Only the halves of the dies matter to what was decided. -/
theorem applyDecided_congr {k j : Strokes} (h : Nat) (m : Mach) (hs : j.split = k.split) : applyDecided j h m = applyDecided k h m := by
  have hhalf : halfOf j = halfOf k := by
    funext d
    simp only [halfOf, hs]
  simp only [applyDecided, mapHalf, hhalf]

theorem foldl_sendSignal_frame (f : Nat × Coll → Sig) : ∀ (l : List (Nat × Coll)) (m : Mach),
    (l.foldl (fun a p => sendSignal a (f p)) m).cores = m.cores ∧ (l.foldl (fun a p => sendSignal a (f p)) m).due = m.due
  | [], _ => ⟨rfl, rfl⟩
  | p :: l, m => foldl_sendSignal_frame f l (sendSignal m (f p))

/-- R416: the signals of opened slots are under way; no core has them yet. -/
theorem startSignals_quiet (m : Mach) : quiet (startSignals m) = quiet m :=
  have ⟨hc, hd⟩ := foldl_sendSignal_frame _ (m.fabric.colls.filter (fun p => p.2.startPending)) m
  quiet_congr hd hc

/-- R479: a handover changes the gauges. -/
theorem handOver_quiet (n : Nat) (m : Mach) : quiet (handOver n m) = quiet m := by
  unfold handOver
  simp only []
  split
  · rfl
  · split
    · exact quiet_congr rfl rfl
    · exact quiet_congr (by simp [modGauge]) (by simp [modGauge])

/-- R46: the clock of a whole device once its window has ended; an extended window is counted. -/
def closedClock (k : Strokes) (extended : Bool) : Strokes :=
  { k with inWindow := false, extended := k.extended + (if extended then 1 else 0) }

theorem setWindow_closed {k : Strokes} (hs : k.split = false) (x : Bool) :
    setWindow { k with extended := k.extended + BitVec.ofNat 64 (bit x) } 0 false = closedClock k x := by
  cases x <;> simp [setWindow, closedClock, bit, hs]

section
variable {half : Nat} {x : Bool} {before : Env → Nat → Mach → Mach} {v : Variant} {k : Strokes} {m m1 : Mach}

theorem endWindow_outside (hs : k.split = false) (hw : k.inWindow = false) : endWindow half x before v k m = (k, m) := by
  simp [endWindow, inWindowOf, hs, hw]

/-- R42 step 10, R46: where nothing waits, the end of the window is what was decided, the start signals and the handover. -/
theorem endWindow_quiet (hs : k.split = false) (hw : k.inWindow = true) (hm1 : before { v := v, k := closedClock k x } 0 m = m1)
    (hq : boundaryQuiet m1 = true) :
    endWindow half x before v k m = (closedClock k x, handOver k.counter (startSignals (applyDecided k 0 m1))) := by
  have hhalf : (if k.split then half else 0) = 0 := by simp [hs]
  have hopen : (!(decide (0 < 2) && inWindowOf k 0)) = false := by simp [inWindowOf, hs, hw]
  have hcount : counterOf (closedClock k x) 0 = k.counter := by simp [counterOf, closedClock]
  have hlead (g : Gauge) : (!(closedClock k x).split || g.lead) = true := by simp [closedClock, hs]
  have hdecided : applyDecided (closedClock k x) 0 m1 = applyDecided k 0 m1 := applyDecided_congr 0 m1 rfl
  have happly := applyDecided_quiet k 0 hq
  have hcores (e : Env) (cs : List Nat) :
      cs.foldl (fun a c => windowEndCore e k.counter c a) (applyDecided k 0 m1) = applyDecided k 0 m1 :=
    foldl_stays _ _ _ (fun c _ => windowEndCore_quiet e k.counter c happly)
  have hdue : (applyDecided k 0 m1).due = [] := (quiet_parts (boundaryQuiet_parts happly).1).1
  have hfinal : quiet (handOver k.counter (startSignals (applyDecided k 0 m1))) = true := by
    rw [handOver_quiet, startSignals_quiet]
    exact (boundaryQuiet_parts happly).1
  simp only [endWindow, hhalf, hopen, setWindow_closed hs, hcount, hlead, hm1, hdecided, hcores, settle_nil _ _ hdue,
    Bool.true_or, if_true, Bool.false_eq_true, if_false, finish_quiet _ _ hfinal]

end

theorem boundaryQuiet_raiseFault (m : Mach) (d : Nat) (r : FaultRec) : boundaryQuiet (raiseFault m d r) = boundaryQuiet m :=
  boundaryQuiet_congr (raiseFault_due m d r) (raiseFault_cores m d r)

/-- The record carries the stroke, which the end of the window leaves alone. -/
theorem extendedRecord_whole (v : Variant) {k j : Strokes} (m : Mach) (hs : k.split = false) (hj : j.split = k.split)
    (hc : j.counter = k.counter) :
    extendedRecord { v := v, k := j } 0 m =
      raiseFault m (leadGauge m) (mkFault { v := v, k := k } m (leadGauge m) famManagement 0x11 0) := by
  simp [extendedRecord, mkFault, strokeAt, halfOf, hj, hs, hc]

/-- Settles O8: both commands end the window as `endWindow_quiet` says, the second with its record before. -/
theorem windowEnds : Obligations.WindowEnds := by
  intro s half hs
  refine ⟨fun hw => ⟨fun x => does_liftK rfl (endWindow_outside hs hw), does_liftK rfl (endWindow_outside hs hw)⟩,
    fun hw hq => ⟨fun x => ?_, ?_⟩⟩
  · exact does_liftK rfl (endWindow_quiet hs hw rfl hq)
  · exact does_liftK rfl (endWindow_quiet hs hw (extendedRecord_whole _ s.mach hs rfl rfl)
      ((boundaryQuiet_raiseFault _ _ _).trans hq))

end Sys2Proof.Machine
end

section
/-! Writes of the period and the window, and what a follower receives. -/

namespace Sys2Proof.Machine

/-! ### Writes of the period and the window -/

/-- R39: a period that the lead takes is armed, at the latest for the next stroke. -/
theorem periodRun_taken {us : Nat} {k : Strokes} (v : Variant) (m : Mach) (hs : k.split = false)
    (h : 10 ≤ us ∧ us ≤ 65535 ∧ ∀ p ∈ [k.period, us], ∀ w ∈ windowsOf k, 2 * w < p) :
    periodRun us v k m =
      (0, { k with pendingPeriod := us, armed := some (us, if k.target ≤ k.counter then k.counter + 1 else k.target) }, m) := by
  obtain ⟨hlo, hhi, hpair⟩ := h
  have hcount : counterOf k (leadGauge m) = k.counter := by simp [counterOf, hs]
  have hgood : pairingBad [k.period, us] (k.window :: k.windowNext.toList) = false := (pairingBad_iff _ _).mpr hpair
  unfold periodRun
  rw [if_neg (by omega), hgood, hcount]
  rfl

/-- R454: one out of range, or without room for a window, is refused. -/
theorem periodRun_refused {us : Nat} {k : Strokes} (v : Variant) (m : Mach)
    (h : ¬(10 ≤ us ∧ us ≤ 65535 ∧ ∀ p ∈ [k.period, us], ∀ w ∈ windowsOf k, 2 * w < p)) : (periodRun us v k m).1 = 1 := by
  unfold periodRun
  by_cases hrange : us < 10 ∨ 65535 < us
  · rw [if_pos hrange]
    rfl
  · have hbad : pairingBad [k.period, us] (k.window :: k.windowNext.toList) = true := by
      rw [← Bool.not_eq_false, pairingBad_iff]
      exact fun hpair => h ⟨by omega, by omega, hpair⟩
    rw [if_neg hrange, if_pos hbad]
    rfl

/-- R40: a window length that the lead takes waits for the next boundary. -/
theorem windowRun_taken {us : Nat} {k : Strokes} (v : Variant) (m : Mach)
    (h : 4 ≤ us ∧ us ≤ 32 ∧ ∀ p ∈ periodsOf k, ∀ w ∈ [us, k.window], 2 * w < p) :
    windowRun us v k m = (0, { k with windowNext := some us }, m) := by
  obtain ⟨hlo, hhi, hpair⟩ := h
  have hgood : pairingBad (k.period :: (k.armed.map (fun a => a.1)).toList) [us, k.window] = false := (pairingBad_iff _ _).mpr hpair
  unfold windowRun
  rw [if_neg (by omega), hgood]
  rfl

theorem windowRun_refused {us : Nat} {k : Strokes} (v : Variant) (m : Mach)
    (h : ¬(4 ≤ us ∧ us ≤ 32 ∧ ∀ p ∈ periodsOf k, ∀ w ∈ [us, k.window], 2 * w < p)) : (windowRun us v k m).1 = 1 := by
  unfold windowRun
  by_cases hrange : us < 4 ∨ 32 < us
  · rw [if_pos hrange]
    rfl
  · have hbad : pairingBad (k.period :: (k.armed.map (fun a => a.1)).toList) [us, k.window] = true := by
      rw [← Bool.not_eq_false, pairingBad_iff]
      exact fun hpair => h ⟨by omega, by omega, hpair⟩
    rw [if_neg hrange, if_pos hbad]
    rfl

/-- Settles O9: both writes are dictionary writes, whose effect is taken or refused. -/
theorem periodAndWindowWrites : Obligations.PeriodAndWindowWrites := by
  intro s via us hs
  refine ⟨fun hr => ⟨fun h => ?_, fun h => ?_⟩, fun hr => ⟨fun h => ?_, fun h => ?_⟩⟩
  · exact does_liftK rfl (dictWrite_ok hr (periodRun_taken s.variant s.mach hs h))
  · exact does_liftK rfl (dictWrite_refused hr (periodRun_refused s.variant s.mach h) one_ne_zero)
  · exact does_liftK rfl (dictWrite_ok hr (windowRun_taken s.variant s.mach h))
  · exact does_liftK rfl (dictWrite_refused hr (windowRun_refused s.variant s.mach h) one_ne_zero)

/-! ### What a follower receives -/

/-! The four commands change the clock alone. -/

theorem does_strokeInEdge (s : State) (ns width : Nat) :
    DoesK (.strokeInEdge ns width) s (strokeInM ns width s.strokes s.mach) s.mach := rfl

theorem does_marker (s : State) (n number hops ns : Nat) :
    DoesK (.marker n number hops ns) s (markerM n number hops ns s.variant s.strokes s.mach) s.mach := rfl

theorem does_alignmentLock (s : State) : DoesK .alignmentLock s (lockM s.strokes s.mach) s.mach := rfl

theorem does_sourceLoss (s : State) : DoesK .sourceLoss s (lossM s.strokes) s.mach := rfl

section
variable {k : Strokes} {m : Mach}

/-- R550: an edge that is long enough and far enough behind the last is the source's boundary. -/
theorem strokeInM_taken {ns width : Nat} (hl : listens k m 2 = true) (hw : 50 ≤ width)
    (hlast : ∀ t, k.lastEdge = some t → t + 5000 ≤ ns) :
    strokeInM ns width k m =
      { k with lastEdge := some ns, source := some (noteSource k (ns - k.inDelay) none), hops := 0 } := by
  have hclose : k.lastEdge.any (fun t => decide (ns < t + 5000)) = false := by
    rw [Option.any_eq_false]
    exact fun t ht => by simpa using hlast t ht
  have hwidth : decide (width < 50) = false := by simpa using hw
  simp [strokeInM, hl, hwidth, hclose]

/-- R550: a pulse that is too short is none. -/
theorem strokeInM_short {ns width : Nat} (hw : width < 50) : strokeInM ns width k m = k := by
  simp [strokeInM, hw]

/-- R60, R61: the first marker of an UP link is the source's boundary. -/
theorem markerM_first {n number hops ns : Nat} {v : Variant} (hl : listens k m 3 = true) (hlink : v.hasLink n = true)
    (hup : (m.link n).state = 2) (hlo : 1 ≤ hops) (hhi : hops ≤ 16) (hsource : k.source = none) :
    markerM n number hops ns v k m =
      { k with source := some { ns := ns - (m.link n).latency, marker := some (n, number, hops), period := none }, hops := hops } := by
  have hzero : (hops == 0) = false := by simp; omega
  have hfar : decide (16 < hops) = false := by simpa using hhi
  simp [markerM, hl, hlink, hup, hzero, hfar, hsource]

/-- R63: eight boundaries in tolerance lock the clock, and its number stays until the next boundary. -/
theorem lockM_locks (hf : follows k.align = true) (ha : k.alignState = 1) (hg : 8 ≤ k.good) (hp : k.periodMismatch = false) :
    (lockM k m).alignState = 2 ∧ (lockM k m).counter = k.counter := by
  simp only [lockM, hf, ha, hg, hp]
  simp only [beq_self_eq_true, decide_true, Bool.and_self, Bool.not_false, Bool.not_true, Bool.false_eq_true, if_false]
  split
  · exact ⟨rfl, rfl⟩
  split
  · exact ⟨rfl, rfl⟩
  split
  · exact ⟨rfl, rfl⟩
  split <;> exact ⟨rfl, rfl⟩

/-- R67: the source's number is adopted at the next boundary, or the clock is found ahead of it. -/
theorem lockM_number (hf : follows k.align = true) (ha : k.alignState = 1) (hg : 8 ≤ k.good) (hp : k.periodMismatch = false)
    (hs : k.split = false) {n : Nat} (hn : sourceNumber k k.timestamp = some n) :
    (k.align.adoptNumber = true → k.counter ≤ n → (lockM k m).adopt = true ∧ (lockM k m).numberOffset = 0) ∧
      (n < k.counter → (lockM k m).numberAhead = true ∧ (lockM k m).numberOffset = BitVec.ofNat 64 (k.counter - n)) := by
  have hlock : lockM k m =
      (let locked := { k with alignState := 2, numberAhead := false, numberBehind := false, numberOffset := 0, adopt := false }
      if k.align.adoptNumber ∧ k.counter ≤ n then { locked with adopt := true }
      else if n < k.counter then { locked with numberAhead := true, numberOffset := BitVec.ofNat 64 (k.counter - n) }
      else if k.counter < n then { locked with numberBehind := true, numberOffset := BitVec.ofNat 64 (n - k.counter) }
      else locked) := by
    simp [lockM, hf, ha, hg, hp, hs, hn, counterOf]
  refine ⟨fun hadopt hle => ?_, fun hlt => ?_⟩
  · rw [hlock, if_pos ⟨hadopt, hle⟩]
    exact ⟨rfl, rfl⟩
  · rw [hlock, if_neg (by omega), if_pos hlt]
    exact ⟨rfl, rfl⟩

/-- R66: as many missing boundaries as LOSS_COUNT says lose the source. -/
theorem lossM_lost (hf : follows k.align = true) (hmiss : k.align.lossCount ≤ k.missing) (ha : k.alignState = 1 ∨ k.alignState = 2) :
    lossM k = { k with alignState := 3, good := 0, adopt := false, stretch := 0 } := by
  have hstate : (k.alignState == 1 || k.alignState == 2) = true := by simpa using ha
  simp [lossM, hf, hmiss, hstate]

end

/-- Settles O10: each event is a change of the clock alone. -/
theorem followerEvents : Obligations.FollowerEvents := by
  intro s
  refine ⟨fun ns width hl hw hlast => ?_, fun ns width hw => ?_, fun n number hops ns hl hlink hup hlo hhi hsource => ?_,
    fun hf ha hg hp => ?_, fun hf hmiss ha => ?_⟩
  · exact strokeInM_taken hl hw hlast ▸ does_strokeInEdge s ns width
  · exact strokeInM_short (k := s.strokes) hw ▸ does_strokeInEdge s ns width
  · exact markerM_first hl hlink hup hlo hhi hsource ▸ does_marker s n number hops ns
  · obtain ⟨hstate, hcounter⟩ := lockM_locks (m := s.mach) hf ha hg hp
    exact ⟨lockM s.strokes s.mach, does_alignmentLock s, hstate, hcounter, fun n hn hs => lockM_number hf ha hg hp hs hn⟩
  · exact lossM_lost hf hmiss ha ▸ does_sourceLoss s

end Sys2Proof.Machine
end

section
/-! Commands of a command stream: those of the Marquetry engine and of the Scribe unit, and the stream commands. -/

namespace Sys2Proof.Machine

/-- A command that issues and is taken at its execution: issue goes on at the next one. -/
theorem does_taken {i : Instr} {s : State} {c k op : Nat} {w : Word} {run : Run} {m : Mach} (hi : exec i s = liftM (issue op run c k w) s)
    (h : dispatches s c k op w = true) (hr : run s.env (issuedMach s c k w) c k (issuedWord s c k w) = (m, .taken)) :
    Does i s (finish s.env (goesOn c k (issuedWord s c k w) m)) :=
  does_liftM hi (issue_taken h hr)

/-- A command that issues and waits at its execution is kept, to be executed again. -/
theorem does_waits {i : Instr} {s : State} {c k op detail : Nat} {w : Word} {run : Run} {m : Mach} {cause : Cause}
    (hi : exec i s = liftM (issue op run c k w) s) (h : dispatches s c k op w = true)
    (hr : run s.env (issuedMach s c k w) c k (issuedWord s c k w) = (m, .wait cause detail)) :
    Does i s (finish s.env (setState s.env (m.modCtx c k (fun x => { x with waitCmd := some (issuedWord s c k w) })) c k
      .waiting cause detail)) :=
  does_liftM hi (by rw [issue_runs run h, hr]; rfl)

/-! ### The Marquetry engine and the Scribe unit -/

section
variable {e : Env} {m : Mach} {c k : Nat} {w : Word}

/-- R50: in the window a command that reads a table waits for its end. -/
theorem runGather_held (hreads : trayBad m c (gatCheckReads w) = none) (hchecks : firstBad (gatChecks e m c k w) = none)
    (hop : fld w 7 0 ≠ 0x34) (hwin : windowAt e.k (dieOf c) = true) : runGather e m c k w = (m, .wait .boundary 0) := by
  simp only [runGather, hreads, hchecks, heldByWindow, hwin, hop, ne_eq, not_false_eq_true, and_self, if_true]

/-- R163: outside it, and for `MERGE_FLUSH`, the command joins the engine's queue. -/
theorem runGather_placed (hreads : trayBad m c (gatCheckReads w) = none) (hchecks : firstBad (gatChecks e m c k w) = none)
    (hgo : windowAt e.k (dieOf c) = false ∨ fld w 7 0 = 0x34) (hb : unitBlocked m c k w = false)
    (hn : nobodyPreempted m c k w = true) : runGather e m c k w = (placeIn e c k w .marquetry [gtTable w] m, .taken) := by
  have hfree : ¬(fld w 7 0 ≠ 0x34 ∧ heldByWindow e c = true) := by
    rintro ⟨hop, hwin⟩
    rcases hgo with hgo | hgo
    · rw [heldByWindow, hgo] at hwin
      cases hwin
    · exact hop hgo
  simp only [runGather, hreads, hchecks, if_neg hfree, forUnit_placed _ hb hn]

/-- R50: every traversal reads or writes by tables, so the window holds it. -/
theorem runTraversal_held (hreads : trayBad m c (scrCheckReads w) = none) (hchecks : firstBad (scrChecks e m c w) = none)
    (hwin : windowAt e.k (dieOf c) = true) : runTraversal e m c k w = (m, .wait .boundary 0) := by
  simp only [runTraversal, hreads, hchecks, heldByWindow, hwin, if_true]

/-- R235: outside it the command joins the unit's queue. -/
theorem runTraversal_placed (hreads : trayBad m c (scrCheckReads w) = none) (hchecks : firstBad (scrChecks e m c w) = none)
    (hwin : windowAt e.k (dieOf c) = false) (hb : unitBlocked m c k w = false) (hn : nobodyPreempted m c k w = true) :
    runTraversal e m c k w =
      (placeIn e c k w .scribe
        (if fld w 7 0 = 0x40 then [scEmb w, scAdj w] else if fld w 7 0 = 0x41 then [exAdj w] else []) m, .taken) := by
  simp only [runTraversal, hreads, hchecks, heldByWindow, hwin, Bool.false_eq_true, if_false, forUnit_placed _ hb hn]

end

/-- The five commands of the Marquetry engine with their opcodes. -/
def gatherCommands (c k : Nat) (w : Word) : List (Nat × Instr) :=
  [(0x30, Instr.gather c k w), (0x31, .pool c k w), (0x32, .sample c k w), (0x33, .merge c k w), (0x34, .mergeFlush c k w)]

/-- Each is the one meaning `runGather` under its opcode. -/
theorem exec_gatherCommands {c k : Nat} {w : Word} {p : Nat × Instr} (hp : p ∈ gatherCommands c k w) (s : State) :
    exec p.2 s = liftM (issue p.1 runGather c k w) s := by
  simp only [gatherCommands, List.mem_cons, List.not_mem_nil, or_false] at hp
  obtain rfl | rfl | rfl | rfl | rfl := hp <;> rfl

/-- Settles O13: the five commands share `runGather`. -/
theorem gatherCommandsIssue : Obligations.GatherCommandsIssue := by
  intro s c k w p hp m v hd hreads hchecks
  have hexec := exec_gatherCommands hp s
  exact ⟨fun hwin hop => does_waits hexec hd (runGather_held hreads hchecks hop hwin),
    fun hgo hb hn => does_taken hexec hd (runGather_placed hreads hchecks hgo hb hn)⟩

/-- The three commands of the Scribe unit with their opcodes. -/
def traversalCommands (c k : Nat) (w : Word) : List (Nat × Instr) :=
  [(0x40, Instr.search c k w), (0x41, .expand c k w), (0x42, .apply c k w)]

/-- Each is the one meaning `runTraversal` under its opcode. -/
theorem exec_traversalCommands {c k : Nat} {w : Word} {p : Nat × Instr} (hp : p ∈ traversalCommands c k w) (s : State) :
    exec p.2 s = liftM (issue p.1 runTraversal c k w) s := by
  simp only [traversalCommands, List.mem_cons, List.not_mem_nil, or_false] at hp
  obtain rfl | rfl | rfl := hp <;> rfl

/-- Settles O14: the three commands share `runTraversal`. -/
theorem traversalCommandsIssue : Obligations.TraversalCommandsIssue := by
  intro s c k w p hp m v hd hreads hchecks
  have hexec := exec_traversalCommands hp s
  exact ⟨fun hwin => does_waits hexec hd (runTraversal_held hreads hchecks hwin),
    fun hwin hb hn => does_taken hexec hd (runTraversal_placed hreads hchecks hwin hb hn)⟩

/-! ### The stream commands -/

section
variable {e : Env} {m : Mach} {c k : Nat} {w : Word}

/-- R281: a `STREAM` that was dispatched early has been executed. -/
theorem runStream_early (h : (m.ctx c k).early.contains w = true) :
    runStream e m c k w = (m.modCtx c k (fun y => { y with early := y.early.erase w }), .taken) := by
  simp only [runStream, h, if_true]

/-- R50: a `STREAM` that reads by a table waits in the window. -/
theorem runStream_held (hearly : (m.ctx c k).early.contains w = false) (hchecks : firstBad (streamChecks e m c k w) = none)
    (hsrc : stSrcKind w = 2) (hwin : windowAt e.k (dieOf c) = true) : runStream e m c k w = (m, .wait .boundary 0) := by
  simp only [runStream, hearly, hchecks, heldByWindow, hsrc, hwin, Bool.false_eq_true, if_false, and_self, if_true]

/-- R269: any other starts in its slot. -/
theorem runStream_starts (hearly : (m.ctx c k).early.contains w = false) (hchecks : firstBad (streamChecks e m c k w) = none)
    (hgo : stSrcKind w ≠ 2 ∨ windowAt e.k (dieOf c) = false) (hb : unitBlocked m c k w = false) :
    runStream e m c k w = (startStream e m c k w, .taken) := by
  have hfree : ¬(stSrcKind w = 2 ∧ heldByWindow e c = true) := by
    rintro ⟨hsrc, hwin⟩
    rcases hgo with hgo | hgo
    · exact hgo hsrc
    · rw [heldByWindow, hgo] at hwin
      cases hwin
  simp only [runStream, hearly, hchecks, hb, if_neg hfree, Bool.false_eq_true, if_false]

variable {y : Stream}

/-- A `REARM` of a running stream is held (R276). -/
theorem runRearm_running (hw : slotAwaited m c k (fld w 67 64) = false) (hchecks : firstBad (rearmChecks m c k w) = none)
    (hy : persistentOf m c k (fld w 67 64) = some y) (ha : y.active = true) (hheld : y.rearmHeld = none) :
    runRearm e m c k w = (m.setStream c (fld w 67 64) { y with rearmHeld := some w }, .taken) := by
  simp [runRearm, hw, hchecks, hy, ha, hheld]

/-- A `REARM` of an idle stream with a TABLE source waits in the window (notes/assumptions/39). -/
theorem runRearm_heldByWindow (hw : slotAwaited m c k (fld w 67 64) = false) (hchecks : firstBad (rearmChecks m c k w) = none)
    (hy : persistentOf m c k (fld w 67 64) = some y) (ha : y.active = false)
    (hwin : stSrcKind y.w = 2 ∧ flag w 72 = false ∧ windowAt e.k (dieOf c) = true) :
    runRearm e m c k w = (m, .wait .boundary 0) := by
  simp [runRearm, hw, hchecks, hy, ha, heldByWindow, hwin]

/-- R276: any other `REARM` of an idle stream begins the next pass. -/
theorem runRearm_begins (hw : slotAwaited m c k (fld w 67 64) = false) (hchecks : firstBad (rearmChecks m c k w) = none)
    (hy : persistentOf m c k (fld w 67 64) = some y) (ha : y.active = false)
    (hgo : ¬(stSrcKind y.w = 2 ∧ flag w 72 = false ∧ windowAt e.k (dieOf c) = true)) :
    runRearm e m c k w = (beginPass e (m.setStream c (fld w 67 64) (applyRearm w y)) c (fld w 67 64), .taken) := by
  have hgo' : ¬(stSrcKind y.w = 2 ∧ ¬flag w 72 = true ∧ heldByWindow e c = true) := by
    rwa [Bool.not_eq_true]
  simp only [runRearm, hw, hchecks, hy, ha, if_neg hgo', Bool.false_eq_true, if_false]

/-- R275: the streams of the context that a `CANCEL` names, in slots and saved. -/
theorem runCancel_marks (hchecks : firstBad (rearmChecks m c k w) = none) :
    let one (p : Nat × Stream) : Bool := flag w 72 || p.1 == fld w 67 64
    let x : StreamCancel := { drop := false, quiet := [], fenced := [], unbound := [] }
    runCancel e m c k w =
      (((((m.ctx c k).saved.map (fun v => v.streams)).getD []).filter one).foldl (cancelSaved e c k x)
        ((((m.core c).streams.filter (fun p => p.2.ctx == k && one p)).map (fun p => p.1)).foldl (fun a n => markCancel a c n x) m),
        .taken) := by
  simp only [runCancel, hchecks]

/-- R276: a `RETIRE` of an idle stream ends it with its record. -/
theorem runRetire_idle (hw : slotAwaited m c k (fld w 67 64) = false) (hchecks : firstBad (rearmChecks m c k w) = none)
    (hy : persistentOf m c k (fld w 67 64) = some y) (ha : y.active = false) :
    runRetire e m c k w = (freeSlot (endRecord e m c (fld w 67 64) y 2 false) c (fld w 67 64) y.w, .taken) := by
  simp only [runRetire, hw, hchecks, hy, ha, Bool.false_eq_true, if_false]

/-- R276: a `RETIRE` of a running stream waits for its pass. -/
theorem runRetire_running (hw : slotAwaited m c k (fld w 67 64) = false) (hchecks : firstBad (rearmChecks m c k w) = none)
    (hy : persistentOf m c k (fld w 67 64) = some y) (ha : y.active = true) :
    runRetire e m c k w = (m.setStream c (fld w 67 64) { y with retirePending := true }, .taken) := by
  simp only [runRetire, hw, hchecks, hy, ha, Bool.false_eq_true, if_false, if_true]

end

/-- Settles O20: each clause is one way in which the command can be executed. -/
theorem streamCommands : Obligations.StreamCommands := by
  intro s c k w m v slot
  refine ⟨fun hd => ⟨fun hearly => does_taken rfl hd (runStream_early hearly), fun hearly hchecks =>
      ⟨fun hsrc hwin => does_waits rfl hd (runStream_held hearly hchecks hsrc hwin),
        fun hgo hb => does_taken rfl hd (runStream_starts hearly hchecks hgo hb)⟩⟩,
    fun hchecks => ⟨fun y hd hw hy => ⟨fun ha hwin => ?_, fun ha hgo => ?_, fun ha hheld => ?_⟩, fun hd => ?_,
      fun y hd hw hy => ⟨fun ha => ?_, fun ha => ?_⟩⟩⟩
  · exact does_waits rfl hd (runRearm_heldByWindow hw hchecks hy ha hwin)
  · exact does_taken rfl hd (runRearm_begins hw hchecks hy ha hgo)
  · exact does_taken rfl hd (runRearm_running hw hchecks hy ha hheld)
  · exact does_taken rfl hd (runCancel_marks hchecks)
  · exact does_taken rfl hd (runRetire_idle hw hchecks hy ha)
  · exact does_taken rfl hd (runRetire_running hw hchecks hy ha)

end Sys2Proof.Machine
end

section
/-! The doorbell and the descriptor of an intake ring. -/

namespace Sys2Proof.Machine

section
variable {s : State} {ep i n : Nat}

/-- R53, R430: a doorbell that reaches its ring. -/
theorem intakeTailM_open (h : barOpen s ep (ringDie s.mach ep i) = true) (h1 : 1 ≤ i) (h2 : i ≤ 1024) :
    intakeTailM ep i n s.env s.mach =
      if doorbellBad (s.mach.intake i).tail.toNat (s.mach.intake i).head.toNat n (s.mach.intake i).desc.sizeLog2 then
        refuse s.env s.mach ep (intakeOff i 0x18) 0x14
      else s.mach.modIntake i (fun y =>
        { y with tail := BitVec.ofNat 32 n, ages := y.ages ++ List.replicate (diff32 y.tail.toNat n) 0 }) :=
  intakeWrite_open h h1 h2

/-- R563: the word at +0x08 is held. -/
theorem intakeDescM_word1 (h : barOpen s ep (ringDie s.mach ep i) = true) (h1 : 1 ≤ i) (h2 : i ≤ 1024) :
    intakeDescM ep i 1 n s.env s.mach = s.mach.modIntake i (fun y => { y with word1 := n % 2 ^ 64 }) :=
  intakeWrite_open h h1 h2

/-- R563: the word at +0x10 is held. -/
theorem intakeDescM_word2 (h : barOpen s ep (ringDie s.mach ep i) = true) (h1 : 1 ≤ i) (h2 : i ≤ 1024) :
    intakeDescM ep i 2 n s.env s.mach = s.mach.modIntake i (fun y => { y with word2 := n % 2 ^ 64 }) :=
  intakeWrite_open h h1 h2

/-- R439: the word at +0x00 of a ring that is not enabled applies all three. -/
theorem intakeDescM_applied (h : barOpen s ep (ringDie s.mach ep i) = true) (h1 : 1 ≤ i) (h2 : i ≤ 1024)
    (hoff : (s.mach.intake i).desc.enable = false)
    (hgood : intakeBad s.mach i (intakeFields n (s.mach.intake i).word1 (s.mach.intake i).word2) = none) :
    intakeDescM ep i 0 n s.env s.mach = s.mach.modIntake i (fun y =>
      { y with desc := intakeFields n (s.mach.intake i).word1 (s.mach.intake i).word2 }) := by
  refine (intakeWrite_open h h1 h2).trans ?_
  simp [hoff, hgood]

/-- R438: words that break a rule are refused. -/
theorem intakeDescM_refused {code : Nat} (h : barOpen s ep (ringDie s.mach ep i) = true) (h1 : 1 ≤ i) (h2 : i ≤ 1024)
    (hoff : (s.mach.intake i).desc.enable = false)
    (hbad : intakeBad s.mach i (intakeFields n (s.mach.intake i).word1 (s.mach.intake i).word2) = some code) :
    intakeDescM ep i 0 n s.env s.mach = refuse s.env s.mach ep (intakeOff i 0) code := by
  refine (intakeWrite_open h h1 h2).trans ?_
  simp [hoff, hbad]

end

/-- Settles O41: the writes reach their ring, and each clause is one outcome there. -/
theorem intakeRegisters : Obligations.IntakeRegisters := by
  intro s ep i n hopen h1 h2 m x
  have htail := intakeTailM_open (n := n) hopen h1 h2
  refine ⟨fun hgood => does_liftM rfl ?_, fun hbad => does_liftM rfl ?_, does_liftM rfl (intakeDescM_word1 hopen h1 h2),
    does_liftM rfl (intakeDescM_word2 hopen h1 h2), fun hoff => ⟨fun hgood => ?_, fun code hbad => ?_⟩⟩
  · exact htail.trans (if_neg (by rw [hgood]; exact Bool.false_ne_true))
  · exact htail.trans (if_pos hbad)
  · exact does_liftM rfl (intakeDescM_applied hopen h1 h2 hoff hgood)
  · exact does_liftM rfl (intakeDescM_refused hopen h1 h2 hoff hbad)

end Sys2Proof.Machine
end

section
/-! The Mortise array: its commands, and what it reports. -/

namespace Sys2Proof.Machine

/-! ### The commands -/

/-- R81, R83, R93, R94: a command whose unit is free joins the end of the queue. -/
theorem runArray_placed {e : Env} {m : Mach} {c k : Nat} {w : Word} (hchecks : firstBad (arrayChecks e m c k w) = none)
    (hb : unitBlocked m c k w = false) (hn : nobodyPreempted m c k w = true) :
    runArray e m c k w = (arrayAdvance e ((notePreloaded m c k w).modArr c (fun a =>
      { a with queue := a.queue ++ [{ ctx := k, w := w, stroke := strokeAt e.k (dieOf c) }] })) c, .taken) := by
  simp only [runArray, hchecks, forUnit_placed _ hb hn]

/-- The four commands of the array with their opcodes. -/
def arrayCommands (c k : Nat) (w : Word) : List (Nat × Instr) :=
  [(0x10, Instr.pass c k w), (0x11, .preload c k w), (0x12, .swap c k w), (0x13, .drain c k w)]

/-- Each is the one meaning `runArray` under its opcode. -/
theorem exec_arrayCommands {c k : Nat} {w : Word} {p : Nat × Instr} (hp : p ∈ arrayCommands c k w) (s : State) :
    exec p.2 s = liftM (issue p.1 runArray c k w) s := by
  simp only [arrayCommands, List.mem_cons, List.not_mem_nil, or_false] at hp
  obtain rfl | rfl | rfl | rfl := hp <;> rfl

/-- Settles O11: the four commands share `runArray`. -/
theorem arrayCommandsIssue : Obligations.ArrayCommandsIssue := by
  intro s c k w p hp m v hd hchecks hb hn
  exact does_taken (exec_arrayCommands hp s) hd (runArray_placed hchecks hb hn)

/-! ### The fill -/

section
variable {e : Env} {m : Mach} {c : Nat}

/-- R88: what the pass at the head of the queue needs in order to fill. -/
def mayFill (e : Env) (m : Mach) (c : Nat) (q : ArrCmd) : Bool :=
  coreClocked e m c && fld q.w 7 0 == 0x10 && !psEmpty q.w && setsQuiet (m.arr c) && decide (0 < arrayClass m c)

variable {q : ArrCmd} {rest : List ArrCmd}

theorem mayFill_of (hclk : coreClocked e m c = true) (hop : fld q.w 7 0 = 0x10) (hempty : psEmpty q.w = false)
    (hquiet : setsQuiet (m.arr c) = true) (hclass : 0 < arrayClass m c) : mayFill e m c q = true := by
  simp [mayFill, hclk, hop, hempty, hquiet, hclass]

/-- R87, R88: the pass streams in a fresh tile over the preloaded set, and the old tile drains. -/
theorem passFillM_preloaded {p : Preload} (hq : (m.arr c).queue = q :: rest) (hfill : mayFill e m c q = true)
    (hcont : psContinue q.w = false) (hp : (m.arr c).preload = some p) :
    passFillM e m c = m.modArr c (fun x =>
      { x with queue := rest, streaming := some { cmd := q, streamed := 0 }, draining := x.active, activeRaw := none,
               active := some (tileFrom p q.w q.ctx), preload := none, drainCmd := false }) := by
  unfold mayFill at hfill
  simp [passFillM, hq, hfill, hcont, hp]

/-- R93: with CONTINUE the pass streams on in the active tile. -/
theorem passFillM_active {t : Tile} (hq : (m.arr c).queue = q :: rest) (hfill : mayFill e m c q = true)
    (hcont : psContinue q.w = true) (ht : (m.arr c).active = some t) :
    passFillM e m c = m.modArr c (fun x =>
      { x with queue := rest, streaming := some { cmd := q, streamed := 0 }, active := some { t with w := q.w } }) := by
  unfold mayFill at hfill
  simp [passFillM, hq, hfill, hcont, ht]

/-- R93: with CONTINUE and no tile the pass streams in a fresh tile over the set that `SWAP` made active. -/
theorem passFillM_raw {p : Preload} (hq : (m.arr c).queue = q :: rest) (hfill : mayFill e m c q = true)
    (hcont : psContinue q.w = true) (ha : (m.arr c).active = none) (hp : (m.arr c).activeRaw = some p) :
    passFillM e m c = m.modArr c (fun x =>
      { x with queue := rest, streaming := some { cmd := q, streamed := 0 }, activeRaw := none,
               active := some (tileFrom p q.w q.ctx) }) := by
  unfold mayFill at hfill
  simp [passFillM, hq, hfill, hcont, ha, hp]

/-! ### The end of streaming -/

/-- R87, R102: a pass whose reads nothing holds takes the rest of its slices, and its tile stays active. -/
theorem passEndM_streams {r : Streaming} {t : Tile} (hr : (m.arr c).streaming = some r) (ht : (m.arr c).active = some t)
    (hclk : coreClocked e m c = true) (hclass : 0 < arrayClass m c)
    (hheld : readsHeld (m.arr c) (passReads r.cmd.w r.streamed (psShare r.cmd.w)) = false)
    (hsave : (m.ctx c r.cmd.ctx).saving.contains .array = false)
    (hbad : trayBad m c (passReads r.cmd.w r.streamed (psShare r.cmd.w)) = none) :
    passEndM e m c = arrayAdvance e ((streamOn m c r (psShare r.cmd.w) t).1.modArr c (fun x =>
      { x with streaming := none, active := some (streamOn m c r (psShare r.cmd.w) t).2 })) c := by
  have hopen : (!coreClocked e m c || arrayClass m c == 0 ||
      readsHeld (m.arr c) (passReads r.cmd.w r.streamed (psShare r.cmd.w)) ||
      (m.ctx c r.cmd.ctx).saving.contains .array) = false := by
    rw [hclk, hheld, hsave, beq_eq_false_iff_ne.mpr hclass.ne']
    rfl
  simp only [passEndM, hr, ht, hopen, hbad, Bool.false_eq_true, if_false]

/-! ### The preload -/

variable {p : Preload}

/-- The machine once the preload `p` has read its source (R84, R122, R356). -/
def preloadRead (m : Mach) (c : Nat) (p : Preload) : Mach :=
  (trayCount m c (preloadReads p.w)).modArr c (fun x =>
    { x with preload := some { p with loaded := true, values := preloadValues (trayCount m c (preloadReads p.w)) c p.w } })

theorem loadPreload_reads (hbad : trayBad m c (preloadReads p.w) = none) : loadPreload e m c p = preloadRead m c p := by
  simp only [loadPreload, hbad, preloadRead]

/-- What the array of a core holds is nothing that clocks it. -/
@[simp] theorem coreClocked_modArr (f : ArrayUnit → ArrayUnit) : coreClocked e (m.modArr c f) c = coreClocked e m c := by
  simp [coreClocked, coreIn, coreFenced, Mach.modArr]

theorem coreClocked_preloadRead : coreClocked e (preloadRead m c p) c = coreClocked e m c := by
  rw [preloadRead, coreClocked_modArr]
  rfl

theorem draining_preloadRead : ((preloadRead m c p).arr c).draining = (m.arr c).draining := by
  rw [preloadRead, arr_modArr]
  rfl

/-- R89, R92: a preload whose reads no earlier drain holds has loaded. -/
theorem preloadEndM_loads (hp : (m.arr c).preload = some p) (hl : p.loaded = false) (hclk : coreClocked e m c = true)
    (hgo : p.after = false ∨ readsHeld (m.arr c) (preloadReads p.w) = false) (hbad : trayBad m c (preloadReads p.w) = none) :
    preloadEndM e m c = arrayAdvance e (preloadRead m c p) c := by
  have hfree : (p.after && readsHeld (m.arr c) (preloadReads p.w)) = false := Bool.and_eq_false_iff.mpr hgo
  simp [preloadEndM, hp, hl, hclk, hfree, loadPreload_reads hbad]

/-! ### The drain -/

/-- R92: without an older preload that must still read what the drain writes, nothing is read ahead. -/
theorem readAhead_stays (h : ∀ p, (m.arr c).preload = some p →
    p.loaded = true ∨ p.after = true ∨ readsHeld (m.arr c) (preloadReads p.w) = false) : readAhead e m c = m := by
  cases hp : (m.arr c).preload with
  | none => simp only [readAhead, hp]
  | some p =>
    have hno : (!p.loaded && !p.after && readsHeld (m.arr c) (preloadReads p.w)) = false := by
      obtain hl | ha | hr := h p hp
      · simp [hl]
      · simp [ha]
      · simp [hr]
    simp only [readAhead, hp, hno, Bool.false_eq_true, if_false]

/-- R92: an older preload reads before the drain writes. -/
theorem readAhead_reads (hp : (m.arr c).preload = some p) (hl : p.loaded = false) (ha : p.after = false)
    (hheld : readsHeld (m.arr c) (preloadReads p.w) = true) (hbad : trayBad m c (preloadReads p.w) = none) :
    readAhead e m c = preloadRead m c p := by
  simp [readAhead, hp, hl, ha, hheld, loadPreload_reads hbad]

/-- The tile's outputs, status and signal are out, and the inactive set is free (R91, R127). -/
def tileDrained (e : Env) (c : Nat) (m : Mach) (t : Tile) : Mach :=
  (passSignal (drainTile e m c t (t.ended.getD (lateWork m c t.ctx))) c t.w).modArr c (fun x =>
    { x with draining := none, drainCmd := false })

theorem drainEndM_drains {m1 : Mach} {t : Tile} (hahead : readAhead e m c = m1) (ht : (m1.arr c).draining = some t)
    (hclk : coreClocked e m1 c = true) : drainEndM e m c = arrayAdvance e (tileDrained e c m1 t) c := by
  simp [drainEndM, hahead, ht, hclk, tileDrained]

end

/-! ### The reports -/

section
variable {s : State} {c : Nat} {m : Mach}

theorem does_passFill (h : passFillM s.env s.mach c = m) : Does (.passFill c) s (finish s.env m) :=
  does_liftM (f := fun e m => finish e (passFillM e m c)) rfl (congrArg (finish s.env) h)

theorem does_passStreamingEnd (h : passEndM s.env s.mach c = m) :
    Does (.passStreamingEnd c) s (finish s.env (startAll s.env m c)) :=
  does_liftM (f := fun e m => finish e (startAll e (passEndM e m c) c)) rfl (by rw [h])

theorem does_preloadLoadEnd (h : preloadEndM s.env s.mach c = m) : Does (.preloadLoadEnd c) s (finish s.env m) :=
  does_liftM (f := fun e m => finish e (preloadEndM e m c)) rfl (congrArg (finish s.env) h)

theorem does_tileDrainEnd (h : drainEndM s.env s.mach c = m) :
    Does (.tileDrainEnd c) s (finish s.env (startAll s.env m c)) :=
  does_liftM (f := fun e m => finish e (startAll e (drainEndM e m c) c)) rfl (by rw [h])

end

/-- Settles O22: each clause is one outcome of the four reports. -/
theorem arrayEvents : Obligations.ArrayEvents := by
  intro s c m a drained hclk
  refine ⟨fun q rest hq hop hempty hquiet hclass => ?_, fun r t hr ht hclass hheld hsave hbad => ?_,
    fun p hp hl hgo hbad => ?_, fun t ht => ⟨fun hold => ?_, fun p hp hl ha hheld hbad => ?_⟩⟩
  · have hfill := mayFill_of hclk hop hempty hquiet hclass
    exact ⟨fun p hcont hp => does_passFill (passFillM_preloaded hq hfill hcont hp),
      fun t hcont ht => does_passFill (passFillM_active hq hfill hcont ht),
      fun p hcont ha hp => does_passFill (passFillM_raw hq hfill hcont ha hp)⟩
  · exact does_passStreamingEnd (passEndM_streams hr ht hclk hclass hheld hsave hbad)
  · exact does_preloadLoadEnd (preloadEndM_loads hp hl hclk hgo hbad)
  · exact does_tileDrainEnd (drainEndM_drains (readAhead_stays hold) ht hclk)
  · exact does_tileDrainEnd (drainEndM_drains (readAhead_reads hp hl ha hheld hbad) (draining_preloadRead.trans ht)
      (coreClocked_preloadRead.trans hclk))

end Sys2Proof.Machine
end

section
/-! The Chisel's commands, and the ends of the commands of the Chisel, the Marquetry engine and the Scribe unit. -/

namespace Sys2Proof.Machine

/-! ### The commands of the Chisel -/

/-- R142, R147: a command whose unit is free joins the end of the Chisel's queue. -/
theorem runVector_placed {e : Env} {m : Mach} {c k : Nat} {w : Word} (hchecks : firstBad (vecChecks e m w) = none)
    (hb : unitBlocked m c k w = false) (hn : nobodyPreempted m c k w = true) :
    runVector e m c k w = (placeIn e c k w .chisel [] m, .taken) := by
  simp only [runVector, hchecks, forUnit_placed _ hb hn]

/-- The eight commands of the Chisel with their opcodes. -/
def vectorCommands (c k : Nat) (w : Word) : List (Nat × Instr) :=
  [(0x20, Instr.elem c k w), (0x21, .reduce c k w), (0x22, .norm c k w), (0x23, .smaxBlock c k w),
    (0x24, .smaxMerge c k w), (0x25, .smaxFinal c k w), (0x26, .wideAdd c k w), (0x27, .convert c k w)]

/-- Each is the one meaning `runVector` under its opcode. -/
theorem exec_vectorCommands {c k : Nat} {w : Word} {p : Nat × Instr} (hp : p ∈ vectorCommands c k w) (s : State) :
    exec p.2 s = liftM (issue p.1 runVector c k w) s := by
  simp only [vectorCommands, List.mem_cons, List.not_mem_nil, or_false] at hp
  obtain rfl | rfl | rfl | rfl | rfl | rfl | rfl | rfl := hp <;> rfl

/-- Settles O12: the eight commands share `runVector`. -/
theorem vectorCommandsIssue : Obligations.VectorCommandsIssue := by
  intro s c k w p hp m v hd hchecks hb hn
  exact does_taken (exec_vectorCommands hp s) hd (runVector_placed hchecks hb hn)

/-! ### Runs whose next step is their end -/

section
variable {e : Env} {m m1 : Mach} {c : Nat} {x y : EngCmd}

/-- A run whose first step is the end is that step. -/
theorem gatRun_ends (h : gatStep e m c x = (m1, y, .done)) : ∀ {n : Nat}, 0 < n → gatRun e c n m x = (m1, y, .done)
  | _ + 1, _ => by rw [gatRun, h]

/-- R175: a `GATHER` that has taken its last index ends. -/
theorem gatStep_gathered (hop : fld x.w 7 0 = 0x30) (h : gtIndices x.w ≤ x.item) : gatStep e m c x = (m, x, .done) := by
  simp only [gatStep, gatherStep, hop, if_pos h, if_true]

/-- R170: a `POOL` that has written its last bag ends. -/
theorem gatStep_pooled (hop : fld x.w 7 0 = 0x31) (h : gtBags x.w ≤ x.pos) : gatStep e m c x = (m, x, .done) := by
  simp [gatStep, poolStep, hop, h]

/-- R181: a `SAMPLE` that has drawn for its last vertex ends. -/
theorem gatStep_sampled (hop : fld x.w 7 0 = 0x32) (h : smVertices x.w ≤ x.item) : gatStep e m c x = (m, x, .done) := by
  simp [gatStep, sampleStep, hop, h]

/-- A `GATHER`, `POOL` or `SAMPLE` past its last item has nothing left to do. -/
theorem gatStep_pastLast (h : (fld x.w 7 0 = 0x30 ∧ gtIndices x.w ≤ x.item) ∨ (fld x.w 7 0 = 0x31 ∧ gtBags x.w ≤ x.pos) ∨
    (fld x.w 7 0 = 0x32 ∧ smVertices x.w ≤ x.item)) : gatStep e m c x = (m, x, .done) := by
  obtain ⟨hop, h⟩ | ⟨hop, h⟩ | ⟨hop, h⟩ := h
  · exact gatStep_gathered hop h
  · exact gatStep_pooled hop h
  · exact gatStep_sampled hop h

/-- R252: an `EXPAND` that has taken its last frontier entry ends. -/
theorem scrRun_expanded (hop : fld x.w 7 0 = 0x41) (h : exCount x.w ≤ x.item) :
    ∀ {n : Nat}, 0 < n → scrRun e c n m x = (m, { x with stop := 0 }, .done)
  | _ + 1, _ => by simp [scrRun, expandStep, hop, h]

/-- R254: an `APPLY` that has taken its last list entry ends. -/
theorem scrRun_applied (hop : fld x.w 7 0 = 0x42) (h : apInCount x.w ≤ x.item) :
    ∀ {n : Nat}, 0 < n → scrRun e c n m x = (m, { x with stop := if x.stop = 4 then 4 else 0 }, .done)
  | _ + 1, _ => by simp [scrRun, applyStep, hop, h]

/-- A `SEARCH` whose next step is its end ends there. -/
theorem scrRun_searched (hop : fld x.w 7 0 = 0x40) (h : searchStep e m c x = (m, x, .done)) :
    ∀ {n : Nat}, 0 < n → scrRun e c n m x = (m, x, .done)
  | _ + 1, _ => by simp only [scrRun, hop, h, if_true]

/-- R244: a `SEARCH` without queries ends where it starts. -/
theorem searchStep_noQueries (hs : x.search = none) (h : scQueries x.w = 0) : searchStep e m c x = (m, x, .done) := by
  simp only [searchStep, searchStart, hs, h, if_true]

/-- R244: a `SEARCH` whose queries have all stopped, with no pair left, ends. -/
theorem searchStep_stopped {q : SearchRun} (hs : x.search = some q) (hbatch : q.batch = []) (hpend : q.pend = [])
    (hids : q.ids = []) (htodo : q.todo = []) (hstop : q.qs.all (fun z => z.stop.isSome) = true) :
    searchStep e m c x = (m, x, .done) := by
  simp [searchStep, hs, hbatch, batchCloses, hpend, hids, htodo, hstop]

end

/-! ### How long a merge command's run can be -/

/-- R185: a `MERGE` counts its indices in 32 bits. -/
theorem mergeLeft_lt (x : EngCmd) : mgIndices x.w - x.item < 2 ^ 64 := by
  have := fld_lt x.w 257 226
  unfold mgIndices
  omega

/-- A `MERGE_FLUSH` takes one step for each tag of the session (R188). -/
theorem flushLeft_lt {m : Mach} {c : Nat} {x : EngCmd}
    (h : (m.core c).merge.all (fun q => decide (q.tags.length < 2 ^ 32)) = true) : (mergeTags m c).length - x.item < 2 ^ 64 := by
  unfold mergeTags
  cases hs : (m.core c).merge with
  | none => simp
  | some q =>
    rw [hs] at h
    have : q.tags.length < 2 ^ 32 := of_decide_eq_true h
    simp only [Option.map_some, Option.getD_some]
    omega

/-! ### The end of a running command -/

/-- Command `y`, at the head of the queue before `xs`, is complete: its status and its signal are written, and the engine starts its
next command (R147, R163, R235). -/
def headEnded (e : Env) (c : Nat) (en : Engine) (m : Mach) (y : EngCmd) (xs : List EngCmd) : Mach :=
  popHead e (engStatus e (setEngQueue m c (y :: xs) en) c en y false (lateWork (setEngQueue m c (y :: xs) en) c y.ctx)) c en

/-- A started head on a clocked core, which nothing saves, ends when its run does. -/
theorem engineEnds_done {e : Env} {m m1 : Mach} {c : Nat} {en : Engine} {x y : EngCmd} {xs : List EngCmd}
    (hclk : coreClocked e m c = true) (hst : x.started = true) (hq : engQueue m c en = x :: xs)
    (hsave : (m.ctx c x.ctx).saving.contains en = false) (hrun : engRun e m c en (2 ^ 64) x = (m1, y, .done)) :
    engineEnds e m c en = headEnded e c en m1 y xs := by
  unfold engineEnds
  rw [hq]
  simp only [hclk, hst, hsave, hrun, Bool.not_true, Bool.or_false, Bool.false_eq_true, if_false, headEnded]

section
variable {s : State} {c : Nat} {m : Mach}

theorem does_vectorCommandEnd (h : engineEnds s.env s.mach c .chisel = m) : Does (.vectorCommandEnd c) s (finish s.env m) :=
  does_liftM (f := fun e m => finish e (engineEnds e m c .chisel)) rfl (congrArg (finish s.env) h)

theorem does_gatherCommandEnd (h : engineEnds s.env s.mach c .marquetry = m) : Does (.gatherCommandEnd c) s (finish s.env m) :=
  does_liftM (f := fun e m => finish e (engineEnds e m c .marquetry)) rfl (congrArg (finish s.env) h)

/-- R235: where no parity error is reported, the unit's end lets the array go on. -/
theorem does_traversalCommandEnd (h : engineEnds s.env s.mach c .scribe = m) :
    Does (.traversalCommandEnd ⟨c, none⟩) s (finish s.env (arrayAdvance s.env m c)) :=
  does_liftM (show exec _ s = execTraversalCommandEnd ⟨c, none⟩ s from rfl) (by simp only [Option.elim, if_true, h])

end

/-- Settles O23: an end is what the run of the head answers; the rest says of which heads the run comes to its end. -/
theorem engineCommandsEnd : Obligations.EngineCommandsEnd := by
  intro s c x xs m reduced gathered traversed op readable hclk hst
  have hn : 0 < 2 ^ 64 := Nat.two_pow_pos _
  refine ⟨fun hq hsave => ?_, fun hq hsave => ?_, fun hq hsave => ?_⟩
  · have hend : ∀ m1 y, engRun s.env m c .chisel (2 ^ 64) x = (m1, y, .done) → Does (.vectorCommandEnd c) s (reduced m1 y) :=
      fun m1 y hrun => does_vectorCommandEnd (engineEnds_done hclk hst hq hsave hrun)
    refine ⟨fun hread hsmax => ?_, hend⟩
    obtain ⟨m1, y, hrun, hctx, hw, hitem⟩ := vecRun_done c (2 ^ 64) m x hread (vecLeft_lt x)
      (hsmax.imp_right (Or.imp_right (And.imp_right (fun h => .inr (.inr h)))))
    have hrun := engRun_chisel (e := s.env) hrun
    exact ⟨m1, y, hend m1 y hrun, hrun, hctx, hw, hitem⟩
  · have hend : ∀ m1 y, engRun s.env m c .marquetry (2 ^ 64) x = (m1, y, .done) → Does (.gatherCommandEnd c) s (gathered m1 y) :=
      fun m1 y hrun => does_gatherCommandEnd (engineEnds_done hclk hst hq hsave hrun)
    refine ⟨fun hpast => ?_, hend⟩
    have hgat := engRun_marquetry (e := s.env) (m := m) (c := c) hpast hn
    refine ⟨fun hlast => hend m x (hgat.trans (gatRun_ends (gatStep_pastLast hlast) hn)), fun hmerge hread htags => ?_⟩
    obtain hop | hop := hmerge
    · obtain ⟨m1, y, hrun, hctx, hw, hitem⟩ := mergeRun_done s.env c (2 ^ 64) m x hop hread (mergeLeft_lt x)
      exact ⟨m1, y, hend m1 y (hgat.trans hrun), hctx, hw, fun _ => hitem, fun h => by omega⟩
    · obtain ⟨m1, y, hrun, hctx, hw, hempty⟩ := flushRun_done s.env c (2 ^ 64) m x hop hread (flushLeft_lt htags)
      exact ⟨m1, y, hend m1 y (hgat.trans hrun), hctx, hw, fun h => by omega, fun _ => hempty⟩
  · have hend : ∀ m1 y, engRun s.env m c .scribe (2 ^ 64) x = (m1, y, .done) →
        Does (.traversalCommandEnd ⟨c, none⟩) s (traversed m1 y) :=
      fun m1 y hrun => does_traversalCommandEnd (engineEnds_done hclk hst hq hsave hrun)
    refine ⟨fun hpast => ?_, hend⟩
    have hscr := engRun_scribe (e := s.env) (m := m) (c := c) hpast hn
    refine ⟨fun hop h => hend _ _ (hscr.trans (scrRun_expanded hop h hn)),
      fun hop h => hend _ _ (hscr.trans (scrRun_applied hop h hn)),
      fun hop h => hend _ _ (hscr.trans (scrRun_searched hop ?_ hn))⟩
    obtain ⟨hs, hqueries⟩ | ⟨q, hs, hbatch, hpend, hids, htodo, hstop⟩ := h
    · exact searchStep_noQueries hs hqueries
    · exact searchStep_stopped hs hbatch hpend hids htodo hstop

end Sys2Proof.Machine
end

section
/-! The ring tails and the job totals that the host writes to the tables. -/

namespace Sys2Proof.Machine

section
variable {m : Mach} (e : Env) (g n : Nat)

/-- R206: a publication tail is taken, and in time when it came early. -/
theorem pubTailRun_shared (early : Bool) (h : apartRegs m = false) :
    pubTailRun g n early e m = (0, { m with tables := { m.tables with
      pubTail := n, pubTailEarly := if early then n else m.tables.pubTailEarly } }) := by
  unfold pubTailRun
  rw [rwWrite_shared _ _ _ _ h]
  cases early with
  | false => rfl
  | true =>
    simp only [if_true]
    exact congrArg (Prod.mk 0) (rwWrite_shared _ _ _ _ h)

/-- R221: an update tail is taken. -/
theorem updTailRun_shared (h : apartRegs m = false) :
    updTailRun g n e m = (0, { m with tables := { m.tables with updTail := n } }) :=
  congrArg (Prod.mk 0) (rwWrite_shared _ _ _ _ h)

/-- R258: a total of a job is taken, and the job's count waits for its zeroing. -/
theorem totalRun_shared {job : Nat} (hlo : 1 ≤ job) (hhi : job ≤ 15) (hn : n % 2 ^ 64 ≠ 2 ^ 64 - 1) (h : apartRegs m = false) :
    totalRun g job n e m = (0, { m with mgmt := { m.mgmt with
      totals := spSet m.mgmt.totals job (BitVec.ofNat 64 n), zeroing := job :: m.mgmt.zeroing.filter (fun j => j != job) } }) := by
  unfold totalRun
  rw [if_neg (by omega), if_neg hn, rwWrite_shared _ _ _ _ h]
  exact congrArg (Prod.mk 0) (rwWrite_shared _ _ _ _ h)

/-- R454: a total of all ones is RESERVED_COUNT. -/
theorem totalRun_reserved {job : Nat} (hlo : 1 ≤ job) (hhi : job ≤ 15) (hn : n % 2 ^ 64 = 2 ^ 64 - 1) :
    (totalRun g job n e m).1 = 2 := by
  unfold totalRun
  rw [if_neg (by omega), if_pos hn]
  rfl

/-- R258: there are jobs 1 to 15. -/
theorem totalRun_outOfRange {job : Nat} (hjob : job = 0 ∨ 15 < job) : (totalRun g job n e m).1 = 1 := by
  unfold totalRun
  rw [if_pos hjob]
  rfl

end

/-- Settles O32: each clause is one outcome of a dictionary write that its gauge looks at. -/
theorem tableRegisterWrites : Obligations.TableRegisterWrites := by
  intro s via n hshared m
  refine ⟨fun early hr => does_liftM rfl (dictM_ok hr (pubTailRun_shared _ _ _ early hshared)),
    fun hr => does_liftM rfl (dictM_ok hr (updTailRun_shared _ _ _ hshared)),
    fun job hr => ⟨fun hlo hhi hn => ?_, fun hlo hhi hn => ?_, fun hjob => ?_⟩⟩
  · exact does_liftM rfl (dictM_ok hr (totalRun_shared _ _ _ hlo hhi hn hshared))
  · exact does_liftM rfl (dictM_refused hr (totalRun_reserved _ _ _ hlo hhi hn) two_ne_zero)
  · exact does_liftM rfl (dictM_refused hr (totalRun_outOfRange _ _ _ hjob) one_ne_zero)

end Sys2Proof.Machine
end

section
/-! The update writer: the RESULT of an entry, which die takes it, and what it writes back. -/

namespace Sys2Proof.Machine

/-! ### The RESULT of an update -/

/-- An outcome whose RESULT is one of those of R220. -/
structure HasResult (x : Mach × Nat) : Prop where
  le_six : x.2 ≤ 6

theorem HasResult.mk_pair {m : Mach} {r : Nat} (h : r ≤ 6) : HasResult (m, r) := ⟨h⟩

/-- R221 steps 5 and 6: full, on the other half, unwritable or accepted. -/
theorem newRecord_hasResult (e : Env) (a : OverlayAt) (t : Nat) (b : Bucket) (prev row seq : Nat) (data : List Byte) (m : Mach) :
    HasResult (newRecord e a t b prev row seq data m) := by
  unfold newRecord
  refine iteInduction (fun _ => HasResult.mk_pair (by decide)) (fun _ => iteInduction (fun _ => HasResult.mk_pair le_rfl) (fun _ => ?_))
  dsimp only
  split <;> exact HasResult.mk_pair (by decide)

/-- R221 steps 3 to 6. The definition is opened as a function: on its arguments the kernel would run the read of the index group to
compare the two sides. -/
theorem updateRow_hasResult (e : Env) (a : OverlayAt) (t row seq : Nat) (data : List Byte) (m : Mach) :
    HasResult (updateRow e a t row seq data m) := by
  rw [show updateRow = delta% updateRow from rfl]
  dsimp only
  split
  · exact HasResult.mk_pair (by decide)
  split -- the row has a bucket, or its group a free one, or neither
  next b hb =>
    split
    · exact HasResult.mk_pair (by decide)
    refine iteInduction (fun _ => HasResult.mk_pair (by decide)) (fun _ => iteInduction (fun _ => ?_) (fun _ => newRecord_hasResult ..))
    split <;> exact HasResult.mk_pair (by decide)
  next hb =>
    split
    · exact newRecord_hasResult ..
    · exact HasResult.mk_pair (by decide)

/-! ### Who takes an update -/

section
variable {e : Env} {d size w : Nat} {b data : List Byte} {m : Mach}

theorem homeDie_lt_two {va : Nat} (h : homeDie e d va m = some w) : w < 2 := by
  unfold homeDie at h
  split at h
  · cases h
    unfold stackOf
    omega
  · cases h

/-- The die on whose stacks the overlay lies that an update entry names. -/
def updateHome (e : Env) (d : Nat) (b : List Byte) (m : Mach) : Option Nat :=
  homeDie e d (dOverlayPtr (descOn m d (leNat ((b.drop 2).take 2)))) m

/-- R221 step 1: an entry that breaks a rule is BOUNDS. -/
theorem takeUpdate_bad (hbad : updateBad m d size b = true) : takeUpdate e d size b data m = (m, some 2) := by
  rw [takeUpdate, if_pos hbad]

/-- An entry of an overlay on the other die: that die's writer takes it, or on a split device none can (R234). -/
theorem takeUpdate_elsewhere (hbad : updateBad m d size b = false) (hhome : updateHome e d b m = some w) (hw : w ≠ d) :
    takeUpdate e d size b data m = (m, if e.k.split then some 6 else none) := by
  unfold updateHome at hhome
  rw [takeUpdate, if_neg (by simp [hbad])]
  simp only [hhome]
  rw [if_pos hw]

/-- R221: an entry of an overlay that this die reads itself, or cannot reach, ends with a RESULT. -/
theorem takeUpdate_here (hbad : updateBad m d size b = false) (hhome : ∀ w, updateHome e d b m = some w → w = d) :
    ∃ m1 r, takeUpdate e d size b data m = (m1, some r) ∧ r ≤ 6 := by
  unfold updateHome at hhome
  rw [takeUpdate, if_neg (by simp [hbad])]
  simp only []
  split
  · exact ⟨_, _, rfl, by decide⟩
  next w hw =>
    rw [if_neg (by simp [hhome w hw])]
    split -- not this device's row (R229)
    · exact ⟨_, _, rfl, by decide⟩
    split -- a frozen block (R233)
    · exact ⟨_, _, rfl, by decide⟩
    split -- a header that cannot be read
    · exact ⟨_, _, rfl, by decide⟩
    split -- storage on the other half (R234)
    · exact ⟨_, _, rfl, by decide⟩
    · exact ⟨_, _, rfl, (updateRow_hasResult ..).le_six⟩

/-- R221: the writer of a die answers every entry but those of an overlay on the other die of a device that is not split. -/
theorem takeUpdate_answers (hd : d < 2) (h : updateBad m d size b = true ∨ updateHome e d b m ≠ some (1 - d) ∨ e.k.split = true) :
    ∃ m1 r, takeUpdate e d size b data m = (m1, some r) ∧ r ≤ 6 := by
  cases hbad : updateBad m d size b with
  | true => exact ⟨m, 2, takeUpdate_bad hbad, by decide⟩
  | false =>
    by_cases hhome : ∀ w, updateHome e d b m = some w → w = d
    · exact takeUpdate_here hbad hhome
    · push Not at hhome
      obtain ⟨w, hw, hne⟩ := hhome
      have hother : w = 1 - d := by have := homeDie_lt_two hw; omega
      have hsplit : e.k.split = true := by simpa [hbad, hw, hother] using h
      exact ⟨m, 6, by rw [takeUpdate_elsewhere hbad hw hne, if_pos hsplit], le_rfl⟩

end

/-! ### The update writer -/

section
variable {e : Env} {m : Mach} {d : Nat}

/-- The place of the update entry at the head of die `d` (R220). -/
def updatePlace (m : Mach) (d : Nat) : Nat :=
  m.tables.updBase + (dieTables m d).updHead % 2 ^ m.tables.updSize * 2 ^ m.tables.updEntry

/-- What the writer of die `d` makes of the entry at its head. -/
def takeHead (e : Env) (m : Mach) (d : Nat) : Mach × Option Nat :=
  takeUpdate e d (2 ^ m.tables.updEntry) (hostRead m (updatePlace m d) 64)
    (hostRead m (updatePlace m d + 64) (2 ^ m.tables.updEntry - 64)) m

/-- The writer of die `d` runs: its die, its memory and host-die memory serve, and its ring holds an entry. -/
structure WriterRuns (e : Env) (m : Mach) (d : Nat) : Prop where
  die : d < 2
  inService : dieFenced m d = false
  on : m.hbm.on = true
  led : m.mgmt.leaderless = false
  host : hostReached e m d = true
  ring : m.tables.updBase ≠ 0
  entry : (dieTables m d).updHead ≠ rwRead m d (rwKey 0x0900 9) m.tables.updTail

/-- An empty ring. -/
theorem putM_empty (h : (dieTables m d).updHead = rwRead m d (rwKey 0x0900 9) m.tables.updTail) : putM d e m = m := by
  unfold putM
  exact if_pos (by simp [h])

/-- R221: the RESULT and the stroke go into the entry, the RESULT is counted, and the head moves on. -/
def writeBack (e : Env) (m : Mach) (d : Nat) (m1 : Mach) (r : Nat) : Mach :=
  let m2 := hostWrite (hostWrite m1 (updatePlace m d + 24) (leBytes 4 r)) (updatePlace m d + 32) (leBytes 8 (strokeAt e.k d))
  setUpdHead e d ((dieTables m d).updHead + 1) { m2 with tables := countUpdate m2.tables r }

/-- A writer that runs makes something of its entry. -/
theorem putM_runs (h : WriterRuns e m d) : putM d e m = (takeHead e m d).2.elim m (writeBack e m d (takeHead e m d).1) := by
  obtain ⟨hd, hfence, hon, hled, hhost, hring, hentry⟩ := h
  rcases htake : takeHead e m d with ⟨m1, r⟩
  unfold takeHead updatePlace at htake
  unfold putM
  simp only []
  rw [if_neg (by simp [hd, hfence, hon, hled, hhost, hring, hentry]), htake]
  cases r <;> rfl

end

/-- Settles O33: a writer that runs answers its entry by `takeUpdate_answers` or leaves it to the other die. -/
theorem updateTaken : Obligations.UpdateTaken := by
  intro s d m h at_ entry bad home takes
  refine ⟨fun hempty => does_liftM rfl (putM_empty hempty), fun hd hfence hon hled hhost hring hentry => ?_⟩
  have hruns : WriterRuns s.env m d := ⟨hd, hfence, hon, hled, hhost, hring, hentry⟩
  refine ⟨fun hmine => ?_, fun hbad => takeUpdate_bad hbad, fun hbad hhome hsplit => ?_⟩
  · obtain ⟨m1, r, htakes, hr⟩ : ∃ m1 r, takeHead s.env m d = (m1, some r) ∧ r ≤ 6 := takeUpdate_answers hd hmine
    exact ⟨m1, r, htakes, hr, does_liftM rfl ((putM_runs hruns).trans (by rw [htakes]; rfl))⟩
  · have hne : 1 - d ≠ d := by omega
    have hleft : takeHead s.env m d = (m, none) :=
      (takeUpdate_elsewhere hbad hhome hne).trans (by rw [if_neg (by simp [State.env, hsplit])])
    exact does_liftM rfl ((putM_runs hruns).trans (by rw [hleft]; rfl))

end Sys2Proof.Machine
end

section
/-! The stages of a compaction, and the header that its overlay is read from. -/

namespace Sys2Proof.Machine

/-! ### Compaction -/

section
variable {e : Env} {m m1 : Mach} {d t : Nat} {c : Compaction} {a : OverlayAt}

/-- R225: a compaction whose stage is due goes through one stage, over the rows of its overlay. -/
theorem compactM_runs {f : OverlayAt → Slot → Compaction → List Bucket → Mach → Mach} (hd : d < 2) (hfence : dieFenced m d = false)
    (hon : m.hbm.on = true) (hc : (tableSlot m d t).compaction = some c)
    (hcut : precedes32 (oldestOf (tableSlot m d t)) c.cut = false)
    (hopen : openOverlay e d (dOverlayPtr (tableSlot m d t).desc) m = (m1, some a)) :
    compactM d t c.stage f e m =
      modSlot (f a (tableSlot m d t) c (allRows e a m1).2 (allRows e a m1).1) d t (fun y =>
        { y with compaction := some { c with stage := c.stage + 1 } }) := by
  unfold compactM
  simp only [hc]
  rw [if_neg (by simp [hfence, hon, hcut, hd]), hopen]

/-- R225: stage 2 folds row after row into the base. -/
def foldRows (e : Env) (a : OverlayAt) (x : Slot) (c : Compaction) (rows : List Bucket) (m : Mach) : Mach :=
  rows.foldl (fun y b => foldRow e a x.desc c.cut b y) m

theorem baseWritesM_eq : baseWritesM d t e m = compactM d t 1 (foldRows e) e m := rfl

/-- R225: stage 3 is due on a filter core in service that this half holds. -/
theorem filterBuildM_inService (hopen : openOverlay e d (dOverlayPtr (tableSlot m d t).desc) m = (m1, some a))
    (hcore : coreIn e m a.o.filterCore = true) (hhalf : filterAway e a = false) :
    filterBuildM d t e m = compactM d t 2 (buildFilter e) e m := by
  unfold filterBuildM
  simp only [hopen, hcore, hhalf, Bool.not_false, Bool.and_self, if_true]

end

/-! ### Reading an overlay's header -/

section
variable {e : Env} {m : Mach} {d pa ptr : Nat} {dt : Bool}

/-- R366: a read of one whole granule that passes its check changes nothing. -/
theorem hbmRead_granule (ha : pa % 64 = 0) (hpass : checkGranule m (granule pa) dt = .pass) :
    hbmRead e m pa 64 dt = (m, memRead m.hbm.cells (plainOf pa) 64, false) := by
  have hone : granulesIn pa 64 = 1 := by
    rw [granulesIn, if_neg (by decide), plainOf]
    omega
  simp [hbmRead, hone, readGranules, readGranule, hpass]

/-- Bytes that lie in one page and pass their checks are what the device gets. -/
theorem devGet_page {n : Nat} {bs : List Byte} {m1 : Mach} (hn : 0 < n) (hrest : n ≤ pageRest ptr)
    (hread : deviceRead e m d ptr n = (m1, some (bs, false))) : devGet e d ptr n m = (m1, some bs) := by
  have hk : min n (pageRest ptr) = n := Nat.min_eq_left hrest
  simp [devGet, devGetGo, Nat.ne_of_gt hn, hk, hread]

/-- R214: the header of an overlay on a mapped page whose granule passes its check. -/
theorem openOverlay_passes (htrans : deviceTranslate e m d ptr false = (m, .ok pa dt)) (hptr : ptr % 64 = 0) (ha : pa % 64 = 0)
    (hpass : checkGranule m (granule pa) dt = .pass) :
    openOverlay e d ptr m =
      (m, some { die := d, place := ptr, raw := leNat (memRead m.hbm.cells (plainOf pa) 64),
                 o := overlayOf (memRead m.hbm.cells (plainOf pa) 64) }) := by
  have hread : deviceRead e m d ptr 64 = (m, some (memRead m.hbm.cells (plainOf pa) 64, false)) := by
    simp only [deviceRead, htrans, hbmRead_granule ha hpass]
  have hrest : 64 ≤ pageRest ptr := by
    unfold pageRest
    omega
  simp only [openOverlay, devGet_page (by decide) hrest hread]

end

/-- Settles O34: both stages are the one step `compactM` makes, and the header that passes its check opens the overlay. -/
theorem compactionStages : Obligations.CompactionStages := by
  intro s d t c m x ptr staged hd hfence hon hc hcut
  have hstaged : ∀ m1 a, openOverlay s.env d ptr m = (m1, some a) → staged m1 a := by
    intro m1 a hopen
    refine ⟨fun hstage => does_liftM rfl ?_, fun hstage hcore hhalf => does_liftM rfl ?_⟩
    · have hrun := compactM_runs (f := foldRows s.env) hd hfence hon hc hcut hopen
      rw [hstage] at hrun
      exact baseWritesM_eq.trans hrun
    · have hrun := compactM_runs (f := buildFilter s.env) hd hfence hon hc hcut hopen
      rw [hstage] at hrun
      exact (filterBuildM_inService hopen hcore hhalf).trans hrun
  exact ⟨hstaged, fun pa dt htrans hptr ha hpass => hstaged m _ (openOverlay_passes htrans hptr ha hpass)⟩

end Sys2Proof.Machine
end

section
/-! The rail commands: what each does where its rail and pool serve it, and where it waits. -/

namespace Sys2Proof.Machine

section
variable {e : Env} {m : Mach} {c k : Nat} {w : Word}

/-! ### `RAIL_TAKE` -/

section
variable (hhead : rlHead w = false) (hpatches : patchesOk w = true) (hprod : notProducer m c k (rlRail w) = false)
  (hslot : hslotOf m c k (rlSlot w) = none)
include hhead hpatches hprod hslot

/-- R288: the rail may take a buffer, and its handle goes into the empty slot. -/
theorem runTake_takes (hmay : mayTake m c (rlRail w) = true) :
    let a := takeBuffer (m.modRail c (rlRail w) (fun x => { x with prodContext := some k })) c (rlRail w)
    let h : Handle := { buffer := a.2, length := 0, last := false, cancelled := false, poisoned := false, tag := 0 }
    runTake e m c k w =
      (wakeRails e (addPatches (setSlot a.1 c k (rlSlot w) { h := h, taken := true, rail := rlRail w }) c k
        (newPatches w (bufferAddr (m.pool c (m.rail c (rlRail w)).pool) a.2))) c, .taken) := by
  simp [runTake, firstBad, hhead, hpatches, hprod, hslot, hmay]

/-- R288, R308: without a free buffer for the rail it waits. -/
theorem runTake_waits (hmay : mayTake m c (rlRail w) = false) : runTake e m c k w = (m, .wait .buffer (rlRail w)) := by
  simp [runTake, firstBad, hhead, hpatches, hprod, hslot, hmay]

end

/-! ### `RAIL_PUSH` -/

section
variable {y : HSlot} (hhead : rlHead w = false) (hprod : notProducer m c k (rlRail w) = false)
  (hlen : rlLength w ≤ 2 ^ (m.pool c (m.rail c (rlRail w)).pool).sizeLog2) (hslot : hslotOf m c k (rlSlot w) = some y)
  (htaken : y.taken = true) (hrail : y.rail = rlRail w)
include hhead hprod hlen hslot htaken hrail

/-- R290: a rail with room takes the buffer of the slot, with the LENGTH, LAST and TAG of the command. -/
theorem runPush_pushes (hroom : (m.rail c (rlRail w)).entries.length < 64) :
    runPush e m c k w =
      (pushHandle e (clearSlot m c k (rlSlot w)) c (rlRail w)
        { h := { y.h with length := rlLength w, last := rlLast w, tag := rlTag w }, origin := none, spent := false,
          generated := false, maker := some (k, (m.ctx c k).workStroke) }, .taken) := by
  simp [runPush, firstBad, hhead, hprod, hlen.not_gt, hslot, htaken, hrail, hroom.not_ge]

/-- R290, R308: a full rail takes none, and the command waits. -/
theorem runPush_waits (hfull : 64 ≤ (m.rail c (rlRail w)).entries.length) : runPush e m c k w = (m, .wait .rail (rlRail w)) := by
  simp [runPush, firstBad, hhead, hprod, hlen.not_gt, hslot, htaken, hrail, hfull]

end

/-! ### `RAIL_POP` -/

section
variable {lead : Nat} (hhead : rlHead w = false) (hpatches : patchesOk w = true)
  (hcons : (m.rail c (rlRail w)).consumer = some k) (hslot : hslotOf m c k (rlSlot w) = none)
include hhead hpatches hcons hslot

/-- R290, R301: the oldest handle of the rail goes into the empty slot. -/
theorem runPop_pops {x : Entry} {xs : List Entry} (hentries : (m.rail c (rlRail w)).entries = x :: xs) :
    let popped := notePop (m.modRail c (rlRail w) (fun y => { y with entries := xs, consumed := y.consumed + 1 })) x
      (if (m.ctx c k).waitCmd.isSome then 0 else lead)
    let at_ := if x.h.buffer = 255 then 0 else bufferAddr (m.pool c (m.rail c (rlRail w)).pool) x.h.buffer
    runPop lead e m c k w =
      (wakeRails e (addPatches (setSlot popped c k (rlSlot w) { h := x.h, taken := false, rail := rlRail w }) c k
        (newPatches w at_)) c, .taken) := by
  simp [runPop, firstBad, hhead, hpatches, hcons, hslot, hentries]

/-- R290, R308: an empty rail that no stream feeds gives none, and the command waits. -/
theorem runPop_waits (hentries : (m.rail c (rlRail w)).entries = []) (hstream : (m.rail c (rlRail w)).prodStream = none) :
    runPop lead e m c k w = (m, .wait .rail (rlRail w)) := by
  have hfeeder : feederOf m c (rlRail w) = none := by simp [feederOf, hstream]
  simp [runPop, firstBad, hhead, hpatches, hcons, hslot, hentries, hfeeder]

end

/-! ### `RAIL_RELEASE`, `RAIL_SET` and `POOL_SET` -/

/-- R290: the buffer of the slot returns to its rail. -/
theorem runRelease_releases {y : HSlot} (hhead : rlHead w = false) (hslot : hslotOf m c k (rlSlot w) = some y) :
    runRelease e m c k w = (releaseBuffer e (clearSlot m c k (rlSlot w)) c y.rail y.h.buffer, .taken) := by
  simp [runRelease, firstBad, hhead, hslot]

section
variable (hhead : rlHead w = false) (hfloor : rlFloor w ≤ 64) (hbusy : railBusy m c k (rlRail w) = false)
include hhead hfloor hbusy

/-- R292: UNBIND leaves the rail as at reset. -/
theorem runRailSet_unbinds (hunbind : rlUnbind w = true) :
    runRailSet e m c k w = (wakeRails e (m.modRail c (rlRail w) (fun _ => Rail.reset)) c, .taken) := by
  have hcount : rlFloor w ≠ 127 := by omega
  simp [runRailSet, firstBad, hhead, hfloor.not_gt, hbusy, hunbind, hcount]

/-- R288, R292: the rail is bound where the floors of its pool leave room for its own. -/
theorem runRailSet_binds (hunbind : rlUnbind w = false)
    (hroom : (((railsOf m c (rlPool w)).filter (fun q => q.1 != rlRail w)).map (fun q => q.2.floor)).sum + rlFloor w ≤
      (m.pool c (rlPool w)).count) :
    runRailSet e m c k w =
      (wakeRails e (m.modRail c (rlRail w) (fun _ =>
        { Rail.reset with consumer := some k, pool := rlPool w, floor := rlFloor w, prodIsContext := rlProducer w })) c, .taken) := by
  have hcount : rlFloor w ≠ 127 := by omega
  simp [runRailSet, firstBad, hhead, hfloor.not_gt, hbusy, hunbind, hcount, hroom.not_gt]

end

/-- R287, R293: a pool that no rail uses is laid out in the tray. -/
theorem runPoolSet_laysOut (hhead : rlHead w = false) (hlo : 1 ≤ rlCount w) (hhi : rlCount w ≤ 128) (hsmall : 12 ≤ rlSize w)
    (hlarge : rlSize w ≤ 20) (hrails : railsOf m c (rlPool w) = [])
    (hfits : beyondTray (rlBase w) (rlCount w * 2 ^ rlSize w) = false) :
    runPoolSet e m c k w =
      (m.modPool c (rlPool w) (fun _ => { base := rlBase w, sizeLog2 := rlSize w, count := rlCount w, used := [] }), .taken) := by
  have hcount : rlCount w ≠ 255 ∧ rlCount w ≠ 0 := by omega
  simp [runPoolSet, firstBad, hhead, hcount, hhi.not_gt, hsmall.not_gt, hlarge.not_gt, hrails, hfits]

end

/-- Settles O18: each clause is the execution of one command that its rail and pool serve. -/
theorem railCommands : Obligations.RailCommands := by
  intro s c k w m v r at_
  refine ⟨fun hd hhead hpatches hprod hslot hmay => ?_, fun y hd hhead hprod hlen hslot htaken hrail hroom => ?_,
    fun lead x xs hd hhead hpatches hcons hslot hentries => ?_, fun y hd hhead hslot => ?_,
    fun hd hhead hfloor hbusy => ⟨fun hunbind => ?_, fun hunbind hroom => ?_⟩,
    fun hd hhead hlo hhi hsmall hlarge hrails hfits => ?_⟩
  · exact does_taken rfl hd (runTake_takes hhead hpatches hprod hslot hmay)
  · exact does_taken rfl hd (runPush_pushes hhead hprod hlen hslot htaken hrail hroom)
  · exact does_taken rfl hd (runPop_pops hhead hpatches hcons hslot hentries)
  · exact does_taken rfl hd (runRelease_releases hhead hslot)
  · exact does_taken rfl hd (runRailSet_unbinds hhead hfloor hbusy hunbind)
  · exact does_taken rfl hd (runRailSet_binds hhead hfloor hbusy hunbind hroom)
  · exact does_taken rfl hd (runPoolSet_laysOut hhead hlo hhi hsmall hlarge hrails hfits)

/-- Settles O19: each clause is the execution of one command that its rail or pool does not serve. -/
theorem railWaits : Obligations.RailWaits := by
  intro s c k w m v r waits
  refine ⟨fun hd hhead hpatches hprod hslot hmay => ?_, fun y hd hhead hprod hlen hslot htaken hrail hfull => ?_,
    fun lead hd hhead hpatches hcons hslot hentries hstream => ?_⟩
  · exact does_waits rfl hd (runTake_waits hhead hpatches hprod hslot hmay)
  · exact does_waits rfl hd (runPush_waits hhead hprod hlen hslot htaken hrail hfull)
  · exact does_waits rfl hd (runPop_waits hhead hpatches hcons hslot hentries hstream)

end Sys2Proof.Machine
end

section
/-! Streams outside the sequencer's turn: early dispatch, the end of a pass, cancellation, the relay of a chain, stalled rails. -/

namespace Sys2Proof.Machine

section
variable {e : Env} {m m1 : Mach} {c k slot hop : Nat}

/-! ### Early dispatch -/

/-- R281, R282: nothing keeps the engine from taking the `STREAM` `v` of context `k` before its turn: the context is live, holds
nothing back and has dispatched no stream early, the command is one that may go ahead, and its slot, its source and its checks
let it. -/
structure GoesEarly (e : Env) (m : Mach) (c k : Nat) (y : Ctx) (v : Word) (marked : Bool) : Prop where
  live : (m.ctx c k).state = .running ∨ (m.ctx c k).state = .ready ∨ (m.ctx c k).state = .waiting
  saving : (m.ctx c k).saving = []
  held : (m.ctx c k).held = false
  clocked : coreClocked e m c = true
  op : fld v 7 0 = 0x50
  early : y.early = []
  guided : stGuided v = false
  marked : stClass v ≠ 1 ∨ marked = false
  cx6 : (m.ctx c k).cx6 = false ∨ cx6Bad v = false
  slot : m.stream? c (stSlot v) = none
  window : stSrcKind v ≠ 2 ∨ heldByWindow e c = false
  checks : firstBad (streamChecks e m c k v) = none

/-- R281: a `STREAM` at the end of a path of up to 65 commands, where the look-ahead finds it, starts and is noted. -/
theorem earlyM_starts {path : List Word} {y : Ctx} {v : Word} {marked : Bool} (hpath : path.length ≤ 65)
    (hfound : lookAlong m c path (m.ctx c k) false = some (y, v, marked)) (hgo : GoesEarly e m c k y v marked) :
    earlyM c k path e m =
      finish e (startStream e (m.modCtx c k (fun z => { z with early := z.early ++ [v] })) c k v) := by
  obtain ⟨hlive, hsaving, hheld, hclk, hop, hearly, hguided, hmarked, hcx6, hslot, hwindow, hchecks⟩ := hgo
  have hlive' : ((m.ctx c k).state == .running || (m.ctx c k).state == .ready || (m.ctx c k).state == .waiting) = true := by
    simpa [or_assoc] using hlive
  have hmarked' : (stClass v == 1 && marked) = false := by simpa [← imp_iff_not_or] using hmarked
  have hcx6' : ((m.ctx c k).cx6 && cx6Bad v) = false := Bool.and_eq_false_iff.mpr hcx6
  have hwindow' : (stSrcKind v == 2 && heldByWindow e c) = false := by simpa [← imp_iff_not_or] using hwindow
  simp [earlyM, hfound, hlive', hsaving, hheld, hclk, hop, hpath.not_gt, hearly, hguided, hmarked', hcx6', hslot, hwindow', hchecks]

/-- R281: the look-ahead passes over a command of an engine where no patch is due and no stream has been dispatched early. -/
theorem lookOver_engine {x : Ctx} {u : Word} (hpos : x.pos < x.length) (hdue : patchDue x = false)
    (hlo : 0x10 ≤ fld (dispatched x u).2 7 0) (hhi : fld (dispatched x u).2 7 0 < 0x50) :
    lookOver m c x u = some ((dispatched x u).1.past (dispatched x u).2, flag (dispatched x u).2 16) := by
  have hop : ∀ op, 0x50 ≤ op → fld (dispatched x u).2 7 0 ≠ op := fun op h => by omega
  have hwait : ¬ 0x72 ≤ fld (dispatched x u).2 7 0 := by omega
  simp [lookOver, markedOpen, hpos.not_ge, hdue, hwait, hop]

/-- R281: behind one command of an engine the look-ahead finds the next. -/
theorem lookAlong_behindEngine {x y : Ctx} {u w : Word} (hpos : x.pos < x.length) (hdue : patchDue x = false)
    (hlo : 0x10 ≤ fld (dispatched x u).2 7 0) (hhi : fld (dispatched x u).2 7 0 < 0x50)
    (hy : y = (dispatched x u).1.past (dispatched x u).2) (hypos : y.pos < y.length) (hydue : patchDue y = false) :
    lookAlong m c [u, w] x false = some (y, (dispatched y w).2, flag (dispatched x u).2 16) := by
  simp [lookAlong, lookOver_engine hpos hdue hlo hhi, ← hy, hypos.not_ge, hydue]

/-! ### The end of a pass -/

/-- The entry just written is the first of its number. -/
theorem find?_spSet {α : Type} (x : Nat) (v : α) : ∀ l : Sparse α, (spSet l x v).find? (fun p => p.1 == x) = some (x, v)
  | [] => by simp [spSet]
  | (k, w) :: t => by
    unfold spSet
    split
    · simp
    split
    · simp
    next hne => simp [Ne.symm hne, find?_spSet x v t]

@[simp] theorem stream?_setStream (y : Stream) : (m.setStream c slot y).stream? c slot = some y := by
  simp [Mach.stream?, Mach.setStream, find?_spSet]

/-- R273: the list of the stream has no block left, and nothing read from it is still to be delivered. -/
structure Stream.AtEnd (y : Stream) : Prop where
  read : y.unread = false
  flight : y.flight = []
  blocks : stBlocks y.w ≤ y.src.blk

/-- R273: a stream at its end moves nothing. -/
theorem pieceStep_atEnd {y : Stream} (h : y.AtEnd) : pieceStep e m c slot y = (m, y, .ended) := by
  simp [pieceStep, burstStep, h.read, h.flight, h.blocks]

theorem streamRun_atEnd {y : Stream} (hy : m.stream? c slot = some y) (h : y.AtEnd) :
    ∀ {n : Nat}, 0 < n → streamRun e c slot n m = (m.setStream c slot y, .ended)
  | _ + 1, _ => by simp only [streamRun, hy, pieceStep_atEnd h]

/-- R273, R274: a live stream whose pass runs to its end with nothing to relay ends its pass. -/
theorem streamPassEndM_ends {y y1 : Stream} (hy : m.stream? c slot = some y) (hlive : streamLive e m c y = true)
    (hheld : guidedHeld e c y = false) (hrun : streamRun e c slot (2 ^ 64) m = (m1, .ended)) (hy1 : m1.stream? c slot = some y1)
    (hrelays : y1.relays = []) : streamPassEndM c slot e m = passEnds e m1 c slot y1 := by
  unfold streamPassEndM
  simp [hy, hlive, hheld, hrun, hy1, hrelays, -Nat.reducePow]

/-! ### Cancellation -/

/-- R295: a stream asked to cancel goes through its sequence, and its context is closed when it can be. -/
theorem cancellationM_runs {y : Stream} {x : StreamCancel} {inFlight : Nat} (hy : m.stream? c slot = some y)
    (hx : y.cancel = some x) :
    cancellationM c slot inFlight e m = finish e (tryClose e (cancelSequence e m c slot inFlight x) c y.ctx) := by
  simp only [cancellationM, hy, hx]

/-! ### The relay of a chain -/

/-- R285: the last target but one of a chain relays its oldest buffer, which its consumer still holds, to the last. -/
theorem chainRelayM_last {y : Stream} {x : Relay} {t : Nat} (hy : m.stream? c slot = some y) (hcancel : y.cancel = none)
    (hx : y.relays.find? (fun z => z.hop == hop) = some x) (ht : (stTargets y.w)[hop + 1]? = some t)
    (hlast : (stTargets y.w)[hop + 2]? = none) (hheld : x.released = false) (hmay : mayTake m t (stRail y.w) = true)
    (hroom : (m.rail t (stRail y.w)).entries.length < 64) :
    let src := bufferAddr (m.pool x.core (m.rail x.core (stRail y.w)).pool) x.buffer
    trayBad m x.core [(src, x.h.length)] = none →
    let a := takeBuffer (trayCount m x.core [(src, x.h.length)]) t (stRail y.w)
    let m1 := trayWrite a.1 t (bufferAddr (m.pool t (m.rail t (stRail y.w)).pool) a.2) (trayRead m x.core src x.h.length)
    chainRelayM c slot hop e m =
      pushHandle e (m1.setStream c slot { y with relays := y.relays.filter (fun z => !(z == x)) }) t (stRail y.w)
        { h := { x.h with buffer := a.2 }, origin := some (c, slot, y.gen), spent := false, generated := !y.reads, maker := none } := by
  intro src hsrc a m1
  simp only [src] at hsrc
  simp [chainRelayM, hy, hcancel, hx, ht, hlast, hheld, hmay, hroom, hsrc, a, m1, src]

/-! ### Stalled rails -/

/-- R298: the rails of half `h` are all of the rails or none of them. -/
theorem filter_half {k : Strokes} {rails : List (Nat × Nat)} {h : Nat}
    (hall : rails.all (fun r => halfOf k (dieOf r.1) == h) = true) (h' : Nat) :
    rails.filter (fun r => halfOf k (dieOf r.1) == h') = if h = h' then rails else [] := by
  simp only [List.all_eq_true, beq_iff_eq] at hall
  split
  next heq => exact List.filter_eq_self.mpr (fun r hr => by simp [hall r hr, heq])
  next hne => exact List.filter_eq_nil_iff.mpr (fun r hr => by simp [hall r hr, hne])

theorem halfOf_eq_zero_or_one (k : Strokes) (d : Nat) : halfOf k d = 0 ∨ halfOf k d = 1 := by
  unfold halfOf
  split <;> simp

/-- R298: where there is no rail there is no verdict. -/
theorem deadlockOver_nil : deadlockOver e m [] = m := rfl

/-- R298: rails of one half are judged together, by the arbiter of that half. -/
theorem deadlockM_oneHalf {rails : List (Nat × Nat)} {h : Nat} (hall : rails.all (fun r => halfOf e.k (dieOf r.1) == h) = true) :
    deadlockM rails e m = deadlockOver e m rails := by
  cases rails with
  | nil => rfl
  | cons r rs =>
    have hr : halfOf e.k (dieOf r.1) = h := by simpa using List.all_eq_true.mp hall r List.mem_cons_self
    simp only [deadlockM, filter_half hall]
    obtain h0 | h1 := halfOf_eq_zero_or_one e.k (dieOf r.1)
    · simp [← hr, h0, deadlockOver_nil]
    · simp [← hr, h1, deadlockOver_nil]

/-- R298: the party's stream, where it is one, is asked to cancel. -/
def cancelParty (m : Mach) (p : Party) : Mach :=
  p.slot.elim m (fun n => markCancel m p.core n { drop := false, quiet := [], fenced := [], unbound := [] })

/-- R298: the youngest party faults, and where it is a stream that is cancelled too. -/
theorem deadlockOver_youngest {rails : List (Nat × Nat)} {p : Party}
    (hp : youngest (rails.flatMap (fun r => railParties m r.1 r.2)) = some p) :
    deadlockOver e m rails =
      finish e (failCtx e (cancelParty m p) p.core p.ctx famClamp 0x11) := by
  simp only [deadlockOver, hp, cancelParty]
  cases p.slot <;> rfl

end

/-! ### The events -/

section
variable {s : State} {c slot hop : Nat} {m : Mach}

theorem does_streamPassEnd (h : streamPassEndM c slot s.env s.mach = m) : Does (.streamPassEnd c slot) s (finish s.env m) :=
  does_liftM (f := fun e m => finish e (streamPassEndM c slot e m)) rfl (congrArg (finish s.env) h)

theorem does_chainRelay (h : chainRelayM c slot hop s.env s.mach = m) : Does (.chainRelay c slot hop) s (finish s.env m) :=
  does_liftM (f := fun e m => finish e (chainRelayM c slot hop e m)) rfl (congrArg (finish s.env) h)

end

/-- Settles O35: each clause is one outcome of its event. -/
theorem streamEvents : Obligations.StreamEvents := by
  intro s c slot m
  refine ⟨?_, ?_, ?_, ?_, ?_⟩
  · intro k u w ws y v marked x hlive hsaving hheld hclk hop hlen hearly hguided hmarked hcx6 hslot hwindow hchecks started
    have hgo : GoesEarly s.env m c k y v marked :=
      ⟨hlive, hsaving, hheld, hclk, hop, hearly, hguided, hmarked, hcx6, hslot, hwindow, hchecks⟩
    have hpath : (u :: (ws ++ [w])).length ≤ 65 := by simp; omega
    have hstarts (hfound : lookAlong m c (u :: (ws ++ [w])) x false = some (y, v, marked)) :
        Does (.streamEarlyDispatch c k u ws w) s started := does_liftM rfl (earlyM_starts hpath hfound hgo)
    refine ⟨hstarts, fun hws hpatches hnone hpos hdue hlo hhi hmark hy hypos hydue hv => hstarts ?_⟩
    rw [hws, hv, hmark]
    exact lookAlong_behindEngine hpos hdue hlo hhi hy hypos hydue
  · intro y hy hlive hheld
    refine ⟨fun y1 m1 hrun hy1 hrelays => ?_, fun hread hflight hblocks hrelays => ?_⟩
    · exact does_streamPassEnd (streamPassEndM_ends hy hlive hheld hrun hy1 hrelays)
    · have hrun := streamRun_atEnd (e := s.env) hy ⟨hread, hflight, hblocks⟩ (Nat.two_pow_pos 64)
      exact does_streamPassEnd (streamPassEndM_ends hy hlive hheld hrun (stream?_setStream y) hrelays)
  · intro y x inFlight hy hx
    exact does_liftM rfl (cancellationM_runs hy hx)
  · intro y hop x t hy hcancel hx ht hlast hheld hmay hroom src hsrc a m1
    exact does_chainRelay (chainRelayM_last hy hcancel hx ht hlast hheld hmay hroom hsrc)
  · intro rails p h hall hp m1
    have hm1 : cancelParty m p = m1 := by
      unfold cancelParty
      cases hslot : p.slot <;> simp only [m1, hslot] <;> rfl
    exact does_liftM rfl ((deadlockM_oneHalf hall).trans (hm1 ▸ deadlockOver_youngest hp))

end Sys2Proof.Machine
end

section
/-! What a command of a command stream comes to when it is not taken, and the engine commands that are rejected. -/

namespace Sys2Proof.Machine

section
variable {i : Instr} {s : State} {c k op : Nat} {w : Word} {run : Run} {m : Mach}

/-- A command that issues comes to what its execution ends in. -/
theorem does_issueEnds {r : Issue} (hi : exec i s = liftM (issue op run c k w) s) (h : dispatches s c k op w = true)
    (hr : run s.env (issuedMach s c k w) c k (issuedWord s c k w) = (m, r)) :
    Does i s (finish s.env (issueEnds s.env m c k (issuedWord s c k w) r)) :=
  does_liftM hi (by rw [issue_runs run h, hr])

/-- R530: a rejected command ends its context's work with a code of its own family. -/
theorem does_rejected {code : Nat} (hi : exec i s = liftM (issue op run c k w) s) (h : dispatches s c k op w = true)
    (hr : run s.env (issuedMach s c k w) c k (issuedWord s c k w) = (m, .reject code)) :
    Does i s (finish s.env (failCtx s.env m c k (opcodeFamily (fld (issuedWord s c k w) 7 0)) code)) :=
  does_issueEnds (r := .reject code) hi h hr

/-- R328: a command that faults ends its context's work with the fault's own family. -/
theorem does_faulted {fam code detail addr : Nat} (hi : exec i s = liftM (issue op run c k w) s) (h : dispatches s c k op w = true)
    (hr : run s.env (issuedMach s c k w) c k (issuedWord s c k w) = (m, .fault fam code detail addr)) :
    Does i s (finish s.env (failCtxAt s.env m c k fam code detail addr 0)) :=
  does_issueEnds (r := .fault fam code detail addr) hi h hr

/-- R326: after a command that leads elsewhere issue goes on there, with the loops that are live there. -/
theorem does_jumps {p : Nat} {ls : List LoopLevel} (hi : exec i s = liftM (issue op run c k w) s) (h : dispatches s c k op w = true)
    (hr : run s.env (issuedMach s c k w) c k (issuedWord s c k w) = (m, .jump p ls)) :
    Does i s (finish s.env (m.modCtx c k (fun x => ({ x with loops := ls } : Ctx).advanceTo p))) :=
  does_issueEnds (r := .jump p ls) hi h hr

/-- A command that sets its context's state itself leaves it so. -/
theorem does_self (hi : exec i s = liftM (issue op run c k w) s) (h : dispatches s c k op w = true)
    (hr : run s.env (issuedMach s c k w) c k (issuedWord s c k w) = (m, .self)) : Does i s (finish s.env m) :=
  does_issueEnds (r := .self) hi h hr

end

section
variable {e : Env} {m : Mach} {c k code : Nat} {w : Word}

theorem runArray_rejected (h : firstBad (arrayChecks e m c k w) = some code) : runArray e m c k w = (m, .reject code) := by
  simp only [runArray, h]

theorem runVector_rejected (h : firstBad (vecChecks e m w) = some code) : runVector e m c k w = (m, .reject code) := by
  simp only [runVector, h]

theorem runGather_rejected (hreads : trayBad m c (gatCheckReads w) = none) (h : firstBad (gatChecks e m c k w) = some code) :
    runGather e m c k w = (m, .reject code) := by
  simp only [runGather, hreads, h]

theorem runTraversal_rejected (hreads : trayBad m c (scrCheckReads w) = none) (h : firstBad (scrChecks e m c w) = some code) :
    runTraversal e m c k w = (m, .reject code) := by
  simp only [runTraversal, hreads, h]

end

/-- Settles O15: the commands of an engine share one meaning, which rejects before it places. -/
theorem engineCommandsRejected : Obligations.EngineCommandsRejected := by
  intro s c k code w m v
  refine ⟨fun p hp hd hbad => ?_, fun p hp hd hbad => ?_, fun p hp hd hreads hbad => ?_, fun p hp hd hreads hbad => ?_⟩
  · exact does_rejected (exec_arrayCommands hp s) hd (runArray_rejected hbad)
  · exact does_rejected (exec_vectorCommands hp s) hd (runVector_rejected hbad)
  · exact does_rejected (exec_gatherCommands hp s) hd (runGather_rejected hreads hbad)
  · exact does_rejected (exec_traversalCommands hp s) hd (runTraversal_rejected hreads hbad)

end Sys2Proof.Machine
end

section
/-! The control commands. -/

namespace Sys2Proof.Machine

/-- An update of a core that leaves its contexts alone. -/
theorem ctx_modCore_same {f : Core → Core} (hf : ∀ x, (f x).ctxs = x.ctxs) (m : Mach) (c k : Nat) :
    (m.modCore c f).ctx c k = m.ctx c k := by
  simp only [Mach.ctx, core_modCore, Core.ctx, hf]

@[simp] theorem ctx_modArr (m : Mach) (c k : Nat) (f : ArrayUnit → ArrayUnit) : (m.modArr c f).ctx c k = m.ctx c k :=
  ctx_modCore_same (f := fun x => { x with arr := f x.arr }) (fun _ => rfl) m c k

/-- Only the context's own value matters to an update of it. -/
theorem modCtx_congr {m : Mach} {c k : Nat} {f g : Ctx → Ctx} (h : f (m.ctx c k) = g (m.ctx c k)) :
    m.modCtx c k f = m.modCtx c k g := by
  simp only [Mach.modCtx, Mach.modCore]
  exact congrArg (fun x => m.setCore c { m.core c with ctxs := spSet (m.core c).ctxs k x }) h

section
variable {e : Env} {m : Mach} {c k : Nat} {w : Word} (hchecks : firstBad (controlChecks w) = none)
include hchecks

theorem runNop_taken : runNop e m c k w = (m, .taken) := by
  simp only [runNop, hchecks]

/-- R326: a `LOOP` whose body fits leads where `loopTo` says. -/
theorem runLoop_jumps (hfits : loopFits (m.ctx c k) (ctBody w) = true) :
    runLoop e m c k w = (m, .jump (loopTo (m.ctx c k) w).1 (loopTo (m.ctx c k) w).2) := by
  have hgood : firstBad (loopChecks (m.ctx c k) w) = none := by
    rw [loopChecks, firstBad_append _ _ hchecks, hfits]
    rfl
  simp only [runLoop, hgood]

theorem runWaitIdle_met (hmet : fenceMet m c k = true) : runWaitIdle e m c k w = (m, .taken) := by
  simp only [runWaitIdle, hchecks, hmet, if_true]

theorem runWaitIdle_waits (hmet : fenceMet m c k = false) : runWaitIdle e m c k w = (m, .wait .idleFence 0) := by
  simp only [runWaitIdle, hchecks, hmet, Bool.false_eq_true, if_false]

/-- R326: `YIELD` stands at the next command when the boundary comes. -/
theorem runYield_waits :
    runYield e m c k w =
      (setState e (m.modCtx c k (fun x => { x.advanceTo (x.pos + 1) with yielded := x.serving })) c k .waiting .boundary 0, .self) := by
  simp only [runYield, hchecks]

/-- R326, R432: `STOP` of a batch context whose commands are complete and that holds no tile. -/
theorem runStop_ends (hmet : fenceMet m c k = true) (htile : (m.arr c).active.any (fun t => t.ctx == k) = false)
    (hbatch : (m.ctx c k).serving = false) :
    runStop e m c k w =
      (setState e (streamDone e ((drainForStop m c k).modCtx c k (fun x =>
        { x with loops := [], patches := [], waitCmd := none, yielded := x.serving })) c k) c k .idle .none 0, .self) := by
  have hkept : ((drainForStop m c k).ctx c k).serving = false := by rwa [drainForStop, ctx_modArr]
  simp only [runStop, hchecks, hmet, htile, Bool.not_true, Bool.false_eq_true, if_false]
  refine congrArg (fun a => (setState e a c k .idle .none 0, Issue.self)) (if_neg ?_)
  rw [ctx_modCtx, Bool.not_eq_true]
  exact hkept

end

/-- R326: COUNT 0 skips the body. -/
theorem loopTo_skips {x : Ctx} {w : Word} (h : ctCount w = 0) : loopTo x w = (x.pos + 1 + ctBody w, x.loops) := by
  simp only [loopTo, h, if_true]

/-- R326: any other COUNT opens a level over the body. -/
theorem loopTo_opens {x : Ctx} {w : Word} (h : ctCount w ≠ 0) :
    loopTo x w =
      (x.pos + 1, x.loops ++ [{ start := x.pos + 1, stop := x.pos + 1 + ctBody w, remaining := ctCount w }]) := by
  simp only [loopTo, h, if_false]

/-- Settles O16: each clause is one way in which a control command is executed. -/
theorem controlCommands : Obligations.ControlCommands := by
  intro s c k w m v x hchecks
  refine ⟨fun hd => ?_, fun hd hfits => ⟨fun hcount => ?_, fun hcount => ?_⟩, fun hd => ⟨fun hmet => ?_, fun hmet => ?_⟩,
    fun hd => ?_, fun hd hmet htile hbatch => ?_⟩
  · exact does_taken rfl hd (runNop_taken hchecks)
  · have hjump := runLoop_jumps (e := s.env) hchecks hfits
    rw [loopTo_skips hcount] at hjump
    have hloops : m.modCtx c k (fun y => ({ y with loops := x.loops } : Ctx).advanceTo (x.pos + 1 + ctBody v)) =
        m.modCtx c k (fun y => y.advanceTo (x.pos + 1 + ctBody v)) := modCtx_congr rfl
    exact hloops ▸ does_jumps rfl hd hjump
  · have hjump := runLoop_jumps (e := s.env) hchecks hfits
    rw [loopTo_opens hcount] at hjump
    exact does_jumps rfl hd hjump
  · exact does_taken rfl hd (runWaitIdle_met hchecks hmet)
  · exact does_waits rfl hd (runWaitIdle_waits hchecks hmet)
  · exact does_self rfl hd (runYield_waits hchecks)
  · exact does_self rfl hd (runStop_ends hchecks hmet htile hbatch)

end Sys2Proof.Machine
end

section
/-! The clamp commands, and the arrival of a signal at its clamp. -/

namespace Sys2Proof.Machine

/-! ### The clamp commands -/

section
variable {e : Env} {m : Mach} {c k : Nat} {w : Word} (hchecks : firstBad (clampChecks c w) = none)
include hchecks

/-- R331: a clamp that nobody owns becomes this context's. -/
theorem runClampInit_owns (hfree : (m.clamp c (clIndex w)).state ≠ .owned) :
    runClampInit e m c k w =
      (m.modClamp c (clIndex w) (fun _ => { state := .owned, counter := clValue w, owner := k, waiters := [] }), .taken) := by
  have hgood : firstBad (clampChecks c w ++ [((m.clamp c (clIndex w)).state == .owned, cBounds)]) = none := by
    rw [firstBad_append _ _ hchecks, beq_eq_false_iff_ne.mpr hfree]
    rfl
  simp only [runClampInit, hgood]

/-- R333: a signal to a core of this device that is there and in service leaves once its fence is met. -/
theorem runClampSignal_sends (hlocal : clRemote w = false) (hcore : e.v.hasCore (clCore w) = true)
    (hserves : coreFenced m (clCore w) = false) (hfence : clFence w = false ∨ fenceMet m c k = true) :
    runClampSignal e m c k w =
      (sendSignal m { sender := .context c k, core := clCore w, index := clIndex w, value := clValue w }, .taken) := by
  have hgood : firstBad (clampChecks c w ++
      [(!clRemote w && !e.v.hasCore (clCore w), cUnitAbsent), (!clRemote w && coreFenced m (clCore w), cUnitFenced)]) = none := by
    rw [firstBad_append _ _ hchecks, hlocal, hcore, hserves]
    rfl
  have hgo : (clFence w && !fenceMet m c k) = false := by
    rcases hfence with h | h <;> simp [h]
  simp only [runClampSignal, hgood]
  simp only [hgo, hlocal, Bool.false_eq_true, if_false]

/-- R335: a counter that reaches VALUE lets the wait pass; CONSUME takes VALUE off. -/
theorem runClampWait_passes (howned : (m.clamp c (clIndex w)).state = .owned) (hreached : clValue w ≤ (m.clamp c (clIndex w)).counter) :
    runClampWait e m c k w =
      (if clConsume w then m.modClamp c (clIndex w) (fun y => { y with counter := y.counter - clValue w }) else m, .taken) := by
  simp only [runClampWait, hchecks, howned, hreached, if_true]

/-- R335: below VALUE the context joins the waiters, behind those that wait already. -/
theorem runClampWait_joins (howned : (m.clamp c (clIndex w)).state = .owned) (hbelow : (m.clamp c (clIndex w)).counter < clValue w) :
    runClampWait e m c k w =
      (m.modClamp c (clIndex w) (fun y =>
        { y with waiters := y.waiters.filter (fun q => q.ctx != k) ++ [{ ctx := k, value := clValue w, consume := clConsume w }] }),
        .wait .clamp (clIndex w)) := by
  simp only [runClampWait, hchecks, howned, if_neg hbelow.not_ge]

/-- R338: a wait on a FREE clamp faults. -/
theorem runClampWait_free (hfree : (m.clamp c (clIndex w)).state = .free) :
    runClampWait e m c k w = (m, .fault famClamp 0x14 0 0) := by
  simp only [runClampWait, hchecks, hfree]

/-- R336: a wait on a BROKEN clamp faults. -/
theorem runClampWait_broken (hbroken : (m.clamp c (clIndex w)).state = .broken) :
    runClampWait e m c k w = (m, .fault famClamp 0x13 0 0) := by
  simp only [runClampWait, hchecks, hbroken]

theorem runClampRead_writes :
    runClampRead e m c k w = (trayWrite m c (clDst w) (clampImage (m.clamp c (clIndex w))), .taken) := by
  simp only [runClampRead, hchecks]

section
variable (howned : (m.clamp c (clIndex w)).state = .owned) (howner : (m.clamp c (clIndex w)).owner = k)
include howned howner

/-- R335, R338: the owner sets the counter, and the waiters are checked against it. -/
theorem runClampSet_sets :
    runClampSet e m c k w =
      (checkWaiters e (m.modClamp c (clIndex w) (fun y => { y with counter := clValue w })) c (clIndex w), .taken) := by
  have hgood : firstBad (clampChecks c w ++ [(notOwner (m.clamp c (clIndex w)) k, cBounds)]) = none := by
    rw [firstBad_append _ _ hchecks]
    simp [notOwner, howned, howner, firstBad]
  simp only [runClampSet, hgood]

/-- R338: the owner frees a clamp that nobody waits on. -/
theorem runClampRelease_frees (hnobody : (m.clamp c (clIndex w)).waiters = []) :
    runClampRelease e m c k w = (m.modClamp c (clIndex w) (fun _ => Clamp.reset), .taken) := by
  have hgood : firstBad (clampChecks c w ++
      [(notOwner (m.clamp c (clIndex w)) k || !(m.clamp c (clIndex w)).waiters.isEmpty, cBounds)]) = none := by
    rw [firstBad_append _ _ hchecks]
    simp [notOwner, howned, howner, hnobody, firstBad]
  simp only [runClampRelease, hgood]

end

end

/-- R419: what follows a change of clamps rests on the machine that the change leaves. -/
theorem watched_congr {f g : Mach → Mach} {m : Mach} (e : Env) (h : f m = g m) : watched e f m = watched e g m := by
  simp only [watched, withBeats, h]

/-- R330, R419: a clamp command that is taken under the watch of the collective slots. -/
theorem does_watched {i : Instr} {s : State} {c k op : Nat} {w : Word} {run : Run} {m : Mach}
    (hi : exec i s = liftM (fun e a => watched e (issue op run c k w e) a) s) (h : dispatches s c k op w = true)
    (hr : run s.env (issuedMach s c k w) c k (issuedWord s c k w) = (m, .taken)) :
    Does i s (watched s.env (fun _ => finish s.env (goesOn c k (issuedWord s c k w) m)) s.mach) :=
  does_liftM hi (watched_congr s.env (issue_taken h hr))

/-- Settles O17: each clause is one way in which a clamp command is executed. -/
theorem clampCommands : Obligations.ClampCommands := by
  intro s c k w m v i y hchecks
  refine ⟨fun hd hfree => ?_, fun hd hlocal hcore hserves hfence => ?_,
    fun hd howned => ⟨fun hreached hconsume => ?_, fun hreached hconsume => ?_, fun hbelow => ?_⟩, fun hd howned howner => ?_,
    fun hd => ?_, fun hd howned howner hnobody => ?_, fun hd => ⟨fun hfree => ?_, fun hbroken => ?_⟩⟩
  · exact does_watched rfl hd (runClampInit_owns hchecks hfree)
  · exact does_taken rfl hd (runClampSignal_sends hchecks hlocal hcore hserves hfence)
  · have hpass := runClampWait_passes (e := s.env) (k := k) hchecks howned hreached
    rw [if_pos hconsume] at hpass
    exact does_taken rfl hd hpass
  · have hpass := runClampWait_passes (e := s.env) (k := k) hchecks howned hreached
    rw [if_neg (Bool.not_eq_true _ ▸ hconsume)] at hpass
    exact does_taken rfl hd hpass
  · exact does_waits rfl hd (runClampWait_joins hchecks howned hbelow)
  · exact does_watched rfl hd (runClampSet_sets hchecks howned howner)
  · exact does_taken rfl hd (runClampRead_writes hchecks)
  · exact does_taken rfl hd (runClampRelease_frees hchecks howned howner hnobody)
  · exact does_faulted rfl hd (runClampWait_free hchecks hfree)
  · exact does_faulted rfl hd (runClampWait_broken hchecks hbroken)

/-! ### The arrival of a signal -/

section
variable {e : Env} {m : Mach} {c i n : Nat}

/-- R332: an OWNED clamp in service counts the signal, and its waiters are checked. -/
theorem landSignal_counts (hin : coreIn e m c = true) (howned : (m.clamp c i).state = .owned) :
    landSignal e m c i n =
      checkWaiters e (m.modClamp c i (fun y => { y with counter := min (y.counter + n) (2 ^ 64 - 2) })) c i := by
  simp only [landSignal, hin, howned, Bool.not_true, Bool.false_eq_true, if_false, clampMax]

/-- R332, R536: at any other clamp the signal is lost. -/
theorem landSignal_loses (h : coreIn e m c = false ∨ (m.clamp c i).state ≠ .owned) : landSignal e m c i n = loseSignal m := by
  unfold landSignal
  rcases h with hout | hstate
  · rw [hout]
    rfl
  · split
    · rfl
    · split
      · next howned => exact absurd howned hstate
      · rfl

/-- R332: a landing signal touches no collective slot. -/
theorem landSignal_fabric : (landSignal e m c i n).fabric = m.fabric := by
  unfold landSignal
  split
  · rfl
  · split
    · exact checkWaiters_fabric _ _ _ _
    · rfl

/-- Without collective slots a change of clamps is followed by no heartbeat. -/
theorem withBeats_noSlots {f : Mach → Mach} (h : (f m).fabric.colls = []) : withBeats e f m = f m := by
  simp only [withBeats, liveSlots, h, List.filter_nil, List.map_nil, List.foldl_nil]

/-- Without collective slots a signal only lands. -/
theorem withBeats_landing (h : m.fabric.colls = []) : withBeats e (fun a => landWatched e a c i n) m = landSignal e m c i n := by
  have hlands : landWatched e m c i n = landSignal e m c i n := by
    simp only [landWatched, reached, h, List.filter_nil, List.map_nil, List.foldl_nil]
  refine (withBeats_noSlots ?_).trans hlands
  rw [hlands, landSignal_fabric, h]

/-- R335: an arriving signal is off its way and lands. -/
theorem arrivalM_lands {snd : Sender} {g : Sig} {rest : List Sig} (htake : takeSignal snd c i m.signals = (some g, rest))
    (hcolls : m.fabric.colls = []) :
    arrivalM snd c i e m = finish e (landSignal e { m with signals := rest } c i g.value) := by
  have hlands := withBeats_landing (e := e) (m := { m with signals := rest }) (c := c) (i := i) (n := g.value) hcolls
  simp only [arrivalM, htake, hlands]

end

/-- Settles O36: the signal lands on an OWNED clamp in service, or it is lost. -/
theorem signalArrives : Obligations.SignalArrives := by
  intro s snd c i g rest m htake hcolls
  have hland := arrivalM_lands (e := s.env) htake hcolls
  refine ⟨fun hin howned => does_liftM rfl (hland.trans ?_), fun hlost => does_liftM rfl (hland.trans ?_)⟩
  · rw [landSignal_counts hin howned]
  · rw [landSignal_loses hlost, loseSignal]

end Sys2Proof.Machine
end

section
/-! Commands where nothing waits: what follows them has nothing to do. -/

namespace Sys2Proof.Machine

/-- Where nothing waits after a command, the command's own change is all. -/
theorem does_quietly {i : Instr} {s : State} {m : Mach} (h : Does i s (finish s.env m)) (hq : quiet m = true) : Does i s m := by
  rwa [finish_quiet _ _ hq] at h

/-- The same for a command under the watch of the collective slots (R419). -/
theorem does_watched_quietly {i : Instr} {s : State} {m : Mach} (h : Does i s (watched s.env (fun _ => finish s.env m) s.mach))
    (hq : quiet m = true) : Does i s (watched s.env (fun _ => m) s.mach) := by
  rwa [finish_quiet _ _ hq] at h

/-! ### The sequencer's context runs -/

/-- R309, R310: the context that the sequencer turns to is RUNNING. -/
theorem chooseCtx_running (e : Env) (m : Mach) (c k : Nat) : ((chooseCtx e m c k).ctx c k).state = .running := by
  simp only [chooseCtx]
  rw [ctx_modCore_same (f := fun x => { x with lastChosen := k }) (fun _ => rfl)]
  split
  · next hrun => exact hrun
  · rw [setState, ctx_modCtx]

/-- R292: counting the patches leaves the state alone. -/
theorem dispatched_state (x : Ctx) (w : Word) : (dispatched x w).1.state = x.state := by
  unfold dispatched
  split <;> rfl

theorem issuedMach_running (s : State) (c k : Nat) (w : Word) : ((issuedMach s c k w).ctx c k).state = .running := by
  rw [issuedMach, ctx_modCtx, dispatched_state]
  exact chooseCtx_running s.env s.mach c k

/-! ### Changes that wake nobody -/

section
variable {e : Env} {m : Mach} {c k : Nat} (h : quiet m = true)
include h

theorem quiet_modClamp (i : Nat) (f : Clamp → Clamp) : quiet (m.modClamp c i f) = true := quiet_sameCtxs c _ h rfl rfl

theorem quiet_modPool (p : Nat) (f : Pool → Pool) : quiet (m.modPool c p f) = true := quiet_sameCtxs c _ h rfl rfl

theorem quiet_trayWrite (a : Nat) (bs : List Byte) : quiet (trayWrite m c a bs) = true := quiet_sameCtxs c _ h rfl rfl

theorem quiet_setEngQueue (q : List EngCmd) (en : Engine) : quiet (setEngQueue m c q en) = true := by
  cases en with
  | chisel | marquetry | scribe => exact quiet_sameCtxs c _ h rfl rfl
  | array | batten => exact h

theorem quiet_engStart (en : Engine) : quiet (engStart e m c en) = true := by
  unfold engStart
  split
  · exact h
  · split
    · exact h
    · exact quiet_setEngQueue h _ en

/-- A running context that comes to wait for something other than a unit or a fence. -/
theorem quiet_waits {cause : Cause} (detail : Nat) (hrun : (m.ctx c k).state = .running) (hunit : cause ≠ .unit)
    (hfence : cause ≠ .idleFence) : quiet (setState e m c k .waiting cause detail) = true := by
  refine quiet_modCtx c k _ h (fun hk => ?_)
  obtain ⟨-, hretakes, hcoming⟩ := calm_parts (quiet_calm h c hk)
  have hsaved : ((m.ctx c k).saved.isSome && (m.ctx c k).saving.isEmpty) = false := by
    simpa [Ctx.retakes, hrun] using hretakes
  simp [Ctx.calm, Ctx.retakes, hunit, hfence, hsaved, hcoming]

/-- R326: what `YIELD` does to its context. -/
theorem quiet_yields (hrun : (m.ctx c k).state = .running) :
    quiet (setState e (m.modCtx c k (fun x => { x.advanceTo (x.pos + 1) with yielded := x.serving })) c k .waiting .boundary 0) =
      true := by
  refine quiet_waits (quiet_modCtx c k _ h (fun hk => ?_)) 0 ?_ (by decide) (by decide)
  · exact quiet_calm h c hk
  · rw [ctx_modCtx]
    exact hrun

end

/-- Settles O21: the commands as O12, O16, O17 and O18 have them, each with a change that wakes nobody. -/
theorem commandsInQuiet : Obligations.CommandsInQuiet := by
  intro s c k w m v hq
  refine ⟨fun hchecks => ?_, fun hchecks => ?_, fun hd hhead hlo hhi hsmall hlarge hrails hfits => ?_,
    fun p hp hd hchecks hb hn => ?_⟩
  · obtain ⟨hnop, -, hidle, hyield, -⟩ := controlCommands s c k w hchecks
    exact ⟨fun hd => does_quietly (hnop hd) (quiet_goesOn c k v hq),
      fun hd hmet => does_quietly ((hidle hd).1 hmet) (quiet_goesOn c k v hq),
      fun hd => does_quietly (hyield hd) (quiet_yields hq (issuedMach_running s c k w))⟩
  · obtain ⟨hinit, -, -, -, hread, hrelease, -⟩ := clampCommands s c k w hchecks
    refine ⟨fun hd hfree => ?_, fun hd => ?_, fun hd howned howner hnobody => ?_⟩
    · exact does_watched_quietly (hinit hd hfree) (quiet_goesOn c k v (quiet_modClamp hq _ _))
    · exact does_quietly (hread hd) (quiet_goesOn c k v (quiet_trayWrite hq _ _))
    · exact does_quietly (hrelease hd howned howner hnobody) (quiet_goesOn c k v (quiet_modClamp hq _ _))
  · obtain ⟨-, -, -, -, -, hpool⟩ := railCommands s c k w
    exact does_quietly (hpool hd hhead hlo hhi hsmall hlarge hrails hfits) (quiet_goesOn c k v (quiet_modPool hq _ _))
  · exact does_quietly (vectorCommandsIssue s c k w p hp hd hchecks hb hn)
      (quiet_goesOn c k v (quiet_engStart (quiet_setEngQueue hq _ _) _))

end Sys2Proof.Machine
end

section
/-! An engine that finishes saving for a pre-emption. -/

namespace Sys2Proof.Machine

section
variable {e : Env} {m m1 : Mach} {c k n : Nat} {en : Engine}

/-- R315: the work that engine `en` saves, and whether it could save it. -/
def savesWork (e : Env) (m : Mach) (c k n : Nat) : Engine → Mach × Bool
  | .array => saveArray e m c k n
  | .batten =>
    if (m.core c).streams.any (fun p => p.2.ctx == k && p.2.cancel.isSome) then (m, false) else (saveStreams e m c k n, true)
  | en => saveEngine e m c k en n

/-- R315, R318, R362: what follows the save: the merge session and the dirty lines go with it, and the context waits for one engine
less. -/
def engineSaved (e : Env) (c k : Nat) (en : Engine) (m : Mach) : Mach :=
  let m1 := saveMerge (if en = .scribe then flushOwner e m c k 0 0 else m) c k en
  trySaved e (startAll e (arrayAdvance e (m1.modCtx c k (fun x => { x with saving := x.saving.filter (fun y => y != en) })) c) c) c k

/-- R315: the engine that saves its work ends its part of the pre-emption. -/
theorem engineSaves_saved (hwaits : (List.range 16).find? (fun j => (m.ctx c j).saving.contains en) = some k)
    (hsave : savesWork e m c k n en = (m1, true)) : engineSaves e m c en n = engineSaved e c k en m1 := by
  cases en with
  | array | chisel | marquetry | scribe | batten =>
    simp only [savesWork] at hsave
    simp only [engineSaves, hwaits, hsave, Bool.not_true, Bool.false_eq_true, if_false, engineSaved]

theorem does_engineSaveEnd {s : State} (hwaits : (List.range 16).find? (fun j => (s.mach.ctx c j).saving.contains en) = some k)
    (hsave : savesWork s.env s.mach c k n en = (m1, true)) :
    Does (.engineSaveEnd c en n) s (finish s.env (engineSaved s.env c k en m1)) :=
  does_liftM (f := fun e m => finish e (engineSaves e m c en n)) rfl (congrArg (finish s.env) (engineSaves_saved hwaits hsave))

/-! ### The array -/

section
variable (hdrain : (m.arr c).draining = none)
include hdrain

/-- R106: a pass that streams stops at the slice boundary, and its tile is swapped out. -/
theorem saveArray_streaming {r : Streaming} {t : Tile} (hr : (m.arr c).streaming = some r) (ht : (m.arr c).active = some t)
    (hreads : trayBad m c (passReads r.cmd.w r.streamed (min (psShare r.cmd.w) (r.streamed + toBoundary r.cmd.w n))) = none) :
    let hi := min (psShare r.cmd.w) (r.streamed + toBoundary r.cmd.w n)
    saveArray e m c k n =
      (modSaved ((streamOn m c r hi t).1.modArr c (fun y => { y with streaming := none, active := none })) c k (fun v =>
        { v with tile := some (streamOn m c r hi t).2, streaming := some { r with streamed := hi } }), true) := by
  simp only [saveArray, hdrain, hr, ht, hreads, Option.isSome_none, Bool.false_eq_true, if_false]

/-- R107: a tile into which nothing streams is swapped out as it stands. -/
theorem saveArray_active {t : Tile} (hr : (m.arr c).streaming = none) (ht : (m.arr c).active = some t) :
    saveArray e m c k n =
      (modSaved (m.modArr c (fun y => { y with active := none })) c k (fun v => { v with tile := some t }), true) := by
  simp only [saveArray, hdrain, hr, ht, Option.isSome_none, Bool.false_eq_true, if_false]

/-- Without a tile the set that `SWAP` made active is kept as it was loaded (notes/assumptions/65). -/
theorem saveArray_raw (ht : (m.arr c).active = none) :
    saveArray e m c k n =
      (modSaved (m.modArr c (fun y => { y with activeRaw := none })) c k (fun v => { v with raw := (m.arr c).activeRaw }), true) := by
  simp only [saveArray, hdrain, ht, Option.isSome_none, Bool.false_eq_true, if_false]

end

/-! ### The engines with a queue -/

/-- A command that takes no step stands where it stood. -/
theorem engRun_zero (x : EngCmd) : engRun e m c en 0 x = (m, x, .paused) := by
  cases en <;> rfl

theorem savesWork_queue (hen : en ∈ [Engine.chisel, .marquetry, .scribe]) : savesWork e m c k n en = saveEngine e m c k en n := by
  simp only [List.mem_cons, List.not_mem_nil, or_false] at hen
  obtain rfl | rfl | rfl := hen <;> rfl

/-- R159, R195, R260: a command that is at a safe point is parked at once. -/
theorem saveEngine_atOnce {x : EngCmd} {xs : List EngCmd} (hq : engQueue m c en = x :: xs) :
    saveEngine e m c k en 0 = (popHead e (parkHead (setEngQueue m c (x :: xs) en) c k en x) c en, true) := by
  simp only [saveEngine, hq, engRun_zero]

theorem saveEngine_empty (hq : engQueue m c en = []) : saveEngine e m c k en n = (m, true) := by
  simp only [saveEngine, hq]

/-! ### The Batten unit -/

/-- R303: the streams leave their slots when none of them is being cancelled. -/
theorem savesWork_batten (hcancel : (m.core c).streams.any (fun p => p.2.ctx == k && p.2.cancel.isSome) = false) :
    savesWork e m c k n .batten = (saveStreams e m c k n, true) := by
  simp only [savesWork, hcancel, Bool.false_eq_true, if_false]

end

/-- Settles O24: each clause is one way in which an engine saves its work. -/
theorem engineSaves_holds : Obligations.EngineSaves := by
  intro s c k n m left waitsFor
  refine ⟨fun hwaits hdrain => ⟨fun r t hr ht => ?_, fun t hr ht => ?_, fun ht => ?_⟩,
    fun en hen hwaits => ⟨fun x xs hq => ?_, fun hq => ?_, fun m1 hsave => ?_⟩, fun hwaits hcancel => ?_⟩
  · intro hi hreads
    exact does_engineSaveEnd hwaits (saveArray_streaming hdrain hr ht hreads)
  · exact does_engineSaveEnd hwaits (saveArray_active hdrain hr ht)
  · exact does_engineSaveEnd hwaits (saveArray_raw hdrain ht)
  · exact does_engineSaveEnd hwaits ((savesWork_queue hen).trans (saveEngine_atOnce hq))
  · exact does_engineSaveEnd hwaits ((savesWork_queue hen).trans (saveEngine_empty hq))
  · exact does_engineSaveEnd hwaits ((savesWork_queue hen).trans hsave)
  · exact does_engineSaveEnd hwaits (savesWork_batten hcancel)

end Sys2Proof.Machine
end

section
/-! The registers of a context and its core, the entry that a batch context takes, and the restore of a SAVED context. -/

namespace Sys2Proof.Machine

/-! ### Descriptor and doorbells -/

section
variable {s : State} {ep c k n : Nat} (hopen : coreOpen s ep c = true)
include hopen

/-- R305: a descriptor that suits a FREE or IDLE context. -/
theorem descriptorM_taken (hk : k < 16) (hstate : (s.mach.ctx c k).state = .free ∨ (s.mach.ctx c k).state = .idle)
    (hok : descriptorOk s.mach c k { s.mach.ctx c k with descriptor := BitVec.ofNat 64 (descriptorMask n) } = true) :
    let m1 := s.mach.modCtx c k (fun y => { y with descriptor := BitVec.ofNat 64 (descriptorMask n) })
    descriptorM ep c k n s.env s.mach =
      finish s.env (if (s.mach.ctx c k).state = .free then setState s.env m1 c k .idle .none 0 else m1) := by
  have hidle : idleOnly s.mach c k = true := by
    rcases hstate with h | h <;> simp [idleOnly, h]
  refine (ctxWrite_open hopen hk).trans ?_
  simp only [hidle, hok, Bool.not_true, Bool.or_self, Bool.false_eq_true, if_false]

/-- R430, R432: a submission doorbell of a batch context. -/
theorem subTailM_batch (hk : k < 16) (hbatch : (s.mach.ctx c k).serving = false) :
    subTailM ep c k n s.env s.mach =
      if doorbellBad (s.mach.ctx c k).subTail.toNat (s.mach.ctx c k).subHead.toNat n (s.mach.ctx c k).subSize then
        refuse s.env s.mach ep (ctxOff c k 0x14) 0x14
      else s.mach.modCtx c k (fun y => { y with subTail := BitVec.ofNat 32 n }) := by
  refine (ctxWrite_open hopen hk).trans ?_
  simp only [hbatch, Bool.false_eq_true, if_false, cDoorbellRange]

/-- R430, R435: a plan doorbell of a core. -/
theorem planTailM_open :
    planTailM ep c n s.env s.mach =
      if doorbellBad (s.mach.core c).planTail.toNat (s.mach.core c).planHead.toNat n (s.mach.core c).planSize then
        refuse s.env s.mach ep (planOff c 0x0C) 0x14
      else s.mach.modCore c (fun y => { y with planTail := BitVec.ofNat 32 n }) :=
  coreWrite_open hopen

end

/-- Settles O38: the writes reach their core, and each clause is one outcome there. -/
theorem contextRegisters : Obligations.ContextRegisters := by
  intro s ep c k n hopen hk m x d
  refine ⟨fun hok => ⟨fun hfree => does_liftM rfl ?_, fun hidle => does_liftM rfl ?_⟩,
    fun hbatch => ⟨fun hgood => does_liftM rfl ?_, fun hbad => does_liftM rfl ?_⟩, fun hgood => does_liftM rfl ?_,
    fun hbad => does_liftM rfl ?_⟩
  · rw [descriptorM_taken hopen hk (.inl hfree) hok, if_pos hfree]
  · have hnotFree : (s.mach.ctx c k).state ≠ .free := fun h => nomatch hidle.symm.trans h
    rw [descriptorM_taken hopen hk (.inr hidle) hok, if_neg hnotFree]
  · exact (subTailM_batch hopen hk hbatch).trans (if_neg (ne_true_of_eq_false hgood))
  · exact (subTailM_batch hopen hk hbatch).trans (if_pos hbad)
  · exact (planTailM_open hopen).trans (if_neg (ne_true_of_eq_false hgood))
  · exact (planTailM_open hopen).trans (if_pos hbad)

/-! ### The entry at the head -/

section
variable {e : Env} {m m1 : Mach} {c k : Nat}

/-- R432: a batch context without a stream takes the entry at its head. -/
theorem takeM_takes (hclk : coreClocked e m c = true) (hstate : (m.ctx c k).state = .idle ∨ (m.ctx c k).state = .ready)
    (hentry : entryPending (m.ctx c k) = true) : takeM c k e m = finish e (takeEntry e m c k) := by
  have hfits : ((m.ctx c k).state == .idle || (m.ctx c k).state == .ready) = true := by
    rcases hstate with h | h <;> simp [h]
  simp only [takeM, hclk, hfits, hentry, Bool.and_self, if_true]

/-- R432: an entry that can be read starts. -/
theorem takeEntry_starts {b : List Byte}
    (hfetch : entryFetch e (setState e m c k .ready .none 0) c k
      ((m.ctx c k).subBase + 64 * ((m.ctx c k).subHead.toNat % 2 ^ (m.ctx c k).subSize)) = (m1, some b)) :
    takeEntry e m c k = startEntry e m1 c k b := by
  simp only [takeEntry, hfetch]

/-! ### Restore -/

/-- R309: a context whose save area can be read runs once it is restored. -/
theorem restoreCtx_running (hreads : ∀ v, (m.ctx c k).saved = some v → trayBad m c (savedReads (m.ctx c k) v) = none) :
    ((restoreCtx e m c k).ctx c k).state = .running := by
  unfold restoreCtx
  cases hsaved : (m.ctx c k).saved with
  | none => exact chooseCtx_running e m c k
  | some v =>
    simp only [hreads v hsaved]
    exact chooseCtx_running e _ c k

section
variable (hstate : (m.ctx c k).state = .saved) (hturn : sequencerChoice e m c = some k)
include hstate hturn

/-- R324: a context that needs what is taken waits for it. -/
theorem ctxRestoreM_waits (hblocked : restoreBlocked m c k = true) : ctxRestoreM c k e m = setState e m c k .saved .unit 0 := by
  simp only [ctxRestoreM, hstate, hturn, hblocked, ne_eq, not_true_eq_false, or_self, if_false, if_true]

/-- R309, R324: a context that is restored goes on with its work, takes its next entry, or is IDLE. -/
theorem ctxRestoreM_restores (hfree : restoreBlocked m c k = false) :
    ctxRestoreM c k e m =
      if (m.ctx c k).serving ∨ (m.ctx c k).running then finish e (restoreCtx e m c k)
      else if entryPending (m.ctx c k) then finish e (takeEntry e (restoreCtx e m c k) c k)
      else finish e (setState e (restoreCtx e m c k) c k .idle .none 0) := by
  simp only [ctxRestoreM, hstate, hturn, hfree, ne_eq, not_true_eq_false, or_self, Bool.false_eq_true, if_false]

end

end

/-- Settles O39: an entry is taken by `takeM_takes`; a restore waits, or goes on in the way that the context's work decides. -/
theorem workIsTaken : Obligations.WorkIsTaken := by
  intro s c k m x
  refine ⟨fun hclk hstate hentry => ⟨does_liftM rfl (takeM_takes hclk hstate hentry), fun m1 b hfetch => takeEntry_starts hfetch⟩,
    fun hstate hturn => ⟨fun hblocked => does_liftM rfl (ctxRestoreM_waits hstate hturn hblocked), fun hfree hreads => ?_⟩⟩
  intro m1
  have hrestores := ctxRestoreM_restores hstate hturn hfree
  refine ⟨restoreCtx_running hreads, fun hwork => does_liftM rfl (hrestores.trans (if_pos hwork)), fun hbatch hnone => ?_⟩
  have hnoWork : ¬(x.serving = true ∨ x.running = true) := by simp [hbatch, hnone]
  rw [if_neg hnoWork] at hrestores
  exact ⟨fun hentry => does_liftM rfl (hrestores.trans (if_pos hentry)),
    fun hentry => does_liftM rfl (hrestores.trans (if_neg (ne_true_of_eq_false hentry)))⟩

end Sys2Proof.Machine
end

section
/-! Granules of HBM: how one returns, and what a plain write leaves of checks and bytes. -/

namespace Sys2Proof.Machine

/-! ### A granule returns -/

/-- Only the stack's own value matters to an update of it. -/
theorem modStack_congr {m : Mach} {i : Nat} {f g : Stack → Stack} (h : f (m.stack i) = g (m.stack i)) :
    m.modStack i f = m.modStack i g :=
  congrArg (fun x => { m with hbm := { m.hbm with stackTab := spSet m.hbm.stackTab i x } }) h

section
variable {e : Env} {m : Mach} {pa symbols : Nat} {detect : Bool}

section
variable (hserves : hbmServes m pa = true)
include hserves

/-- R366: the poison code stays, and nothing is counted again. -/
theorem readReturnM_poisoned (hcheck : checkGranule m (granule pa) detect = .poison) : readReturnM pa detect symbols e m = m := by
  simp [readReturnM, hserves, hcheck]

/-- R366: the granule holds the other kind of code. -/
theorem readReturnM_bad (hcheck : checkGranule m (granule pa) detect = .bad) :
    readReturnM pa detect symbols e m = checkFails e m pa detect := by
  simp [readReturnM, hserves, hcheck]

section
variable (hcheck : checkGranule m (granule pa) detect = .pass)
include hcheck

theorem readReturnM_clean : readReturnM pa detect 0 e m = m := by
  simp [readReturnM, hserves, hcheck]

/-- R365: more corrupted symbols than the code corrects. -/
theorem readReturnM_uncorrectable (hsymbols : 2 ≤ symbols ∨ (1 ≤ symbols ∧ detect = true)) :
    readReturnM pa detect symbols e m = checkFails e m pa detect := by
  have hsome : symbols ≠ 0 := by omega
  have hbeyond : (detect || decide (2 ≤ symbols)) = true := by
    rcases hsymbols with h | ⟨-, h⟩ <;> simp [h]
  simp only [readReturnM, hserves, hcheck, hsome, hbeyond, Bool.not_true, Bool.false_eq_true, if_false, if_true]

end

/-- R365: PROTECT corrects one symbol. -/
theorem readReturnM_corrected (hcheck : checkGranule m (granule pa) false = .pass) :
    readReturnM pa false 1 e m = countCorrected e m pa := by
  simp [readReturnM, hserves, hcheck]

end

/-- R369: the corrected errors of the address's channel in the running second, one more included, and when that second began. -/
def channelSecond (e : Env) (m : Mach) (pa : Nat) : Nat × Nat :=
  let old := spGet (0, 0) (m.stack (stackOf pa)).chan (channelOf (offOf pa))
  inSecond (nsAt e.k (stackOf pa / 8)) old.1 old.2

/-- R368: below the limit of 0x0500.50 the error counts. -/
theorem countCorrected_below (h : (channelSecond e m pa).1 < m.hbm.retrainLimit) :
    countCorrected e m pa = m.modStack (stackOf pa) (fun x =>
      { x with corrected := x.corrected + 1, chan := spSet x.chan (channelOf (offOf pa)) (channelSecond e m pa) }) :=
  modStack_congr (if_neg (Nat.not_le.mpr h))

/-- R369: at the limit the channel trains. -/
theorem countCorrected_limit (h : m.hbm.retrainLimit ≤ (channelSecond e m pa).1) :
    countCorrected e m pa = m.modStack (stackOf pa) (fun x =>
      { x with corrected := x.corrected + 1, chan := spErase x.chan (channelOf (offOf pa)),
               training := channelOf (offOf pa) :: x.training.filter (fun y => y != channelOf (offOf pa)) }) :=
  modStack_congr (if_pos h)

end

/-- Settles O25: each outcome of the check, and of the symbols where it passes. -/
theorem granuleReturns : Obligations.GranuleReturns := by
  intro s pa symbols detect m failed hserves
  refine ⟨?clean, ?corrected, fun hpass hsymbols => does_liftM rfl (readReturnM_uncorrectable hserves hpass hsymbols),
    fun hbad => does_liftM rfl (readReturnM_bad hserves hbad), fun hpoison => does_liftM rfl (readReturnM_poisoned hserves hpoison)⟩
  case clean =>
    rintro hpass rfl
    exact does_liftM rfl (readReturnM_clean hserves hpass)
  case corrected =>
    rintro hpass rfl rfl ch old q
    exact ⟨fun h => does_liftM rfl ((readReturnM_corrected hserves hpass).trans (countCorrected_below h)),
      fun h => does_liftM rfl ((readReturnM_corrected hserves hpass).trans (countCorrected_limit h))⟩

/-! ### What a write does to the checks of its granules -/

/-- Outside HBM's checks, stacks and the fault rings nothing differs. -/
structure ChecksOnly (m n : Mach) : Prop where
  outside : n = { m with hbm := n.hbm, faults := n.faults }
  cells : n.hbm.cells = m.hbm.cells

theorem ChecksOnly.refl (m : Mach) : ChecksOnly m m := ⟨rfl, rfl⟩

theorem ChecksOnly.trans {m n p : Mach} (h1 : ChecksOnly m n) (h2 : ChecksOnly n p) : ChecksOnly m p where
  outside := h2.outside.trans (congrArg (fun x : Mach => { x with hbm := p.hbm, faults := p.faults }) h1.outside)
  cells := h2.cells.trans h1.cells

theorem checksOnly_setSide (m : Mach) (g : Nat) (x : Side) : ChecksOnly m (setSide m g x) := ⟨rfl, rfl⟩

theorem checksOnly_poisonGranule (m : Mach) (g : Nat) : ChecksOnly m (poisonGranule m g) := ⟨rfl, rfl⟩

theorem checksOnly_raiseFault (m : Mach) (d : Nat) (r : FaultRec) : ChecksOnly m (raiseFault m d r) := by
  unfold raiseFault setFaultRing
  split <;> exact ⟨rfl, rfl⟩

section
variable {e : Env} {m : Mach} {g : Nat} {detect : Bool}

/-- R367: a whole granule, and one whose own check passes, gets a new check. -/
theorem writeGranule_whole : writeGranule e m g detect true = setSide m g (sideOf detect) := rfl

theorem writeGranule_pass (hcheck : checkGranule m g detect = .pass) :
    writeGranule e m g detect false = setSide m g (sideOf detect) := by
  simp [writeGranule, hcheck]

theorem writeGranule_poison (hcheck : checkGranule m g detect = .poison) : writeGranule e m g detect false = m := by
  simp [writeGranule, hcheck]

theorem writeGranule_bad (hcheck : checkGranule m g detect = .bad) :
    writeGranule e m g detect false = raiseFault (poisonGranule m g) (stackOf (64 * g) / 8) (checkFault e m g detect) := by
  simp [writeGranule, hcheck]

theorem checksOnly_writeGranule (whole : Bool) : ChecksOnly m (writeGranule e m g detect whole) := by
  cases whole
  · cases hcheck : checkGranule m g detect
    · rw [writeGranule_pass hcheck]
      exact checksOnly_setSide _ _ _
    · rw [writeGranule_bad hcheck]
      exact (checksOnly_poisonGranule _ _).trans (checksOnly_raiseFault _ _ _)
    · rw [writeGranule_poison hcheck]
      exact .refl m
  · exact checksOnly_setSide _ _ _

end

theorem checksOnly_writeGranules (e : Env) (detect : Bool) (a n : Nat) :
    ∀ (k g : Nat) (m : Mach), ChecksOnly m (writeGranules e detect a n g k m)
  | 0, _, m => .refl m
  | k + 1, g, _ => (checksOnly_writeGranule _).trans (checksOnly_writeGranules e detect a n k (g + 1) _)

/-! ### Plain writes -/

/-- Bytes stored at an address of window 0. -/
def storedAt (pa : Nat) (data : List Byte) (m : Mach) : Mach :=
  { m with hbm := { m.hbm with cells := memWrite m.hbm.cells pa data } }

theorem plainOf_window {w off : Nat} (hoff : off < 2 ^ 40) : plainOf (w * 2 ^ 40 + off) = off :=
  (Nat.mul_add_mod_self_right w (2 ^ 40) off).trans (Nat.mod_eq_of_lt hoff)

theorem plainOf_of_window0 {pa : Nat} (hwin : winOf pa = 0) : plainOf pa = pa := by
  simp only [winOf, plainOf] at *
  omega

theorem granulesIn_one {pa n : Nat} (hn : 0 < n) (hfits : pa % 64 + n ≤ 64) : granulesIn pa n = 1 := by
  rw [granulesIn, if_neg (by omega), plainOf]
  omega

section
variable {e : Env} {m : Mach} {pa : Nat} {detect : Bool} {data : List Byte}

/-- R367: a write that reaches a stack without a lost pair. -/
theorem writeM_stores (hserves : hbmServes m pa = true) (hwin : winOf pa = 0) (hpair : (m.stack (stackOf pa)).pairB = 255) :
    writeM pa detect data e m = hbmStore e m pa data detect := by
  simp [writeM, hbmWrite, hserves, hwin, hpair]

/-- R367: a write updates the checks of its granules, then stores its bytes. -/
theorem hbmStore_window0 (hwin : winOf pa = 0) : ∃ m1, ChecksOnly m m1 ∧ hbmStore e m pa data detect = storedAt pa data m1 := by
  refine ⟨_, checksOnly_writeGranules e detect pa data.length (granulesIn pa data.length) (granule pa) m, ?_⟩
  rw [hbmStore, plainOf_of_window0 hwin]
  rfl

/-- A write inside one granule. -/
theorem hbmStore_oneGranule (hwin : winOf pa = 0) (hne : data ≠ []) (hfits : pa % 64 + data.length ≤ 64) :
    hbmStore e m pa data detect = storedAt pa data (writeGranule e m (granule pa) detect (decide (data.length = 64))) := by
  have hwhole : (decide (pa ≤ 64 * granule pa) && decide (64 * granule pa + 64 ≤ pa + data.length)) = decide (data.length = 64) := by
    rw [Bool.eq_iff_iff]
    simp only [granule, plainOf_of_window0 hwin, Bool.and_eq_true, decide_eq_true_eq]
    omega
  simp only [hbmStore, granulesIn_one (List.length_pos_iff.mpr hne) hfits, plainOf_of_window0 hwin, writeGranules, hwhole]
  rfl

end

/-- Settles O26: the checks that a write updates are no part of what else it leaves alone, and inside one granule the write is one
outcome of `writeGranule`. -/
theorem hbmWriteStores : Obligations.HbmWriteStores := by
  intro s pa detect data m g stored hserves hwin hpair hwf
  have hstores : writeM pa detect data s.env m = hbmStore s.env m pa data detect := writeM_stores hserves hwin hpair
  refine ⟨?frame, fun halign hlen => does_liftM rfl (hstores.trans ?whole), fun hne hfits hpart => ?partly⟩
  case frame =>
    obtain ⟨m1, hchecks, hstore⟩ := hbmStore_window0 (e := s.env) (m := m) (data := data) (detect := detect) hwin
    refine ⟨storedAt pa data m1, does_liftM rfl (hstores.trans hstore), ?_⟩
    obtain ⟨houtside, hcells⟩ := hchecks
    have hwf1 : Memory.wf m1.hbm.cells = true := hcells ▸ hwf
    refine ⟨memRead_memWrite data pa hwf1, fun a ha => ?_, wf_memWrite data pa hwf1, ?_⟩
    · exact (memGet_memWrite_out data hwf1 ha).trans (congrArg (memGet · a) hcells)
    · rw [houtside]
      exact ⟨rfl, rfl, rfl, rfl, rfl, rfl, rfl, rfl, rfl⟩
  case whole =>
    have hne : data ≠ [] := List.ne_nil_of_length_pos (by omega)
    rw [hbmStore_oneGranule hwin hne (by omega), hlen]
    rfl
  case partly =>
    have hone := hstores.trans (hbmStore_oneGranule hwin hne hfits)
    rw [decide_eq_false (Nat.ne_of_lt hpart)] at hone
    refine ⟨fun hpass => does_liftM rfl (hone.trans ?_), fun hpoison => does_liftM rfl (hone.trans ?_),
      fun hbad => does_liftM rfl (hone.trans ?_)⟩
    · rw [writeGranule_pass hpass]
      rfl
    · rw [writeGranule_poison hpoison]
      rfl
    · rw [writeGranule_bad hbad]
      rfl

end Sys2Proof.Machine
end

section
/-! The glue windows: what one does to an element, and a write of one element. -/

namespace Sys2Proof.Machine

/-! ### Elements -/

/-- The two's-complement value of a number is that of its bits. -/
theorem signed_eq_toInt {n x : Nat} (hn : 0 < n) : signed n x = (BitVec.ofNat n x).toInt := by
  have htop : 2 * 2 ^ (n - 1) = 2 ^ n := by
    rw [← pow_succ', Nat.sub_add_cancel hn]
  have hsign : x % 2 ^ n < 2 ^ (n - 1) ↔ 2 * (x % 2 ^ n) < 2 ^ n := by omega
  rw [signed, BitVec.toInt_eq_toNat_cond, BitVec.toNat_ofNat, if_congr hsign rfl rfl]
  push_cast
  rfl

/-- A sum modulo its width is the sum of the bits. -/
theorem ofNat_add_mod (n a b : Nat) : BitVec.ofNat n ((a + b) % 2 ^ n) = BitVec.ofNat n a + BitVec.ofNat n b := by
  rw [← BitVec.ofNat_add]
  exact BitVec.eq_of_toNat_eq (by simp only [BitVec.toNat_ofNat, Nat.mod_mod])

/-- Settles O27: the sums of the formats are the windows' own, and the larger is chosen by the two's-complement values. -/
theorem glueOperations : Obligations.GlueOperations := by
  intro a b
  refine ⟨rfl, rfl, ⟨ofNat_add_mod 32 a b, Nat.mod_lt _ (by decide)⟩, ⟨ofNat_add_mod 64 a b, Nat.mod_lt _ (by decide)⟩,
    fun _ _ => ?larger⟩
  case larger =>
    have hchoice : glueOp 5 a b = if signed 64 a < signed 64 b then b else a := rfl
    simp only [← signed_eq_toInt (n := 64) (by decide), hchoice]
    split
    next hless => exact (max_eq_right (le_of_lt hless)).symm
    next hnotLess => exact (max_eq_left (not_lt.mp hnotLess)).symm

/-- R380: elements are of 2, 4 or 8 bytes. -/
theorem glueSize_cases (w : Nat) : glueSize w = 2 ∨ glueSize w = 4 ∨ glueSize w = 8 := by
  unfold glueSize
  split
  · exact .inl rfl
  · split
    · exact .inr (.inr rfl)
    · exact .inr (.inl rfl)

theorem length_memRead (m : Memory) : ∀ (n a : Nat), (memRead m a n).length = n
  | 0, _ => rfl
  | n + 1, a => congrArg (· + 1) (length_memRead m n (a + 1))

/-- R380: the operation on one element. -/
theorem glueBytes_element {w : Nat} {old data : List Byte} (hold : old.length = glueSize w) (hdata : data.length = glueSize w) :
    glueBytes w old data = leBytes (glueSize w) (glueOp w (leNat old) (leNat data)) := by
  have hpos : 0 < glueSize w := by
    have := glueSize_cases w
    omega
  have hone : chunks 1 (glueSize w) old = [old] ∧ chunks 1 (glueSize w) data = [data] := by
    simp [chunks, List.take_of_length_le, hold.le, hdata.le]
  simp [glueBytes, hdata, Nat.div_self hpos, hone]

/-! ### One element in its granule -/

/-- A write that ends inside the granule it starts in. -/
theorem glueSpan_oneGranule (e : Env) (w : Nat) (detect : Bool) (fuel : Nat) {pa : Nat} {data : List Byte} (m : Mach) (hne : data ≠ [])
    (hend : data.length ≤ 64 - pa % 64) :
    glueSpan e w detect (fuel + 1) pa data m = glueGranule e m w pa data detect := by
  have hrest (a : Nat) (n : Mach) : glueSpan e w detect fuel a [] n = n := by
    cases fuel <;> rfl
  simp only [glueSpan, List.isEmpty_eq_false_iff.mpr hne, List.take_of_length_le hend, List.drop_of_length_le hend, hrest,
    Bool.false_eq_true, if_false]

section
variable {e : Env} {m : Mach} {w pa off : Nat} {detect : Bool} {data : List Byte} {src : Writer}

/-- R381: an aligned element lies inside one granule. -/
theorem hbmGlue_element (halign : glueAligned w pa data.length = true) (hlen : data.length = glueSize w) :
    hbmGlue e m w pa data detect = glueGranule e m w pa data detect := by
  have hfits : 0 < data.length ∧ data.length ≤ 64 - pa % 64 := by
    have hmod : pa % glueSize w = 0 := by
      simp only [glueAligned, Bool.and_eq_true, beq_iff_eq] at halign
      exact halign.1
    rw [hlen]
    rcases glueSize_cases w with h | h | h <;> rw [h] at hmod ⊢ <;> omega
  exact glueSpan_oneGranule e w detect _ m (List.ne_nil_of_length_pos hfits.1) hfits.2

/-- R380: on a part that trains, an aligned element of a serving stack reaches its granule. -/
theorem glueM_element (hoff : off < 2 ^ 40) (hserves : hbmServes m (w * 2 ^ 40 + off) = true) (htrain : e.v.train = true)
    (halign : glueAligned w (w * 2 ^ 40 + off) data.length = true) (hlen : data.length = glueSize w) :
    glueM w src off detect data e m = glueGranule e m w (w * 2 ^ 40 + off) data detect := by
  have hup : (m.hbm.on && !m.hbm.selfRefresh) = true := by
    simp only [hbmServes, Bool.and_eq_true] at hserves
    simp [hserves]
  simp only [glueM, Nat.mod_eq_of_lt hoff, hup, htrain, hserves, halign, Bool.not_true, Bool.false_eq_true, if_false]
  exact hbmGlue_element halign hlen

/-- R384: the effect on the element is lost and counted. -/
def glueLoses (m : Mach) : Mach := { m with hbm := { m.hbm with glueLost := m.hbm.glueLost + 1 } }

section
variable (hkept : lostBlock m pa = false)
include hkept

theorem glueGranule_pass (hcheck : checkGranule m (granule pa) detect = .pass) :
    glueGranule e m w pa data detect = storedAt (plainOf pa) (glueBytes w (memRead m.hbm.cells (plainOf pa) data.length) data)
      (setSide m (granule pa) (sideOf detect)) := by
  simp only [glueGranule, hkept, hcheck, Bool.false_eq_true, if_false]
  rfl

theorem glueGranule_poison (hcheck : checkGranule m (granule pa) detect = .poison) :
    glueGranule e m w pa data detect = glueLoses m := by
  simp only [glueGranule, hkept, hcheck, Bool.false_eq_true, if_false]
  rfl

theorem glueGranule_bad (hcheck : checkGranule m (granule pa) detect = .bad) :
    glueGranule e m w pa data detect = glueLoses (checkFails e m pa detect) := by
  simp only [glueGranule, hkept, hcheck, Bool.false_eq_true, if_false]
  rfl

end

/-! ### The poison code stays -/

@[simp] theorem side_setSide (g : Nat) {x : Side} (hx : x ≠ .zero) : (setSide m g x).side g = x := by
  simp [Mach.side, setSide, hx]

/-- R366: a granule that failed a check holds the poison code. -/
theorem checkGranule_checkFails : checkGranule (checkFails e m pa detect) (granule pa) detect = .poison := by
  have hside : (checkFails e m pa detect).side (granule pa) = .poison := by
    rw [Mach.side, checkFails, raiseFault_hbm]
    exact side_setSide (granule pa) (show Side.poison ≠ .zero by decide)
  unfold checkGranule
  split
  · rfl
  · rw [hside]

end

/-- Settles O28: an aligned element meets one outcome of `glueGranule`. -/
theorem glueWrites_holds : Obligations.GlueWrites := by
  intro s src off detect data p hp m pa g hoff hserves htrain halign hlen hkept
  have hdoes : Does p.2 s (glueGranule s.env m p.1 pa data detect) :=
    glueM_element (e := s.env) hoff hserves htrain halign hlen ▸ does_glueWrites hp s
  refine ⟨fun hpass => ?pass, fun hpoison => ?poison, fun hbad => ⟨?bad, fun _ => checkGranule_checkFails⟩⟩
  case pass =>
    have hplain : plainOf pa = off := plainOf_window hoff
    rw [glueGranule_pass hkept hpass, hplain, glueBytes_element ((length_memRead _ _ _).trans hlen) hlen, ← hlen] at hdoes
    exact hdoes
  case poison =>
    rw [glueGranule_poison hkept hpoison] at hdoes
    exact hdoes
  case bad =>
    rw [glueGranule_bad hkept hbad] at hdoes
    exact hdoes

end Sys2Proof.Machine
end

section
/-! Lanes and pairs of a stack: training, remapping, the fences of its pairs, the end of an evacuation. -/

namespace Sys2Proof.Machine

section
variable {e : Env} {m : Mach} {st ch failing spares cause : Nat}

/-! ### Training -/

/-- R370: a channel of the device pauses. -/
theorem retrainM_trains (hon : m.hbm.on = true) (hst : st < 16) (hch : ch < 32) :
    retrainM st ch e m = m.modStack st (fun x => { x with training := ch :: x.training.filter (fun y => y != ch) }) := by
  simp only [retrainM, hon, hst, hch, decide_true, Bool.and_self, if_true]

/-- R369: the channel no longer trains. -/
def channelTrained (st ch : Nat) (m : Mach) : Mach :=
  m.modStack st (fun x => { x with training := x.training.filter (fun y => y != ch) })

section
variable (hon : m.hbm.on = true) (htrains : (m.stack st).training.contains ch = true)
include hon htrains

/-- R369: the spare lanes take the failing ones' place. -/
theorem retrainEndM_remaps (h : failing ≤ spares) :
    retrainEndM st ch failing spares cause e m =
      (channelTrained st ch m).modStack st (fun x => { x with remapped := min 255 (x.remapped + failing) }) := by
  simp only [retrainEndM, hon, htrains, h, Bool.and_self, Bool.not_true, Bool.false_eq_true, if_false, if_true]
  rfl

/-- R371: too few spare lanes are left. -/
theorem retrainEndM_fences (h : spares < failing) :
    retrainEndM st ch failing spares cause e m = fencePair e (channelTrained st ch m) st ch cause := by
  simp only [retrainEndM, hon, htrains, Nat.not_le.mpr h, Bool.and_self, Bool.not_true, Bool.false_eq_true, if_false]
  rfl

end

/-! ### Fences of pairs -/

/-- PAIR_FENCED, for the first pair of a stack and for those after the second. -/
def pairFenced (e : Env) (st ch cause : Nat) (m : Mach) : Mach :=
  raiseFault m (st / 8) { mkFault e m (st / 8) famMemory 0x16 1 with detail := st * 32 + ch + 65536 * cause }

section
variable (hmore : (m.stack st).more.contains ch = false)
include hmore

/-- R371: the first pair of its stack. -/
theorem fencePair_first (hch : ch ≠ 255) (hA : (m.stack st).pairA = 255) (hB : (m.stack st).pairB = 255) :
    fencePair e m st ch cause =
      pairFenced e st ch cause (m.modStack st (fun y => { y with pairA := ch, evacuating := decide (cause ≠ 1) })) := by
  simp only [fencePair, hA, hB, hch.symm, hmore, Bool.false_eq_true, or_self, if_false, if_true]
  rfl

section
variable (hA : (m.stack st).pairA ≠ 255) (hother : (m.stack st).pairA ≠ ch)
include hA hother

/-- R373: the second pair of its stack. -/
theorem fencePair_second (hch : ch ≠ 255) (hB : (m.stack st).pairB = 255) :
    fencePair e m st ch cause =
      raiseFault (m.modStack st (fun y => { y with pairB := ch })) (st / 8)
        { mkFault e m (st / 8) famMemory 0x17 1 with detail := st + 256 * ch } := by
  simp only [fencePair, hA, hother, hB, hch.symm, hmore, Bool.false_eq_true, or_self, if_false, if_true]

/-- R28: a pair of an exhausted stack. -/
theorem fencePair_further (hB : (m.stack st).pairB ≠ 255) (hotherB : (m.stack st).pairB ≠ ch) :
    fencePair e m st ch cause = pairFenced e st ch cause (m.modStack st (fun y => { y with more := y.more ++ [ch] })) := by
  simp only [fencePair, hA, hother, hB, hotherB, hmore, Bool.false_eq_true, or_self, if_false]
  rfl

end

end

/-- R371: the lost granules of the pair are poisoned once its copy has ended. -/
theorem evacuationM_ends {pair : Nat} {lost : List Nat} (hon : m.hbm.on = true) (hcopies : (m.stack (pair / 32)).evacuating = true)
    (hpair : (m.stack (pair / 32)).pairA = pair % 32) :
    evacuationM pair lost e m =
      (lost.filter (fun g => stackOf (64 * g) == pair / 32 && channelOf (offOf (64 * g)) == pair % 32)).foldl (evacuated e)
        (m.modStack (pair / 32) (fun y => { y with evacuating := false })) := by
  simp only [evacuationM, hon, hcopies, hpair, beq_self_eq_true, Bool.and_self, Bool.not_true, Bool.false_eq_true, if_false]

/-- The end of training leaves the stack's fences as they were. -/
theorem channelTrained_fences : ((channelTrained st ch m).stack st).pairA = (m.stack st).pairA ∧
    ((channelTrained st ch m).stack st).pairB = (m.stack st).pairB ∧ ((channelTrained st ch m).stack st).more = (m.stack st).more := by
  simp only [channelTrained, stack_modStack, and_self]

end

/-- Settles O30: training ends in a remap or in `fencePair`, which goes by the pairs that the stack has lost already. -/
theorem lanesAndPairs : Obligations.LanesAndPairs := by
  intro s st ch failing spares cause m hon
  refine ⟨fun hst hch => does_liftM rfl (retrainM_trains hon hst hch),
    fun htrains => ⟨fun h => does_liftM rfl (retrainEndM_remaps hon htrains h), fun h hch hmore => ?fences⟩,
    fun pair lost hcopies hpair => does_liftM rfl (evacuationM_ends hon hcopies hpair)⟩
  case fences =>
    have hfences := retrainEndM_fences (e := s.env) (cause := cause) hon htrains h
    obtain ⟨hA, hB, hM⟩ := channelTrained_fences (m := m) (st := st) (ch := ch)
    rw [← hM] at hmore
    rw [← hA, ← hB]
    exact ⟨fun hA hB => does_liftM rfl (hfences.trans (fencePair_first hmore hch hA hB)),
      fun hA hother hB => does_liftM rfl (hfences.trans (fencePair_second hmore hA hother hch hB)),
      fun hA hother hB hotherB => does_liftM rfl (hfences.trans (fencePair_further hmore hA hother hB hotherB))⟩

end Sys2Proof.Machine
end

section
/-! What the sequencer and the engines read of memory: fetches, prefetches and page walks. -/

namespace Sys2Proof.Machine

section
variable {e : Env} {m m1 : Mach} {c k va source slot : Nat} {write : Bool}

/-! ### Fetch and prefetch -/

section
variable (hissues : issues e m c k = true)
include hissues

/-- R388: the command at the context's position. -/
theorem fetchM_reads (hpos : (m.ctx c k).pos < (m.ctx c k).length) :
    fetchM c k none e m =
      finish e (seqFetch e m c k ((m.ctx c k).base + (m.ctx c k).step * (m.ctx c k).pos) (m.ctx c k).step).1 := by
  simp only [fetchM, hissues, Nat.not_le.mpr hpos, Bool.not_true, Bool.false_eq_true, if_false]

/-- R432: the position lies at or beyond the length of the stream. -/
theorem fetchM_pastEnd (hpos : (m.ctx c k).length ≤ (m.ctx c k).pos) :
    fetchM c k none e m = finish e (failCtx e m c k famHost 0x13) := by
  simp only [fetchM, hissues, hpos, Bool.not_true, Bool.false_eq_true, if_false, if_true]

end

section
variable (hclk : coreClocked e m c = true)
include hclk

/-- R360: the two lines ahead of the context's position. -/
theorem prefetchM_ahead (hstate : (m.ctx c k).state = .ready ∨ (m.ctx c k).state = .running) :
    let x := m.ctx c k
    let line := (x.base + x.step * x.pos) / 128
    let ahead (n : Nat) (y : Mach) : Mach := if 128 * n < x.base + x.step * x.length then prefetchLine e y c k (128 * n) else y
    prefetchM c k e m = ahead (line + 2) (ahead (line + 1) m) := by
  have hlive : ((m.ctx c k).state == .ready || (m.ctx c k).state == .running) = true := by
    simpa only [Bool.or_eq_true, beq_iff_eq] using hstate
  simp only [prefetchM, hclk, hlive, Bool.and_self, Bool.not_true, Bool.false_eq_true, if_false]

/-! ### Page walks -/

/-- R346: a page that is found needs nothing more than its translation. -/
theorem walkM_found {pa : Nat} {detect : Bool} (htrans : translate e m c va write = (m1, .ok pa detect)) :
    walkM c k va write source slot e m = m1 := by
  simp only [walkM, hclk, htrans, Bool.not_true, Bool.false_eq_true, if_false]

/-- R389: a page that is not found stops the access's engine. -/
theorem walkM_faults {kind level : Nat} (htrans : translate e m c va write = (m1, .fault kind level)) :
    walkM c k va write source slot e m =
      finish e (walkStops e (transFault e m1 c k kind level va write source slot) c k source slot) := by
  simp only [walkM, hclk, htrans, Bool.not_true, Bool.false_eq_true, if_false]

end

/-- R350: a page of 2 MiB that the translation buffer holds. -/
theorem translate_held {t : TlbEntry} (hva : va < 2 ^ 52) (hap : isAperture va = false)
    (hgiant : (m.core c).tlb1.find? (fun y => y.page == va / 2 ^ 30) = none)
    (hheld : (m.core c).tlb2.find? (fun y => y.page == va / 2 ^ 21) = some t) :
    translate e m c va write =
      (m.setCore c { m.core c with tlb2 := tlbTouch 1024 (m.core c).tlb2 t },
        useLeaf e m false write t.frame va t.write t.detect) := by
  have hin : ¬2 ^ 52 ≤ va := Nat.not_le.mpr hva
  simp only [translate, hin, Nat.mod_eq_of_lt hva, hap, hgiant, hheld, Bool.false_eq_true, if_false]

end

/-- Settles O31: fetch and prefetch go by the context's position, a walk by what the translation answers. -/
theorem fetchesAndWalks : Obligations.FetchesAndWalks := by
  intro s c k m x
  refine ⟨fun hissues hpos => does_liftM rfl (fetchM_reads hissues hpos),
    fun hissues hpos => does_liftM rfl (fetchM_pastEnd hissues hpos),
    fun hclk hstate => does_liftM rfl (prefetchM_ahead hclk hstate), fun va source slot write hclk => ⟨?held, ?found, ?fault⟩⟩
  case held =>
    intro t pa d hva hap hgiant hheld huse
    have htrans : translate s.env m c va write =
        (m.setCore c { m.core c with tlb2 := tlbTouch 1024 (m.core c).tlb2 t }, .ok pa d) :=
      huse ▸ translate_held hva hap hgiant hheld
    exact does_liftM rfl (walkM_found hclk htrans)
  case found => exact fun m1 pa d htrans => does_liftM rfl (walkM_found hclk htrans)
  case fault => exact fun m1 kd l htrans => does_liftM rfl (walkM_faults hclk htrans)

end Sys2Proof.Machine
end

section
/-! Links: training, losses, fences and retrains, and the codewords that arrive uncorrectable. -/

namespace Sys2Proof.Machine

section
variable {e : Env} {m : Mach} {n : Nat}

/-! ### What a fence rule does -/

section
variable (hempty : (m.link n).retry = [])
include hempty

/-- R412: a fence where no frame waits for its acknowledgement. -/
theorem fenceLink_empty (code : Nat) :
    fenceLink e m n code = raiseFault (m.modLink n (fun l => downLink l 3)) (dieOfLink n)
      (mkFault e (m.modLink n (fun l => downLink l 3)) (dieOfLink n) famLink code 1) := by
  simp only [fenceLink, leaveUp_empty e m n 3 hempty]

/-- R412: the first fence rule retrains the link. -/
theorem linkTrips_retrains
    (hlong : (m.link n).retrained.any (fun t => decide (nsAt e.k (dieOfLink n) ≤ t + 1000000000)) = false) :
    linkTrips e m n = (m.modLink n (fun l => downLink l 1)).modLink n (fun y =>
      { y with attempts := 0, retrained := some (nsAt e.k (dieOfLink n)) }) := by
  simp only [linkTrips, hlong, Bool.false_eq_true, if_false, leaveUp_empty e m n 1 hempty]

end

/-- R412: a fence rule within the second after the retrain fences the link. -/
theorem linkTrips_fences
    (hsoon : (m.link n).retrained.any (fun t => decide (nsAt e.k (dieOfLink n) ≤ t + 1000000000)) = true) :
    linkTrips e m n = fenceLink e (m.modLink n (fun y => { y with retrained := none })) n 0x12 := by
  simp only [linkTrips, hsoon, if_true]

/-- R398: a SLOW frame of the link's peer. -/
theorem slowM_delivered {level : Nat} (hdelivers : linkDelivers e m n = true) :
    slowM n level e m = m.modLink n (fun y => { y with slowLeft := 2 }) := by
  simp only [slowM, hdelivers, if_true]

section
variable (husable : linkUsable e m n = true)
include husable

/-! ### Training -/

/-- R393: a DOWN link trains. -/
theorem startTraining_down (hdown : (m.link n).state = 0) : startTraining e m n = m.modLink n (fun y => { y with state := 1 }) := by
  simp only [startTraining, husable, hdown, beq_self_eq_true, Bool.and_self, if_true]

/-- R397: a request trains the link anew. -/
theorem retrainRun_usable (hempty : (m.link n).retry = []) :
    retrainRun n e m =
      (0, (m.modLink n (fun l => downLink l 1)).modLink n (fun y => { y with attempts := 0, versionFail := false })) := by
  obtain ⟨⟨⟨hn, hhas⟩, -⟩, -⟩ :
      ((n < 96 ∧ e.v.hasLink n = true) ∧ linksOn m = true) ∧ dieFenced m (dieOfLink n) = false := by
    simpa only [linkUsable, Bool.and_eq_true, decide_eq_true_eq, Bool.not_eq_true'] using husable
  have hpresent : ¬(96 ≤ n ∨ e.v.hasLink n = false) := not_or.mpr ⟨Nat.not_le.mpr hn, ne_false_of_eq_true hhas⟩
  simp only [retrainRun, hpresent, husable, leaveUp_empty e m n 1 hempty, Bool.not_true, Bool.false_eq_true, if_false, rOk]

section
variable {t : Training} (htrains : (m.link n).state = 1)
include htrains

/-- R393: training failed, and not for the third time. -/
theorem trainedM_fails (hfails : t.ok = false) (hfew : (m.link n).attempts < 2) :
    trainedM n t e m = (m.modLink n (fun y => { y with versionFail := false })).modLink n (fun y =>
      { y with state := 0, attempts := y.attempts + 1 }) := by
  simp only [trainedM, husable, htrains, hfails, Nat.not_le.mpr hfew, bne_self_eq_false, Bool.not_true, Bool.or_self, Bool.not_false,
    Bool.false_eq_true, if_false, if_true]

/-- R393, R412: training failed for the third time. -/
theorem trainedM_fences (hfails : t.ok = false) (hmany : 2 ≤ (m.link n).attempts) :
    trainedM n t e m = fenceLink e ((m.modLink n (fun y => { y with versionFail := false })).modLink n (fun y =>
      { y with attempts := 0 })) n 0x12 := by
  simp only [trainedM, husable, htrains, hfails, hmany, bne_self_eq_false, Bool.not_true, Bool.or_self, Bool.not_false,
    Bool.false_eq_true, if_false, if_true]

section
variable (hok : t.ok = true)
include hok

/-- R394: the peer offers no version that the device runs. -/
theorem trainedM_noVersion (hver : commonVersion t.offers = none) :
    trainedM n t e m = raiseFault (m.modLink n (fun y => { y with state := 0, versionFail := true })) (dieOfLink n)
      (mkFault e m (dieOfLink n) famLink 0x10 1) := by
  simp only [trainedM, husable, htrains, hok, hver, bne_self_eq_false, Bool.not_true, Bool.or_self, Bool.false_eq_true, if_false]

section
variable {ver : Nat × Nat} (hver : commonVersion t.offers = some ver)
include hver

/-- R395, R412: the peer has the device's own identifier. -/
theorem trainedM_ownPeer (hown : t.peerId = m.fabric.deviceId) (hid : t.peerId ≠ 0xFFFF) :
    trainedM n t e m = fenceLink e (m.modLink n (fun y => { y with versionFail := false })) n 0x11 := by
  have hself : t.peerId = m.fabric.deviceId ∧ t.peerId ≠ 0xFFFF := ⟨hown, hid⟩
  simp only [trainedM, husable, htrains, hok, hver, if_pos hself, bne_self_eq_false, Bool.not_true, Bool.or_self, Bool.false_eq_true,
    if_false]

/-- R395: the link comes UP. -/
theorem trainedM_up (hother : t.peerId ≠ m.fabric.deviceId ∨ t.peerId = 0xFFFF) : trainedM n t e m = linkUp m n ver t := by
  have hpeer : ¬(t.peerId = m.fabric.deviceId ∧ t.peerId ≠ 0xFFFF) := fun ⟨hown, hid⟩ => hother.elim (· hown) hid
  simp only [trainedM, husable, htrains, hok, hver, if_neg hpeer, bne_self_eq_false, Bool.not_true, Bool.or_self, Bool.false_eq_true,
    if_false]

end

end

end

/-! ### Losses and fences -/

section
variable (hruns : (m.link n).state = 1 ∨ (m.link n).state = 2)
include hruns

/-- R413: the peer of a link that trains or is UP is gone. -/
theorem signalLossM_running : signalLossM n e m = leaveUp e m n 0 := by
  have hlive : ((m.link n).state == 2 || (m.link n).state == 1) = true := by
    simpa only [Bool.or_eq_true, beq_iff_eq] using hruns.symm
  simp only [signalLossM, husable, hlive, Bool.and_self, if_true]

/-- R412: a link that trains or is UP is fenced. -/
theorem linkFenceM_running : linkFenceM n e m = fenceLink e m n 0x12 := by
  have hlive : ((m.link n).state == 2 || (m.link n).state == 1) = true := by
    simpa only [Bool.or_eq_true, beq_iff_eq] using hruns.symm
  simp only [linkFenceM, husable, hlive, Bool.and_self, if_true]

end

end

/-! ### Codewords -/

/-- R412: the codewords of the running second with one more, and when that second began. -/
def codewordSecond (e : Env) (m : Mach) (n : Nat) : Nat × Nat :=
  inSecond (nsAt e.k (dieOfLink n)) (m.link n).burst (m.link n).burstFrom

/-- R412: the resends of the frame that this codeword carried. -/
def frameTries (m : Mach) (n : Nat) (again : Bool) : Nat := if again then (m.link n).tries + 1 else 1

/-- R402: both counts of the link, with what its fence rules look at. -/
def codewordCounted (e : Env) (n : Nat) (again : Bool) (m : Mach) : Mach :=
  m.modLink n (fun y => { y with
    resends := y.resends + 1, codewords := y.codewords + 1, burst := (codewordSecond e m n).1
    burstFrom := (codewordSecond e m n).2, tries := frameTries m n again })

section
variable {again : Bool} (husable : linkUsable e m n = true) (hup : (m.link n).state = 2)
include husable hup

/-- R402: no fence rule has come true. -/
theorem codewordM_counts (hfew : (codewordSecond e m n).1 ≤ 16) (htries : frameTries m n again < 8) :
    codewordM n again e m = codewordCounted e n again m := by
  have hbelow : ¬(16 < (codewordSecond e m n).1 ∨ 8 ≤ frameTries m n again) := by omega
  simp only [codewordM, husable, hup, beq_self_eq_true, Bool.and_self, if_true]
  exact if_neg hbelow

/-- R412: a fence rule has come true. -/
theorem codewordM_trips (htrips : 16 < (codewordSecond e m n).1 ∨ 8 ≤ frameTries m n again) :
    codewordM n again e m = linkTrips e (codewordCounted e n again m) n := by
  simp only [codewordM, husable, hup, beq_self_eq_true, Bool.and_self, if_true]
  exact if_pos htrips

end

end

/-- Settles O58: a link's events go by its state, by how its training ended, and by the fence rules. -/
theorem linkEvents : Obligations.LinkEvents := by
  intro s n m e x now down judged husable
  refine ⟨fun hdown => does_liftM (f := fun e m => startTraining e m n) rfl (startTraining_down husable hdown),
    fun t htrains => ?training, fun hruns hempty => ?losses,
    fun via hr hempty => does_liftM rfl (dictM_ok hr (retrainRun_usable husable hempty)), fun again hup => ?codewords,
    ⟨fun hsoon => linkTrips_fences hsoon, fun hlong hempty => linkTrips_retrains hempty hlong⟩,
    fun level hdelivers => does_liftM rfl (slowM_delivered hdelivers)⟩
  case training =>
    exact ⟨fun hfails hfew => does_liftM rfl (trainedM_fails husable htrains hfails hfew),
      fun hfails hmany => does_liftM rfl (trainedM_fences husable htrains hfails hmany),
      fun hok hver => does_liftM rfl (trainedM_noVersion husable htrains hok hver),
      fun ver hok hver => ⟨fun hown hid => does_liftM rfl (trainedM_ownPeer husable htrains hok hver hown hid),
        fun hother => does_liftM rfl (trainedM_up husable htrains hok hver hother)⟩⟩
  case losses =>
    exact ⟨does_liftM rfl ((signalLossM_running husable hruns).trans (leaveUp_empty _ _ _ _ hempty)),
      does_liftM rfl ((linkFenceM_running husable hruns).trans (fenceLink_empty hempty _))⟩
  case codewords =>
    exact ⟨fun hfew htries => does_liftM rfl (codewordM_counts husable hup hfew htries),
      fun htrips => does_liftM rfl (codewordM_trips husable hup htrips)⟩

end Sys2Proof.Machine
end

section
/-! Frames that arrive on a link: writes and signals in their order, refusals, and gaps that are given up. -/

namespace Sys2Proof.Machine

section
variable {e : Env} {m : Mach} {n : Nat} {h : FrameHead}

/-! ### Frames for this device -/

section
variable (hdelivers : linkDelivers e m n = true) (hmine : h.dest = m.fabric.deviceId)
include hdelivers hmine

section
variable {b : WriteBody}

/-- R407: a WRITE that has been applied or is held already is discarded. -/
theorem writeFrameM_known (hknown : precedes32 b.seq (m.origin h.origin).expected = true ∨
      (m.origin h.origin).writes.any (fun q => q.seq % 2 ^ 32 == b.seq % 2 ^ 32) = true) :
    writeFrameM n h b e m = m := by
  simp only [writeFrameM, routed_mine hdelivers hmine, Bool.or_eq_true, hknown, if_true]

/-- R405, R407: a new WRITE joins those that are held, and what is now in order is applied. -/
theorem writeFrameM_new (hahead : precedes32 b.seq (m.origin h.origin).expected = false)
    (hnew : (m.origin h.origin).writes.any (fun q => q.seq % 2 ^ 32 == b.seq % 2 ^ 32) = false) :
    writeFrameM n h b e m = finish e (withBeats e (fun a => releaseSignals e h.origin
      (drainWrites e (dieOfLink n) h.origin ((m.origin h.origin).writes.length + 1) a))
      (m.modOrigin h.origin (fun y => { y with writes := y.writes ++ [b] }))) := by
  simp only [writeFrameM, routed_mine hdelivers hmine, hahead, hnew, Bool.or_self, Bool.false_eq_true, if_false]

end

section
variable {b : SignalBody}

/-- R414: a SIGNAL of an origin whose gap was given up is lost. -/
theorem signalFrameM_lost (hlost : (m.origin h.origin).lost = true) :
    signalFrameM n h b e m = { m with fabric := { m.fabric with lostSignals := m.fabric.lostSignals + 1 } } := by
  simp only [signalFrameM, routed_mine hdelivers hmine, hlost, if_true]

/-- R407: a SIGNAL joins those that wait for their WRITE. -/
theorem signalFrameM_waits (hwhole : (m.origin h.origin).lost = false) :
    signalFrameM n h b e m = finish e (withBeats e (releaseSignals e h.origin)
      (m.modOrigin h.origin (fun y => { y with signals := y.signals ++ [b] }))) := by
  simp only [signalFrameM, routed_mine hdelivers hmine, hwhole, Bool.false_eq_true, if_false]

end

section
variable {d : Nat}

/-- R409: the destination is known unreachable already. -/
theorem unreachableM_known (hknown : knownLost m (halfOf e.k (dieOfLink n)) d = true) : unreachableM n h d e m = m := by
  simp only [unreachableM, routed_mine hdelivers hmine, hknown, if_true]

/-- R409: the first word that the destination is unreachable. -/
theorem unreachableM_first (hfirst : knownLost m (halfOf e.k (dieOfLink n)) d = false) :
    unreachableM n h d e m =
      raiseFault (noteLost m (halfOf e.k (dieOfLink n)) d) (dieOfLink n) (noRouteRecord e m (dieOfLink n) d) := by
  simp only [unreachableM, routed_mine hdelivers hmine, hfirst, Bool.false_eq_true, if_false]

end

end

/-! ### Held writes -/

/-- R407: the held WRITE that is next in sequence is applied. -/
theorem drainWrites_next {die o : Nat} (fuel : Nat) {b : WriteBody}
    (hnext : (m.origin o).writes.find? (fun q => q.seq % 2 ^ 32 == (m.origin o).expected) = some b) :
    drainWrites e die o (fuel + 1) m = drainWrites e die o fuel (applyFrame e die o (m.modOrigin o (fun y => { y with
      expected := (y.expected + 1) % 2 ^ 32, writes := y.writes.filter (fun q => q.seq % 2 ^ 32 != (m.origin o).expected) })) b) := by
  simp only [drainWrites, hnext]

/-- R414: the gap of `o` is given up: what waits for it is lost, and the first held WRITE is the next. -/
def gapGivenUp (e : Env) (die o : Nat) (m : Mach) : Mach :=
  let m1 := raiseFault m die { mkFault e m die famLink 0x17 6 with detail := o }
  let m2 : Mach := { m1 with fabric := { m1.fabric with
    lostSignals := m1.fabric.lostSignals + BitVec.ofNat 64 (m.origin o).signals.length } }
  m2.modOrigin o (fun y => { y with
    signals := [], lost := true, expected := ((firstHeld y).map (fun b => b.seq % 2 ^ 32)).getD y.expected })

/-- R414: signals or writes of `o` wait behind the gap. -/
theorem pathLossM_waiting {die o : Nat} (hon : linksOn m = true)
    (hwaits : (m.origin o).writes ≠ [] ∨ (m.origin o).signals ≠ []) :
    pathLossM die o e m = finish e (drainWrites e die o (m.origin o).writes.length (gapGivenUp e die o m)) := by
  have hsome : ((m.origin o).writes.isEmpty && (m.origin o).signals.isEmpty) = false := by
    simpa only [Bool.and_eq_false_iff, List.isEmpty_eq_false_iff] using hwaits
  simp only [pathLossM, hon, hsome, Bool.not_true, Bool.or_self, Bool.false_eq_true, if_false]
  rfl

end

/-- Settles O59: a frame goes by its link and its destination, and one for this device by what its origin has sent before. -/
theorem framesArrive : Obligations.FramesArrive := by
  intro s n h m e x
  refine ⟨fun hclosed => ?closed, fun hdelivers hother => ?goesOn, fun hdelivers hmine => ?mine,
    fun die o fuel b hnext => drainWrites_next fuel hnext,
    fun die o hon hwaits => does_liftM rfl (pathLossM_waiting hon hwaits)⟩
  case closed =>
    exact ⟨fun _ => does_liftM rfl (routed_closed hclosed), fun _ => does_liftM rfl (routed_closed hclosed),
      fun _ => does_liftM rfl (routed_closed hclosed)⟩
  case goesOn =>
    exact ⟨fun _ => does_liftM rfl (routed_other hdelivers hother), fun _ => does_liftM rfl (routed_other hdelivers hother),
      fun _ => does_liftM rfl (routed_other hdelivers hother)⟩
  case mine =>
    exact ⟨fun b => ⟨fun hknown => does_liftM rfl (writeFrameM_known hdelivers hmine hknown),
        fun hahead hnew => does_liftM rfl (writeFrameM_new hdelivers hmine hahead hnew)⟩,
      fun b => ⟨fun hlost => does_liftM rfl (signalFrameM_lost hdelivers hmine hlost),
        fun hwhole => does_liftM rfl (signalFrameM_waits hdelivers hmine hwhole)⟩,
      fun off reason c k => does_liftM rfl (routed_mine hdelivers hmine),
      fun d => ⟨fun hknown => does_liftM rfl (unreachableM_known hdelivers hmine hknown),
        fun hfirst => does_liftM rfl (unreachableM_first hdelivers hmine hfirst)⟩⟩

end Sys2Proof.Machine
end

section
/-! Collective slots: heartbeats, aborts, dead peers, and a heartbeat period in which nothing is to be sent. -/

namespace Sys2Proof.Machine

section
variable {e : Env} {m : Mach}

section
variable {n : Nat} {h : FrameHead} (hdelivers : linkDelivers e m n = true) (hmine : h.dest = m.fabric.deviceId)
include hdelivers hmine

/-! ### Heartbeats -/

section
variable {b : Beat}

/-- R417: a heartbeat of a collective that the device does not hold. -/
theorem heartbeatM_unknown (hslot : slotOf m b.collId = none) : heartbeatM n h b e m = m := by
  simp only [heartbeatM, routed_mine hdelivers hmine, hslot]

/-- R417 to R419: what the heartbeat tells of its sender, after which slot `i` may be closed. -/
theorem heartbeatM_known {i : Nat} (hslot : slotOf m b.collId = some i) :
    heartbeatM n h b e m = withBeats e (fun a => tryClosed e i (a.modColl i (fun y => { y with peers := y.peers.map (fun p =>
      if p.id = h.origin then notePeer b (ceilDiv (a.coll i).timeout (max 1 a.fabric.beatPeriod)) p else p) }))) m := by
  simp only [heartbeatM, routed_mine hdelivers hmine, hslot]

end

/-! ### Aborts -/

section
variable {id o reason : Nat}

/-- R420: an ABORT of a collective that the device does not hold. -/
theorem abortM_unknown (hslot : slotOf m id = none) : abortM n h id o reason e m = m := by
  simp only [abortM, routed_mine hdelivers hmine, hslot]

/-- R420: an ABORT aborts its slot. -/
theorem abortM_known {i : Nat} (hslot : slotOf m id = some i) :
    abortM n h id o reason e m = finish e (abortSlot e i 4 o 0xFFFF (some h.origin) m) := by
  simp only [abortM, routed_mine hdelivers hmine, hslot]

end

end

/-- R418: a watched peer is dead. -/
theorem peerDeadM_watched {i peer : Nat} (hlive : collLive (m.coll i) = true)
    (hpeer : (m.coll i).peers.any (fun p => p.id == peer && !p.done) = true) :
    peerDeadM i peer e m = finish e (abortSlot e i 1 m.fabric.deviceId peer none m) := by
  simp only [peerDeadM, hlive, hpeer, Bool.and_self, if_true]

/-- R398, R417: a heartbeat period without a slot to report on and without heat. -/
theorem beatPeriodM_ages (hon : linksOn m = true) (hid : m.fabric.deviceId ≠ 0xFFFF) (hnone : liveSlots m = [])
    (hcool : flagSlow m = false) :
    beatPeriodM e m = { m with fabric := { m.fabric with
      links := m.fabric.links.map (fun p => (p.1, { p.2 with slowLeft := p.2.slowLeft - 1 }))
      colls := m.fabric.colls.map (fun p =>
        (p.1, { p.2 with peers := p.2.peers.map (fun q => { q with slowLeft := q.slowLeft - 1 }) })) } } := by
  simp only [beatPeriodM, hon, beq_eq_false_iff_ne.mpr hid, hnone, hcool, List.foldl_nil, Bool.not_true, Bool.or_self,
    Bool.false_eq_true, if_false]

end

/-- Settles O60: the frame's collective names its slot, if the device holds one. -/
theorem collectiveEvents : Obligations.CollectiveEvents := by
  intro s m e
  exact ⟨fun n h b hdelivers hmine => ⟨fun hslot => does_liftM rfl (heartbeatM_unknown hdelivers hmine hslot),
      fun i hslot => does_liftM rfl (heartbeatM_known hdelivers hmine hslot)⟩,
    fun n h id o reason hdelivers hmine => ⟨fun hslot => does_liftM rfl (abortM_unknown hdelivers hmine hslot),
      fun i hslot => does_liftM rfl (abortM_known hdelivers hmine hslot)⟩,
    fun i peer hlive hpeer => does_liftM rfl (peerDeadM_watched hlive hpeer),
    fun hon hid hnone hcool => does_liftM rfl (beatPeriodM_ages hon hid hnone hcool)⟩

end Sys2Proof.Machine
end

section
/-! The actions of a context. -/

namespace Sys2Proof.Machine

section
variable {e : Env} {m : Mach} {c k : Nat}

/-- R327: nothing is closed where no ended work waits for its streams. -/
theorem closeOld_none (hended : (m.ctx c k).ending = none) : closeOld e m c k = m := by
  simp only [closeOld, hended]

/-- R434: the pending action gives its record. -/
theorem finishAction_pending {a : Action} {ring : Nat} (status : Nat) (hpending : (m.ctx c k).pendAction = some (a, ring)) :
    finishAction e m c k status =
      actionRecord e (m.modCtx c k (fun x => { x with pendAction := none })) c k ring status (actionCode a) := by
  simp only [finishAction, hpending]

/-- R434: the action is pending for the ring that COMP names. -/
@[simp] theorem ctx_setAction (a : Action) :
    (setAction m c k a).ctx c k = { m.ctx c k with pendAction := some (a, (m.ctx c k).comp) } := ctx_modCtx m c k _

/-- R433: a PREEMPT of a context that is IDLE, SAVED or FAULTED ends at once, with the context held. -/
theorem runAction_preempt_rests (hrests : (m.ctx c k).state = .idle ∨ (m.ctx c k).state = .saved ∨ (m.ctx c k).state = .faulted) :
    runAction e m c k .preempt = finishAction e (m.modCtx c k (fun x => { x with held := true })) c k 0 := by
  rcases hrests with h | h | h <;> simp only [runAction, ctx_modCtx, h]

end

section
variable {s : State} {ep c k : Nat} {a : Action} (hopen : coreOpen s ep c = true) (hk : k < 16)
include hopen hk

/-- R433, R434: a legal action where none is pending. -/
theorem actionM_legal (hlegal : actionLegal (s.mach.ctx c k) a = true) (hnone : (s.mach.ctx c k).pendAction = none)
    (hended : (s.mach.ctx c k).ending = none) :
    actionM ep c k a s.env s.mach = finish s.env (runAction s.env (setAction s.mach c k a) c k a) := by
  refine (ctxWrite_open hopen hk).trans ?_
  simp only [hlegal, hnone, closeOld_none hended, Bool.not_true, Bool.false_eq_true, if_false]

/-- R433: an action that the state of its context does not allow. -/
theorem actionM_illegal (hillegal : actionLegal (s.mach.ctx c k) a = false) :
    actionM ep c k a s.env s.mach = refuse s.env s.mach ep (ctxOff c k 0x20) 1 := by
  refine (ctxWrite_open hopen hk).trans ?_
  simp only [hillegal, Bool.not_false, if_true, cBounds]

end

/-- Each of the six commands writes its own code to the ACTION register. -/
theorem exec_action (s : State) (ep c k : Nat) :
    ∀ p ∈ [(Action.preempt, Instr.preempt ep c k), (.release, .release ep c k), (.cancel, .contextCancel ep c k), (.kill, .kill ep c k),
      (.reset, .reset ep c k), (.resume, .resume ep c k)], exec p.2 s = liftM (actionM ep c k p.1) s := by
  simp only [List.forall_mem_cons]
  exact ⟨rfl, rfl, rfl, rfl, rfl, rfl, fun _ h => nomatch h⟩

/-- Settles O40: the six commands share `actionM`; a PREEMPT of a context at rest ends with the record of the action just made pending. -/
theorem actions : Obligations.Actions := by
  intro s ep c k hopen hk m x
  refine ⟨fun p hp => ⟨fun hlegal hnone hended => does_liftM (exec_action s ep c k p hp) (actionM_legal hopen hk hlegal hnone hended),
    fun hillegal => does_liftM (exec_action s ep c k p hp) (actionM_illegal hopen hk hillegal)⟩,
    fun hrests hnone hended hbatch => does_liftM rfl ?_⟩
  have hlegal : actionLegal x .preempt = true := by
    rcases hrests with h | h | h <;> simp [actionLegal, hbatch, h]
  rw [actionM_legal hopen hk hlegal hnone hended, runAction_preempt_rests (by simpa only [ctx_setAction] using hrests),
    finishAction_pending (a := .preempt) (ring := x.comp) 0 (by simp only [ctx_modCtx, ctx_setAction, x, m])]
  rfl

end Sys2Proof.Machine
end

section
/-! The end of a batch copy and of a stroke's work. -/

namespace Sys2Proof.Machine

section
variable {e : Env} {m : Mach}

/-- R440: a batch that could be read, on a core that takes its record and its requests. -/
theorem copyEndM_delivers {i : Nat} {y : Copy} {ys : List Copy} {m1 : Mach} {qs : List Request} {bytes : List Byte} {a : Nat}
    (hcopy : (m.intake i).copies = y :: ys)
    (hread : readEntries e y.core (m.intake i).desc y.first y.ages.length m = (m1, some (qs, bytes), a))
    (hin : coreIn e m1 y.core = true)
    (hin' : coreIn e (trayWrite m1 y.core ((m.intake i).desc.reqBase * 64 + 64) bytes) y.core = true) :
    copyEndM i e m = finish e (deliverBatch e
      ((trayWrite (trayWrite m1 y.core ((m.intake i).desc.reqBase * 64 + 64) bytes) y.core ((m.intake i).desc.reqBase * 64)
        (batchRecord y qs.length (y.ages.headD 0) y.leftOver)).modIntake i (fun z =>
          { z with copies := ys, head := z.head + BitVec.ofNat 32 qs.length, taken := z.taken + BitVec.ofNat 64 qs.length,
                   leftOver := z.leftOver + BitVec.ofNat 64 (bit y.leftOver) })) i y qs) := by
  simp only [copyEndM, hcopy, hread, hin, hin', if_true]

/-- R440: a batch of no requests is read without touching memory. -/
theorem readEntries_empty {c first : Nat} {d : IntakeDesc} {ages : List Nat} (h : ages = []) :
    readEntries e c d first ages.length m = (m, some ([], []), 0) := by
  rw [h]
  rfl

/-- R441: complete work answers its requests. -/
theorem workCompleteM_complete {c k : Nat} (hdone : workComplete m c k = true) :
    workCompleteM c k e m = finish e ((finishRequests e m c k false false).modCtx c k (fun x =>
      { x with workOpen := false, late := false, intake := [] })) := by
  simp only [workCompleteM, hdone, Bool.not_true, Bool.false_eq_true, if_false]

/-- R441: work that is not complete goes on. -/
theorem workCompleteM_open {c k : Nat} (hopen : workComplete m c k = false) : workCompleteM c k e m = m := by
  simp only [workCompleteM, hopen, Bool.not_false, if_true]

end

/-- Settles O42: a batch of no requests is the copy that `readEntries_empty` reads. -/
theorem strokeWork : Obligations.StrokeWork := by
  intro s m
  refine ⟨fun i y ys hcopy hages hin hin' => does_liftM rfl ?_,
    fun i y ys m1 qs bytes a hcopy hread hin hin' => does_liftM rfl (copyEndM_delivers hcopy hread hin hin'),
    fun c k hdone => does_liftM rfl (workCompleteM_complete hdone), fun c k hopen => does_liftM rfl (workCompleteM_open hopen)⟩
  have hdelivers := copyEndM_delivers hcopy (readEntries_empty hages) hin hin'
  rwa [hages] at hdelivers

end Sys2Proof.Machine
end

section
/-! Completion rings: where a record goes, the head that the host writes, and the moderation of the vector. -/

namespace Sys2Proof.Machine

/-! ### Records -/

section
variable {e : Env} {m : Mach} {r : Nat} {q : Completion}

/-- R444: a ring without a vector sends no interrupt. -/
theorem ringVector_none {ep : Nat} (hvector : (m.compRing r).vector = 0) : ringVector m r ep = m := by
  simp only [ringVector, hvector, if_true]

/-- R442: the record of a ring without a vector stands at TAIL, with the PHASE of TAIL's pass. -/
theorem writeCompletion_unsignalled (hvector : (m.compRing r).vector = 0) :
    let x := m.compRing r
    writeCompletion m r q = (hostWrite m (x.base + 32 * (x.tail.toNat % 2 ^ x.sizeLog2))
      (completionBytes q (1 - x.tail.toNat / 2 ^ x.sizeLog2 % 2))).setComp r { x with tail := x.tail + 1 } :=
  ringVector_none (by simpa only [compRing_setComp] using hvector)

/-- R443: a record that finds room and none before it. -/
theorem pushCompletion_written (hstore : (m.compRing r).store = []) (hroom : (m.compRing r).writable = true) :
    pushCompletion e m r q = writeCompletion m r q := by
  simp only [pushCompletion, hstore, hroom, List.isEmpty_nil, Bool.and_self, if_true]

/-- R443: a record that cannot be written goes to the store, or is lost. -/
theorem pushCompletion_held (hheld : (m.compRing r).store ≠ [] ∨ (m.compRing r).writable = false) :
    let x := m.compRing r
    pushCompletion e m r q =
      if x.store.length < 1024 then m.setComp r { x with store := x.store ++ [q] }
      else if x.saidLost then m.setComp r { x with lost := x.lost + 1, saidLost := true }
      else raiseFault (m.setComp r { x with lost := x.lost + 1, saidLost := true }) (dieOf q.core)
        (mkFault e m (dieOf q.core) famHost 0x16 0) := by
  refine if_neg ?_
  rcases hheld with h | h <;> simp [h]

end

/-- Settles O44: a record is written at TAIL, or it waits, or it is lost. -/
theorem completionRecords : Obligations.CompletionRecords := by
  intro e m r q x
  refine ⟨fun hstore hroom hvector => ?_, fun hheld hfits => ?_, fun hfull hsaid => ?_⟩
  · exact (pushCompletion_written hstore hroom).trans (writeCompletion_unsignalled hvector)
  · exact (pushCompletion_held hheld).trans (if_pos hfits)
  · have hwaits : x.store ≠ [] := List.ne_nil_of_length_pos (by omega)
    exact ((pushCompletion_held (.inl hwaits)).trans (if_neg hfull.not_gt)).trans (if_pos hsaid)

/-! ### Head and moderation -/

section
variable {m : Mach} {r : Nat}

/-- R443: no record waits. -/
theorem drainStore_empty (n : Nat) (hstore : (m.compRing r).store = []) : drainStore r n m = m := by
  cases n with
  | zero => rfl
  | succ n => simp only [drainStore, hstore]

/-- R443: a head that reaches its ring. -/
theorem completionHeadM_open {s : State} {ep n : Nat} (hopen : barOpen s ep ep = true) (hr : r < 64) :
    completionHeadM ep r n s.env s.mach =
      drainStore r 1024 (s.mach.setComp r { s.mach.compRing r with head := BitVec.ofNat 32 n }) :=
  compWrite_open hopen hr

/-! R444: the interval ends with its vector held, or with none held. -/

variable {e : Env}

theorem moderationEndM_held0 (hvector : (m.compRing r).vector ≠ 0) (hruns : (m.compRing r).running0 = true)
    (hheld : (m.compRing r).held0 = true) :
    moderationEndM 0 r e m = pushMsix
      ((m.setComp r { m.compRing r with running0 := false, held0 := false }).setComp r
        { m.compRing r with running0 := decide ((m.compRing r).moderation ≠ 0), held0 := false }) 0 (m.compRing r).vector := by
  simp only [moderationEndM, hruns, hheld, Bool.and_self, if_true, ringVector, compRing_setComp, hvector, Bool.false_eq_true, if_false]

theorem moderationEndM_over0 (hfree : (m.compRing r).held0 = false) :
    moderationEndM 0 r e m = m.setComp r { m.compRing r with running0 := false, held0 := false } := by
  simp only [moderationEndM, hfree, Bool.and_false, Bool.false_eq_true, if_true, if_false]

theorem moderationEndM_held1 (hvector : (m.compRing r).vector ≠ 0) (hruns : (m.compRing r).running1 = true)
    (hheld : (m.compRing r).held1 = true) :
    moderationEndM 1 r e m = pushMsix
      ((m.setComp r { m.compRing r with running1 := false, held1 := false }).setComp r
        { m.compRing r with running1 := decide ((m.compRing r).moderation ≠ 0), held1 := false }) 1 (m.compRing r).vector := by
  simp only [moderationEndM, hruns, hheld, Bool.and_self, if_true, ringVector, compRing_setComp, hvector, one_ne_zero,
    Bool.false_eq_true, if_false]

theorem moderationEndM_over1 (hfree : (m.compRing r).held1 = false) :
    moderationEndM 1 r e m = m.setComp r { m.compRing r with running1 := false, held1 := false } := by
  simp only [moderationEndM, hfree, Bool.and_false, Bool.false_eq_true, one_ne_zero, if_false]

end

/-- Settles O43: the head is taken before the store drains, and the interval that runs tells whose vector is due. -/
theorem completionRings : Obligations.CompletionRings := by
  intro s ep r n m x
  refine ⟨fun hopen hr => ?_, fun hvector hruns => ?_, fun hvector hruns => ?_⟩
  · have htaken := completionHeadM_open (n := n) hopen hr
    exact ⟨does_liftM rfl htaken,
      fun hstore => does_liftM rfl (htaken.trans (drainStore_empty 1024 (by simpa only [compRing_setComp] using hstore)))⟩
  · exact ⟨fun hheld => does_liftM rfl (moderationEndM_held0 hvector hruns hheld),
      fun hfree => does_liftM rfl (moderationEndM_over0 hfree)⟩
  · exact ⟨fun hheld => does_liftM rfl (moderationEndM_held1 hvector hruns hheld),
      fun hfree => does_liftM rfl (moderationEndM_over1 hfree)⟩

end Sys2Proof.Machine
end

section
/-! Boot: the gauges, the image, HBM, the cores, the full memory test; the attach of an endpoint; the flash stores. -/

namespace Sys2Proof.Machine

section
variable {e : Env} {m : Mach} {g : Nat}

/-! ### The gauges start -/

/-- R514 step 1: gauge `i` as it comes out of boot ROM; whether its CAN FD pins are connected is not its own (R553). -/
def startedGauge (x : Mgmt) (i : Nat) (y : Gauge) : Gauge :=
  { Gauge.reset with
    alive := if i = 0 then x.die0Power else x.die1Power, restarted := x.holder == some i, epochSeen := x.epoch, busOff := y.busOff }

/-- R514 step 1: both gauges have started, and their fuses and stored values are in effect. -/
def gaugesStarted (m : Mach) : Mach :=
  let x := m.mgmt
  { m with
    mgmt := { x with g0 := startedGauge x 0 x.g0, g1 := startedGauge x 1 x.g1, node := x.nodeStored, ownerRead := x.ownerHash,
                     svnRead := x.fusedSvn }
    fabric := { m.fabric with deviceId := x.deviceIdStored }
    power := { m.power with state := 1, budget := x.budgetStored } }

/-- R474, R481: gauge 0 asks for the wedge when it starts and finds it free. -/
theorem bootM_starts (hpowered : m.power.alwaysOn = true) (hinput : m.power.onHoldup = false) (h0 : m.mgmt.g0.alive = false)
    (h1 : m.mgmt.g1.alive = false) :
    bootM e m = if m.mgmt.holder.isNone && m.mgmt.die0Power then takeWedge e (gaugesStarted m) 0 else gaugesStarted m :=
  if_neg (by simp [hpowered, hinput, h0, h1])

/-! ### The image -/

/-- R512, R523: gauge `g` has found the stored image good and holds its header. -/
def imagePassed (m : Mach) (g : Nat) : Mach :=
  let h := flashRead (storedImage m) 0 4096
  { m with mgmt := { m.mgmt with
    verified0 := m.mgmt.verified0 || g == 0, verified1 := m.mgmt.verified1 || g == 1, bootResult := 0
    build := (h.drop 16).take 16, svn := hdr h 12 4, header := h.take 640 } }

/-- R512, R517: gauge `g` has found the stored image bad at check `r`. -/
def imageFailed (e : Env) (m : Mach) (g r : Nat) : Mach :=
  enterRecovery (raiseFault m g { mkFault e m g famBoot (0x10 + r) 0 with detail := r }) r

/-- R514 step 3: HBM has power, and stacks and links train. -/
def diesPoweredUp (e : Env) (m : Mach) : Mach := trainAll e (trainStacks true { m with hbm := { m.hbm with on := true } })

/-- What gauge `g` has verified says nothing of what the other one has. -/
theorem imagePassed_other (hg : g < 2) :
    (if g = 0 then (imagePassed m g).mgmt.verified1 else (imagePassed m g).mgmt.verified0) =
      if g = 0 then m.mgmt.verified1 else m.mgmt.verified0 := by
  have hcases : g = 0 ∨ g = 1 := by omega
  rcases hcases with rfl | rfl <;> simp [imagePassed]

section
variable (hg : g < 2) (hpowered : m.power.alwaysOn = true) (hinput : m.power.onHoldup = false) (halive : (gaugeOf m g).alive = true)
  (hlistens : (gaugeOf m g).recovery = 0) (hboots : m.mgmt.bootState = 0)
  (hnew : (if g = 0 then m.mgmt.verified0 else m.mgmt.verified1) = false)
include hg hpowered hinput halive hlistens hboots hnew

/-- R513: with contact a bad image takes the whole module to recovery-listen. -/
theorem imageVerifiedM_fails (hbad : verifyImage (storedImage m) m.mgmt.ownerRead m.mgmt.svnRead 7 ≠ 0)
    (hcontact : m.mgmt.contact = true) :
    imageVerifiedM g e m = imageFailed e m g (verifyImage (storedImage m) m.mgmt.ownerRead m.mgmt.svnRead 7) := by
  unfold imageVerifiedM
  rw [if_neg (by simp [hg, hpowered, hinput, halive, hlistens, hboots, hnew]), if_pos hbad]
  exact if_pos (by simp [hcontact])

section
variable (hgood : verifyImage (storedImage m) m.mgmt.ownerRead m.mgmt.svnRead 7 = 0)
include hgood

/-- R514 step 2: a good image powers the dies when no other gauge is to find it good first. -/
theorem imageVerifiedM_passes :
    imageVerifiedM g e m =
      if (if g = 0 then m.mgmt.verified1 else m.mgmt.verified0) || !m.mgmt.contact || !(gaugeOf m (1 - g)).alive then
        (if m.hbm.on then imagePassed m g else diesPoweredUp e (imagePassed m g))
      else imagePassed m g := by
  unfold imageVerifiedM
  rw [if_neg (by simp [hg, hpowered, hinput, halive, hlistens, hboots, hnew]), if_neg (not_not.mpr hgood), ← imagePassed_other hg]
  rfl

/-- R513: the first gauge of two waits for the other. -/
theorem imageVerifiedM_first (hother : (if g = 0 then m.mgmt.verified1 else m.mgmt.verified0) = false)
    (hcontact : m.mgmt.contact = true) (hworks : (gaugeOf m (1 - g)).alive = true) : imageVerifiedM g e m = imagePassed m g :=
  (imageVerifiedM_passes hg hpowered hinput halive hlistens hboots hnew hgood).trans (if_neg (by simp [hother, hcontact, hworks]))

/-- R514 step 3: the second one's good image powers the dies. -/
theorem imageVerifiedM_second (hother : (if g = 0 then m.mgmt.verified1 else m.mgmt.verified0) = true) (hoff : m.hbm.on = false) :
    imageVerifiedM g e m = diesPoweredUp e (imagePassed m g) := by
  rw [imageVerifiedM_passes hg hpowered hinput halive hlistens hboots hnew hgood, if_pos (by simp [hother]), if_neg (by simp [hoff])]

end

end

/-! ### HBM and cores -/

/-- R514 step 3: training and BIST have ended, and every granule is zero. -/
def hbmZeroed (m : Mach) : Mach :=
  trainStacks false { m with hbm := { m.hbm with cells := [], side := [] }, mgmt := { m.mgmt with hbmDone := true } }

section
variable (hon : m.hbm.on = true) (hfirst : m.mgmt.hbmDone = false) (hboots : m.mgmt.bootState = 0)
include hon hfirst hboots

/-- R371, R377, R514 step 3: what failed is fenced, and each stack's first temperature is read. -/
theorem bistEndM_boot (pairs cubes : List Nat) (lanes : List (Nat × Nat)) (temps : List Int) :
    bistEndM pairs cubes lanes temps e m =
      let m2 := (pairs.filter (fun p => decide (p < 512))).foldl (fun a p => fencePair e a (p / 32) (p % 32) 1)
        ((lanes.filter (fun p => decide (p.1 < 16))).foldl remapLanes (hbmZeroed m))
      let m3 := (cubes.filter (fun t => decide (t < 16))).foldl (fun a t => fenceRegion e a (t / 2) 2) m2
      finish e (((List.range 16).zip temps).foldl (fun a p => tempReadM p.1 p.2 e a) m3) :=
  if_neg (by simp [hon, hfirst, hboots])

/-- R514 step 3: nothing has failed, and nothing is read. -/
theorem bistEndM_clean : bistEndM [] [] [] [] e m = finish e (hbmZeroed m) := by
  rw [bistEndM_boot hon hfirst hboots]
  simp only [List.filter_nil, List.foldl_nil, List.zip_nil_right]

end

/-- R514 step 5: the cores come up at boot, and the stroke clock starts. -/
theorem coresUpM_boot {k : Strokes} {v : Variant} (failed : List Nat) (ms : Nat) (hhbm : m.mgmt.hbmDone = true)
    (hfirst : m.mgmt.coresDone = false) (hboots : m.mgmt.bootState = 0) (hinput : m.power.onHoldup = false)
    (hnoWake : m.power.state ≠ 5) :
    coresUpM failed ms v k m =
      let k1 : Strokes := { k with running := true }
      let e1 : Env := { v := v, k := k1 }
      let m1 := raiseCores failed e1 m
      let full := m1.mgmt.memtestStored == 1
      (k1, finish e1 (checkReady e1 { m1 with
        mgmt := { m1.mgmt with coresDone := true, memtesting := full, bootState := if full then 0 else 1, msToStroke1 := ms }
        power := { m1.power with state := 2 } })) := by
  unfold coresUpM
  rw [if_neg (fun h => hnoWake h.1), if_pos (by simp [hhbm, hfirst, hboots, hinput])]

/-- R506 step 4: the cores come up again after park, and the stroke clock has never stopped. -/
theorem coresUpM_wake {k : Strokes} {v : Variant} (failed : List Nat) (ms : Nat) (hwakes : m.power.state = 5) (hon : m.hbm.on = true)
    (hinput : m.power.onHoldup = false) :
    coresUpM failed ms v k m =
      let m1 := raiseCores failed { v := v, k := k } (trainStacks false m)
      (k, finish { v := v, k := k } { m1 with power := { m1.power with state := 2 } }) :=
  if_pos ⟨hwakes, hon, by simp [hinput]⟩

/-- R515: the full memory test finds no bad frame. -/
theorem memtestEndM_clean (htests : m.mgmt.memtesting = true) :
    memtestEndM [] e m = finish e (checkReady e { m with
      cores := m.cores.map (fun p => (p.1, { p.2 with ctxs := [] }))
      hbm := { m.hbm with cells := [], side := [], root0 := 0, root1 := 0, rootNext0 := none, rootNext1 := none }
      mgmt := { m.mgmt with memtesting := false, bootState := 1, withdrawnByTest := 0 } }) :=
  if_neg (by simp [htests])

/-! ### Attach and stores -/

/-- R427: the UCIe module of an endpoint trains where it has power. -/
theorem ucieM_trains (half : Bool) (hg : g < 2) (hpowered : m.power.alwaysOn = true) (hinput : m.power.onHoldup = false)
    (hruns : m.power.stopped = false) (h0 : m.power.state ≠ 0) (h4 : m.power.state ≠ 4) (h6 : m.power.state ≠ 6)
    (hnew : (endpoint m g).trained = false) :
    ucieM g half e m = drainRing g 256
      (modEndpoint m g (fun y => { y with trained := true, rate16 := half, attach := attachState e.k.split m g })) :=
  if_neg (by simp [hg, hpowered, hinput, hruns, h0, h4, h6, hnew])

/-- R428: VERSION_SEL selects the native interface's only minor and a compatibility minor of 0 to 5. -/
theorem versionSelM_selects {v : Nat} (hg : g < 2) (htrained : (endpoint m g).trained = true) (hlinked : (endpoint m g).attach = 1)
    (hnative : v % 256 = 0) (hcompat : v / 256 % 256 ≤ 5) :
    versionSelM g v e m =
      let up (y : Endpoint) : Endpoint := if y.attach = 1 then { y with attach := 2 } else y
      checkReady e { m with host := { m.host with
        selected := true, nativeMinor := 0, compatMinor := v / 256 % 256, compat := natBit v 16
        ep0 := up m.host.ep0, ep1 := up m.host.ep1 } } := by
  unfold versionSelM
  rw [if_neg (by simp [hg, htrained, hlinked]), if_neg (by simp [hlinked, hnative, hcompat]), hnative]

/-- R428: any other value, or a write outside LINKED, is refused. -/
theorem versionSelM_refused {v : Nat} (hg : g < 2) (htrained : (endpoint m g).trained = true) (hlistens : (endpoint m g).attach ≠ 5)
    (hbad : (endpoint m g).attach ≠ 1 ∨ v % 256 ≠ 0 ∨ 5 < v / 256 % 256) : versionSelM g v e m = refuse e m g 0x10 1 := by
  unfold versionSelM
  rw [if_neg (by simp [hg, htrained, hlistens]), if_pos (by simpa only [Nat.pos_iff_ne_zero] using hbad)]
  rfl

/-- R452: the oldest store takes effect. -/
theorem storeEndM_oldest {q : Store} {qs : List Store} (hpowered : m.power.alwaysOn = true) (hstores : m.mgmt.stores = q :: qs) :
    storeEndM e m = { m with mgmt := storeDone q { m.mgmt with stores := qs } } := by
  simp only [storeEndM, hstores, hpowered, if_true]

end

/-- Settles O55: each clause is one step of boot or attach that its hypotheses let through. -/
theorem bootSteps : Obligations.BootSteps := by
  intro s g hg m x
  refine ⟨fun hpowered hinput h0 h1 => ?_, fun hpowered hinput halive hlistens hboots hnew => ?_,
    fun pairs cubes lanes temps hon hfirst hboots => ?_,
    fun failed ms hhbm hfirst hboots hinput hnoWake => does_liftK rfl (coresUpM_boot failed ms hhbm hfirst hboots hinput hnoWake),
    fun failed ms hwakes hon hinput => does_liftK rfl (coresUpM_wake failed ms hwakes hon hinput),
    fun htests => does_liftM rfl (memtestEndM_clean htests),
    fun half hpowered hinput hruns h0 h4 h6 hnew => does_liftM rfl (ucieM_trains half hg hpowered hinput hruns h0 h4 h6 hnew),
    fun v htrained => ⟨fun hlinked hnative hcompat => does_liftM rfl (versionSelM_selects hg htrained hlinked hnative hcompat),
      fun hlistens hbad => does_liftM rfl (versionSelM_refused hg htrained hlistens hbad)⟩,
    fun q qs hpowered hstores => does_liftM rfl (storeEndM_oldest hpowered hstores)⟩
  · have hstarts := bootM_starts (e := s.env) hpowered hinput h0 h1
    have hasks : (x.holder.isNone && x.die0Power) = true ↔ x.holder = none ∧ x.die0Power = true := by simp
    exact ⟨fun hheld => does_liftM rfl (hstarts.trans (if_neg fun h => Option.isSome_iff_ne_none.mp hheld (hasks.mp h).1)),
      fun hfree hdie => does_liftM rfl (hstarts.trans (if_pos (hasks.mpr ⟨hfree, hdie⟩)))⟩
  · intro r h bad good
    have hfails := imageVerifiedM_fails (e := s.env) hg hpowered hinput halive hlistens hboots hnew
    have hfirst := imageVerifiedM_first (e := s.env) hg hpowered hinput halive hlistens hboots hnew
    have hsecond := imageVerifiedM_second (e := s.env) hg hpowered hinput halive hlistens hboots hnew
    refine ⟨fun hother hcontact hworks => does_liftM rfl ?_, fun hother hcontact hoff => does_liftM rfl ?_⟩
    · split
      · next hgood => exact hfirst hgood hother hcontact hworks
      · next hbad => exact hfails hbad hcontact
    · split
      · next hgood => exact hsecond hgood hother hoff
      · next hbad => exact hfails hbad hcontact
  · exact ⟨does_liftM rfl (bistEndM_boot hon hfirst hboots pairs cubes lanes temps),
      does_liftM rfl (bistEndM_clean hon hfirst hboots)⟩

end Sys2Proof.Machine
end

section
/-! What a request over CAN FD, and a write of an object by either path, comes to: it is repeated, it is barred, or it is looked at. -/

namespace Sys2Proof.Machine

/-! ### Requests over CAN FD (R460, R461) -/

section
variable {g op txn idx sub : Nat} {f : Env → Mach → Mach} {e : Env} {m : Mach}

/-- R461: a request that repeats the last one gets its response again. -/
theorem request_repeated (hbus : onBus m g = true) (hrep : repeated m g op txn idx sub = true) :
    request g op txn idx sub f e m = sendCan m g 5 (gaugeOf m g).lastResponse := by
  simp [request, hbus, hrep]

/-- R460: a new one is served. -/
theorem request_new (hbus : onBus m g = true) (hnew : repeated m g op txn idx sub = false) :
    request g op txn idx sub f e m = f e m := by
  simp [request, hbus, hnew]

end

/-! ### The path of a write (R448, R453, R460, R461, R485) -/

/-- The path of a write answers, and over CAN FD the write is no repeated request. -/
def pathAnswers (m : Mach) (via : Via) (idx sub : Nat) : Prop :=
  match via with
  | .window ep => (endpoint m ep).trained = true ∧ (gaugeOf m ep).alive = true
  | .can g txn => onBus m g = true ∧ repeated m g 2 txn idx sub = false

section
variable {via : Via} {idx sub : Nat} {wedge : Bool} {v : Variant} {k : Strokes} {m : Mach}

/-- A write is looked at when its path answers and nothing bars it. -/
theorem writeHeard_iff :
    writeHeard m via idx sub wedge = true ↔ pathAnswers m via idx sub ∧ writeBarred m (viaGauge via) idx sub wedge = none := by
  cases via <;> simp [writeHeard, pathAnswers, and_comm]

/-- A write that is barred is answered with the code and changes nothing else. -/
theorem dictWrite_answersBarred {code : Nat} (f : DictRun) (hpath : pathAnswers m via idx sub)
    (hbar : writeBarred m (viaGauge via) idx sub wedge = some code) :
    dictWrite via idx sub wedge f v k m = (k, dictResult via idx sub code m) := by
  cases via with
  | window ep =>
    obtain ⟨htrained, halive⟩ := hpath
    simp [dictWrite, hbar, htrained, halive]
  | can g txn =>
    obtain ⟨hbus, hnew⟩ := hpath
    simp [dictWrite, hbar, hbus, hnew]

/-- R461: a repeated WRITE request gets its response again. -/
theorem dictWrite_repeated {g txn : Nat} (f : DictRun) (hbus : onBus m g = true) (hrep : repeated m g 2 txn idx sub = true) :
    dictWrite (.can g txn) idx sub wedge f v k m = (k, sendCan m g 5 (gaugeOf m g).lastResponse) := by
  simp [dictWrite, hbus, hrep]

/-- The same for a command that leaves the stroke clock alone. -/
theorem dictM_answersBarred {code : Nat} {e : Env} (f : Env → Mach → Nat × Mach) (hpath : pathAnswers m via idx sub)
    (hbar : writeBarred m (viaGauge via) idx sub wedge = some code) :
    dictM via idx sub wedge f e m = dictResult via idx sub code m :=
  congrArg Prod.snd (dictWrite_answersBarred (onMach f) hpath hbar)

/-! ### Writes by number (R448, R450, R460) -/

/-- R519: a REBOOT that is barred is answered as any other write. -/
theorem rebootM_barred {code : Nat} (hpath : pathAnswers m via 0x0F00 0x12)
    (hbar : writeBarred m (viaGauge via) 0x0F00 0x12 true = some code) :
    rebootM via v k m = (k, dictResult via 0x0F00 0x12 code m) := by
  have hunheard : writeHeard m via 0x0F00 0x12 true = false := by
    rw [← Bool.not_eq_true, writeHeard_iff, hbar]
    simp
  simp only [rebootM, hunheard, Bool.false_and, Bool.false_eq_true, if_false, dictM_answersBarred _ hpath hbar]

/-- REBOOT is a write of 0x0F00.12. -/
theorem object_of_isReboot {bytes : List Byte} (h : isReboot via idx sub bytes = true) : idx = 0x0F00 ∧ sub = 0x12 := by
  simp only [isReboot, Bool.and_eq_true, beq_iff_eq] at h
  obtain ⟨⟨⟨hidx, hsub⟩, -⟩, -⟩ := h
  exact ⟨hidx, hsub⟩

/-- Every write by number but REBOOT is a dictionary write with some effect. -/
theorem writeObj_isDictWrite {bytes : List Byte} (h : isReboot via idx sub bytes = false) :
    ∃ (wedge : Bool) (f : DictRun), writeObj via idx sub bytes v k m = dictWrite via idx sub wedge f v k m := by
  simp only [writeObj, h, Bool.false_eq_true, if_false]
  split
  · exact ⟨_, _, rfl⟩
  split
  · split <;> exact ⟨_, _, rfl⟩
  · exact ⟨_, _, rfl⟩

/-- A write by number that is barred, with the wedge or without, is answered with the code and changes nothing else. -/
theorem writeObj_barred {code : Nat} (bytes : List Byte) (hpath : pathAnswers m via idx sub)
    (hbar : ∀ wedge, writeBarred m (viaGauge via) idx sub wedge = some code) :
    writeObj via idx sub bytes v k m = (k, dictResult via idx sub code m) := by
  cases hreboot : isReboot via idx sub bytes with
  | true =>
    obtain ⟨rfl, rfl⟩ := object_of_isReboot hreboot
    simp only [writeObj, hreboot, if_true]
    exact rebootM_barred hpath (hbar true)
  | false =>
    obtain ⟨wedge, f, hf⟩ := writeObj_isDictWrite (v := v) (k := k) (m := m) hreboot
    exact hf.trans (dictWrite_answersBarred f hpath (hbar wedge))

/-- A number that the write fits and that may be written is written by its own effect. -/
theorem writeObj_number {bytes : List Byte} {a : ObjAccess} {w x : Nat} (hreboot : isReboot via idx sub bytes = false)
    (hreached : unreached m (viaGauge via) idx sub = false)
    (hobj : objAt { v := v, k := k } m (viaGauge via) idx sub = some { access := a, value := .num w x }) (hwritable : a ≠ .ro)
    (hfits : fitsWidth via bytes w = true) :
    writeObj via idx sub bytes v k m =
      dictWrite via idx sub (a == .rws || a == .lrw) (objRun (viaGauge via) idx sub (leNat (bytes.take w))) v k m := by
  simp [writeObj, hreboot, hreached, hobj, hwritable, hfits]

/-- A write of an object that there is not is refused. -/
theorem writeObj_absent {bytes : List Byte} (hreboot : isReboot via idx sub bytes = false)
    (hreached : unreached m (viaGauge via) idx sub = false) (hobj : objAt { v := v, k := k } m (viaGauge via) idx sub = none) :
    writeObj via idx sub bytes v k m = dictWrite via idx sub false (refusedRun rBounds) v k m := by
  simp [writeObj, hreboot, hreached, hobj]

end

end Sys2Proof.Machine
end

section
/-! READ and WRITE requests over CAN FD. -/

namespace Sys2Proof.Machine

section
variable {g txn idx sub : Nat} {e : Env} {m : Mach}

theorem readM_eq_request : readM g txn idx sub e m = request g 1 txn idx sub (fun e m =>
    respond (freeStep m) g 1 txn idx sub (readResult e m g idx sub).1 (readResult e m g idx sub).2) e m := rfl

/-- R460: a new READ is answered with the result of the object. -/
theorem readM_new (hbus : onBus m g = true) (hnew : repeated m g 1 txn idx sub = false) :
    readM g txn idx sub e m = respond (freeStep m) g 1 txn idx sub (readResult e m g idx sub).1 (readResult e m g idx sub).2 :=
  readM_eq_request.trans (request_new hbus hnew)

theorem readM_repeated (hbus : onBus m g = true) (hrep : repeated m g 1 txn idx sub = true) :
    readM g txn idx sub e m = sendCan m g 5 (gaugeOf m g).lastResponse :=
  readM_eq_request.trans (request_repeated hbus hrep)

/-- R460: a number that may be read is answered with its value. -/
theorem readResult_number {a : ObjAccess} {w x : Nat} (hreached : unreached m g idx sub = false)
    (hobj : servedObj e m g idx sub = some { access := a, value := .num w x }) (hreadable : a ≠ .wo) :
    readResult e m g idx sub = (0, leBytes w x) := by
  unfold readResult
  rw [if_neg (by simp [hreached]), hobj]
  cases a
  case wo => exact absurd rfl hreadable
  all_goals rfl

/-- R454: an absent object is BOUNDS. -/
theorem readResult_absent (hreached : unreached m g idx sub = false) (hobj : servedObj e m g idx sub = none) :
    readResult e m g idx sub = (1, []) := by
  simp [readResult, hreached, hobj, rBounds]

/-- R460: an OP that no row names is BOUNDS. -/
theorem requestM_odd {op : Nat} (bytes : List Byte) (v : Variant) (k : Strokes) (hop : op = 0 ∨ 6 < op) :
    requestM g op txn idx sub bytes v k m =
      (k, request g op txn idx sub (fun _ m => respond m g op txn idx sub 1 []) { v := v, k := k } m) := by
  unfold requestM
  rw [if_neg (by omega), if_pos hop]
  rfl

end

/-- R450, R454: what a WRITE that its gauge looks at leaves, by the result of its effect. -/
theorem dictWrite_heard {s : State} {g txn idx sub : Nat} {wedge : Bool} (f : DictRun)
    (h : writeReaches s (.can g txn) idx sub wedge = true) :
    dictWrite (.can g txn) idx sub wedge f s.variant s.strokes s.mach =
      let r := f s.variant s.strokes s.mach
      (if r.1 = 0 then r.2.1 else s.strokes,
        respond (if r.1 = 0 then r.2.2 else if r.1 = 5 then countHoldupLow s.mach else s.mach) g 2 txn idx sub r.1 []) := by
  by_cases hok : (f s.variant s.strokes s.mach).1 = 0
  · simp only [hok, if_true]
    exact dictWrite_ok h (Prod.ext hok rfl)
  · simp only [hok, if_false]
    exact dictWrite_refused h rfl hok

/-- Settles O47: a request is repeated or new, and a new one is answered as its object and its effect have it. -/
theorem dictionaryRequests : Obligations.DictionaryRequests := by
  intro s g txn idx sub bytes m via hbus
  refine ⟨fun hrep => does_liftM rfl (readM_repeated hbus hrep),
    fun hnew hreached => ⟨fun a w v hobj hreadable => ?_, fun hobj => ?_⟩,
    fun op hop => ⟨fun hnew => ?_, fun hrep => ?_⟩, fun hreboot => ⟨fun hrep => ?_, fun hreached => ⟨?_, fun hr hobj => ?_⟩⟩⟩
  · exact does_liftM rfl ((readM_new hbus hnew).trans (by rw [readResult_number hreached hobj hreadable]))
  · exact does_liftM rfl ((readM_new hbus hnew).trans (by rw [readResult_absent hreached hobj]))
  · exact does_liftK rfl ((requestM_odd bytes _ _ hop).trans (congrArg (Prod.mk _) (request_new hbus hnew)))
  · exact does_liftK rfl ((requestM_odd bytes _ _ hop).trans (congrArg (Prod.mk _) (request_repeated hbus hrep)))
  · obtain ⟨wedge, f, hf⟩ := writeObj_isDictWrite (v := s.variant) (k := s.strokes) (m := m) hreboot
    exact does_liftK rfl (hf.trans (dictWrite_repeated f hbus hrep))
  · intro a w v hobj hwritable hfits
    have hwrite := writeObj_number (via := via) hreboot hreached hobj hwritable hfits
    exact ⟨fun code hnew hbar => does_liftK rfl (hwrite.trans (dictWrite_answersBarred _ ⟨hbus, hnew⟩ hbar)),
      fun hr => does_liftK rfl (hwrite.trans (dictWrite_heard _ hr))⟩
  · exact does_liftK rfl ((writeObj_absent (via := via) hreboot hreached hobj).trans (dictWrite_refused hr rfl one_ne_zero))

end Sys2Proof.Machine
end

section
/-! Dictionary writes while the device is LEADERLESS. -/

namespace Sys2Proof.Machine

/-- R453: without a lead every write is barred but that of a fault-clearing object. -/
theorem writeBarred_leaderless {m : Mach} {idx sub : Nat} (hleaderless : m.mgmt.leaderless = true)
    (hobj : isClearObject idx sub = false) (g : Nat) (wedge : Bool) : writeBarred m g idx sub wedge = some 4 := by
  simp [writeBarred, hleaderless, hobj, rLeaderless]

/-- R453, R517: the fault-clearing objects are never barred. -/
theorem writeBarred_clearObject {idx sub : Nat} (hobj : isClearObject idx sub = true) (m : Mach) (g : Nat) :
    writeBarred m g idx sub false = none := by
  have hserved : servedInRecovery idx sub = true := by
    simp only [isClearObject, Bool.and_eq_true, beq_iff_eq] at hobj
    simp [servedInRecovery, hobj.1]
  simp [writeBarred, hobj, hserved]

/-! ### Commands that are dictionary writes -/

section
variable {s : State} {c : Instr} {via : Via} {idx sub code : Nat} {wedge : Bool} (hpath : pathAnswers s.mach via idx sub)
  (hbar : writeBarred s.mach (viaGauge via) idx sub wedge = some code)
include hpath hbar

theorem doesK_barred_liftK {f : DictRun} (hc : exec c = liftK (dictWrite via idx sub wedge f)) :
    DoesK c s s.strokes (dictResult via idx sub code s.mach) :=
  does_liftK (congrFun hc s) (dictWrite_answersBarred f hpath hbar)

theorem doesK_barred_liftM {f : Env → Mach → Nat × Mach} (hc : exec c = liftM (dictM via idx sub wedge f)) :
    DoesK c s s.strokes (dictResult via idx sub code s.mach) :=
  does_liftM (congrFun hc s) (dictM_answersBarred f hpath hbar)

end

/-- R506: where its path answers, a WAKE is a dictionary write. -/
theorem wakeM_eq_dictM {via : Via} {m : Mach} (hpath : pathAnswers m via 0x0200 0x0B) (e : Env) :
    wakeM via e m = dictM via 0x0200 0x0B true wakeUp e m := by
  cases via with
  | window ep => exact if_pos hpath.1
  | can g txn => rfl

/-! ### Writes by number, and the start of a domain write -/

/-- R447: a write of the window on a die that is not fenced is a write by number, or a dictionary write with some effect. -/
theorem registerM_window {ep off : Nat} (width n : Nat) (v : Variant) (k : Strokes) {m : Mach} (hep : ep < 2) (hoff : off < 2 ^ 25)
    (hfenced : dieFenced m ep = false) :
    registerM ep 2 off width n v k m =
      if off % 32 = 0 then writeObj (.window ep) (off / 8192) (off / 32 % 256) (leBytes width n) v k m
      else dictWrite (.window ep) (off / 8192) (off / 32 % 256) false (refusedRun rBounds) v k m := by
  unfold registerM
  rw [if_neg (by omega), if_pos rfl, if_pos hoff]
  exact if_neg (by simp [hfenced])

/-- A domain write that is barred, with the wedge or without, does not start. -/
theorem domWriteCheck_barred {e : Env} {m : Mach} {g idx sub code : Nat} (len : Nat)
    (hbar : ∀ wedge, writeBarred m g idx sub wedge = some code) : domWriteCheck e m g idx sub len = code := by
  unfold domWriteCheck
  split
  · rw [hbar]
  · rw [hbar]

theorem domWriteStartM_refused {e : Env} {m : Mach} {g txn idx sub len code : Nat} (hbus : onBus m g = true)
    (hnew : repeated m g 4 txn idx sub = false) (hcheck : domWriteCheck e m g idx sub len = code) (hbad : code ≠ 0)
    (hbank : code ≠ rHoldupLow) : domWriteStartM g txn idx sub len e m = respond m g 4 txn idx sub code [] := by
  subst hcheck
  refine (request_new hbus hnew).trans ((if_pos hbad).trans ?_)
  rw [if_neg hbank]

/-! ### The fault-clearing objects -/

/-- R533: a clear of either ring is taken. -/
theorem clearRun_ok {ring : Nat} (g n : Nat) (e : Env) (m : Mach) (hring : ring < 2) : (clearRun g ring n e m).1 = 0 := by
  unfold clearRun
  rw [if_neg (by omega)]
  split <;> rfl

theorem isClearObject_ring {ring : Nat} (hring : ring < 2) : isClearObject 0x0700 (0x10 + ring) = true := by
  have hcases : ring = 0 ∨ ring = 1 := by omega
  obtain rfl | rfl := hcases <;> rfl

/-- Settles O48: every write is barred with LEADERLESS at its path, but a clear, which is never barred. -/
theorem leaderlessRefuses : Obligations.LeaderlessRefuses := by
  intro s via hleaderless m asks
  have hbar {idx sub : Nat} (hobj : isClearObject idx sub = false) (wedge : Bool) :
      writeBarred m (viaGauge via) idx sub wedge = some 4 := writeBarred_leaderless hleaderless hobj _ wedge
  have clockWrite {idx sub : Nat} {wedge : Bool} {f : DictRun} {c : Instr} (hc : exec c = liftK (dictWrite via idx sub wedge f))
      (hobj : isClearObject idx sub = false) (hpath : asks idx sub) : DoesK c s s.strokes (dictResult via idx sub 4 m) :=
    doesK_barred_liftK hpath (hbar hobj wedge) hc
  have machWrite {idx sub : Nat} {wedge : Bool} {f : Env → Mach → Nat × Mach} {c : Instr}
      (hc : exec c = liftM (dictM via idx sub wedge f)) (hobj : isClearObject idx sub = false) (hpath : asks idx sub) :
      DoesK c s s.strokes (dictResult via idx sub 4 m) :=
    doesK_barred_liftM hpath (hbar hobj wedge) hc
  refine ⟨fun n job early key => ?_, ?_, ?_, ?_, ?_, fun r n hr hpath => ?_⟩
  · simp only [List.forall_mem_cons]
    exact ⟨clockWrite rfl rfl, clockWrite rfl rfl,
      machWrite rfl rfl, machWrite rfl rfl, machWrite rfl rfl,
      machWrite rfl rfl, machWrite rfl rfl, machWrite rfl rfl,
      fun hpath => does_liftM rfl ((wakeM_eq_dictM hpath _).trans (dictM_answersBarred _ hpath (hbar rfl true))),
      machWrite rfl rfl, machWrite rfl rfl, machWrite rfl rfl,
      fun hpath => does_liftK rfl (rebootM_barred hpath (hbar rfl true)),
      machWrite rfl rfl, machWrite rfl rfl, machWrite rfl rfl, machWrite rfl rfl, machWrite rfl rfl,
      machWrite rfl rfl, machWrite rfl rfl, machWrite rfl rfl, machWrite rfl rfl, machWrite rfl rfl,
      machWrite rfl rfl, fun p hp => absurd hp List.not_mem_nil⟩
  · rintro ep rfl hpath
    exact ⟨machWrite rfl rfl hpath, machWrite rfl rfl hpath⟩
  · rintro g txn idx sub bytes rfl hobj hpath
    exact does_liftK rfl (writeObj_barred bytes hpath (hbar hobj))
  · rintro ep off width n rfl hep hfenced hoff hobj hpath
    refine does_liftK rfl ((registerM_window width n _ _ hep hoff hfenced).trans ?_)
    split
    · exact writeObj_barred _ hpath (hbar hobj)
    · exact dictWrite_answersBarred _ hpath (hbar hobj false)
  · rintro g txn idx sub len rfl hbus hnew hobj
    exact does_liftM rfl (domWriteStartM_refused hbus hnew (domWriteCheck_barred len (hbar hobj)) (by decide) (by decide))
  · have hheard : writeReaches s via 0x0700 (0x10 + r) false = true :=
      writeHeard_iff.mpr ⟨hpath, writeBarred_clearObject (isClearObject_ring hr) _ _⟩
    exact ⟨_, does_liftM rfl (dictM_ok hheard (Prod.ext (clearRun_ok _ n _ _ hr) rfl))⟩

end Sys2Proof.Machine
end

section
/-! Domain transfers over CAN FD and through the window. -/

namespace Sys2Proof.Machine

/-! ### Over CAN FD (R465) -/

section
variable {g txn idx sub : Nat} {e : Env} {m : Mach}

/-- R465: a read starts by naming the length. -/
theorem domReadStartM_opens {b : List Byte} (hbus : onBus m g = true) (hnew : repeated m g 3 txn idx sub = false)
    (hcheck : domReadCheck e m g idx sub = (0, b)) (hfree : (gaugeOf m g).dom = none) :
    domReadStartM g txn idx sub e m = respond (openDom g idx sub false b.length b m) g 3 txn idx sub 0 (leBytes 4 b.length) := by
  refine (request_new hbus hnew).trans ?_
  simp [hcheck, hfree, rOk]

theorem domWriteStartM_opens {len : Nat} (hbus : onBus m g = true) (hnew : repeated m g 4 txn idx sub = false)
    (hcheck : domWriteCheck e m g idx sub len = 0) (hfree : (gaugeOf m g).dom = none) :
    domWriteStartM g txn idx sub len e m = respond (openDom g idx sub true len [] m) g 4 txn idx sub 0 [] := by
  refine (request_new hbus hnew).trans ?_
  simp [hcheck, hfree, rOk]

/-- A transfer over CAN FD is the one that requests for its object name. -/
theorem openOn_named {x : Gauge} {d : Dom} (hopen : x.dom = some d) (hcan : d.window = false) (hidx : d.index = idx) (hsub : d.sub = sub) :
    openOn x idx sub = some d := by
  simp [openOn, hopen, hcan, hidx, hsub]

/-- A segment of the open transfer is answered as `segmentRun` has it. -/
theorem domSegmentM_open {d : Dom} {seg : Nat} {data : List Byte} (hbus : onBus m g = true) (hnew : repeated m g 5 txn idx sub = false)
    (hopen : openOn (gaugeOf m g) idx sub = some d) :
    domSegmentM g txn idx sub seg data e m =
      let r := segmentRun e g d seg data m
      respond r.2.2 g 5 txn idx sub r.1 r.2.1 := by
  refine (request_new hbus hnew).trans ?_
  rw [hopen]

/-- An abort ends the open transfer. -/
theorem domAbortM_open {d : Dom} (hbus : onBus m g = true) (hnew : repeated m g 6 txn idx sub = false)
    (hopen : openOn (gaugeOf m g) idx sub = some d) :
    domAbortM g txn idx sub e m = respond (endDom g m) g 6 txn idx sub 0 [] := by
  refine (request_new hbus hnew).trans ?_
  rw [hopen]
  rfl

/-- 1 s without a request abandons the transfer. -/
theorem domTimeoutM_lapses {d : Dom} (hg : g < 2) (hopen : (gaugeOf m g).dom = some d) (hcan : d.window = false) :
    domTimeoutM g e m = modGauge m g (fun x => { x with dom := none, domLapsed := some (d.index, d.sub) }) := by
  unfold domTimeoutM
  rw [hopen]
  exact if_neg (by simp [hcan, hg])

end

section
variable {g seg : Nat} {data : List Byte} {d : Dom} {e : Env} {m : Mach}

/-- A segment out of order ends the transfer with SEQUENCE. -/
theorem segmentRun_outOfOrder (h : seg ≠ d.nextSeg) : segmentRun e g d seg data m = (9, [], endDom g m) := if_pos h

/-- A segment that is read moves 52 bytes, and the last one ends the transfer. -/
theorem segmentRun_read (h : seg = d.nextSeg) (hread : d.isWrite = false) :
    segmentRun e g d seg data m = (0, leBytes 4 seg ++ (d.data.drop (52 * seg)).take 52,
      if d.length ≤ 52 * (seg + 1) then endDom g m else keepDom g { d with nextSeg := seg + 1 } m) := by
  unfold segmentRun
  rw [if_neg (not_not.mpr h), if_neg (by simp [hread])]
  rfl

/-- A segment that is written and leaves bytes to come is kept. -/
theorem segmentRun_written (h : seg = d.nextSeg) (hwrite : d.isWrite = true)
    (hshort : (d.data ++ padTo (min 56 (d.length - 56 * seg)) data).length < d.length) :
    segmentRun e g d seg data m = (0, leBytes 4 seg,
      keepDom g { d with nextSeg := seg + 1, data := d.data ++ padTo (min 56 (d.length - 56 * seg)) data } m) := by
  unfold segmentRun
  rw [if_neg (not_not.mpr h), if_pos hwrite]
  exact if_pos hshort

/-- The last segment that is written ends the transfer, and the object is replaced. -/
theorem segmentRun_completes {m1 : Mach} (h : seg = d.nextSeg) (hwrite : d.isWrite = true)
    (hfull : d.length ≤ (d.data ++ padTo (min 56 (d.length - 56 * seg)) data).length)
    (happly : domApply e g d.sub (d.data ++ padTo (min 56 (d.length - 56 * seg)) data) (endDom g m) = (0, m1)) :
    segmentRun e g d seg data m = (0, leBytes 4 seg, m1) := by
  unfold segmentRun
  rw [if_neg (not_not.mpr h), if_pos hwrite]
  refine (if_neg (not_lt.mpr hfull)).trans ?_
  simp only [happly]

end

/-! ### Through the window (R466) -/

section
variable {g : Nat} {e : Env} {m : Mach}

/-- READ opens the transfer of the bytes that the object holds. -/
theorem copyRun_reads {b : List Byte} (hfree : (gaugeOf m g).dom = none)
    (hcheck : domReadCheck e m g ((gaugeOf m g).domTarget / 256 % 65536) ((gaugeOf m g).domTarget % 256) = (0, b))
    (hroom : b.length ≤ (gaugeOf m g).domLength) :
    copyRun g 1 e m = (0, modGauge m g (fun y => { y with
      domStatus := 1, domResult := 0, domMoved := 0, domLapsed := none
      dom := some { index := (gaugeOf m g).domTarget / 256 % 65536, sub := (gaugeOf m g).domTarget % 256, isWrite := false,
                    window := true, length := b.length, nextSeg := 0, data := b } })) := by
  simp [copyRun, hfree, hcheck, rOk, not_lt.mpr hroom]

/-- WRITE opens the transfer of as many bytes as the host has named. -/
theorem copyRun_writes (hfree : (gaugeOf m g).dom = none)
    (hcheck : domWriteCheck e m g ((gaugeOf m g).domTarget / 256 % 65536) ((gaugeOf m g).domTarget % 256) (gaugeOf m g).domLength = 0) :
    copyRun g 2 e m = (0, modGauge m g (fun y => { y with
      domStatus := 1, domResult := 0, domMoved := 0, domLapsed := none
      dom := some { index := (gaugeOf m g).domTarget / 256 % 65536, sub := (gaugeOf m g).domTarget % 256, isWrite := true,
                    window := true, length := (gaugeOf m g).domLength, nextSeg := 0, data := [] } })) := by
  simp [copyRun, hfree, hcheck, rOk]

section
variable {d : Dom} (hg : g < 2) (hopen : (gaugeOf m g).dom = some d) (hwindow : d.window = true) (halive : (gaugeOf m g).alive = true)
  (htrained : (endpoint m g).trained = true)
include hg hopen hwindow halive htrained

/-- A read that ends has put the bytes into host-die memory. -/
theorem copyDoneM_read (hread : d.isWrite = false) :
    copyDoneM g e m = modGauge (hostWrite (endDom g m) (gaugeOf m g).domBuffer d.data) g (fun y =>
      { y with domStatus := 2, domResult := 0, domMoved := d.length }) := by
  unfold copyDoneM
  simp only [hopen]
  rw [if_neg (by simp [hg, hwindow, halive, htrained]), if_neg (by simp [hread])]
  rfl

/-- A write that ends has replaced the object with the bytes of host-die memory. -/
theorem copyDoneM_write {m1 : Mach} (hwrite : d.isWrite = true)
    (happly : domApply e g d.sub (hostRead m (gaugeOf m g).domBuffer d.length) (endDom g m) = (0, m1)) :
    copyDoneM g e m = modGauge m1 g (fun y => { y with domStatus := 2, domResult := 0, domMoved := d.length }) := by
  unfold copyDoneM
  simp only [hopen]
  rw [if_neg (by simp [hg, hwindow, halive, htrained]), if_pos hwrite, happly]
  rfl

end

end

/-- Settles O49: each clause is one event of a transfer, over CAN FD a new request that is served. -/
theorem domainTransfers : Obligations.DomainTransfers := by
  intro s g txn idx sub m x asks
  refine ⟨fun b ⟨hbus, hnew⟩ hcheck hfree => does_liftM rfl (domReadStartM_opens hbus hnew hcheck hfree),
    fun len ⟨hbus, hnew⟩ hcheck hfree => does_liftM rfl (domWriteStartM_opens hbus hnew hcheck hfree),
    fun d seg data ⟨hbus, hnew⟩ hopen hcan hidx hsub => ?_,
    fun d ⟨hbus, hnew⟩ hopen hcan hidx hsub => does_liftM rfl (domAbortM_open hbus hnew (openOn_named hopen hcan hidx hsub)),
    fun d hg hopen hcan => does_liftM rfl (domTimeoutM_lapses hg hopen hcan),
    fun hr hfree => ⟨fun b hcheck hroom => does_liftM rfl (dictM_ok hr (copyRun_reads hfree hcheck hroom)),
      fun hcheck => does_liftM rfl (dictM_ok hr (copyRun_writes hfree hcheck))⟩,
    fun d hg hopen hwindow halive htrained =>
      ⟨fun hread => does_liftM rfl (copyDoneM_read hg hopen hwindow halive htrained hread),
        fun m1 hwrite happly => does_liftM rfl (copyDoneM_write hg hopen hwindow halive htrained hwrite happly)⟩⟩
  have hanswer {r : Nat × List Byte × Mach} (hrun : segmentRun s.env g d seg data m = r) :
      Does (.domSegment g txn idx sub seg data) s (respond r.2.2 g 5 txn idx sub r.1 r.2.1) :=
    does_liftM rfl ((domSegmentM_open hbus hnew (openOn_named hopen hcan hidx hsub)).trans (by rw [hrun]))
  subst hsub
  exact ⟨fun hseg => hanswer (segmentRun_outOfOrder hseg), fun hseg hread => hanswer (segmentRun_read hseg hread),
    fun hseg hwrite => ⟨fun hshort => hanswer (segmentRun_written hseg hwrite hshort),
      fun m1 hfull happly => hanswer (segmentRun_completes hseg hwrite hfull happly)⟩⟩

end Sys2Proof.Machine
end

section
/-! Delivery of fault records, ring heads, clears, STATUS frames and the bus. -/

namespace Sys2Proof.Machine

/-! ### What a ring does with waiting records (R528) -/

section
variable {g : Nat} {m : Mach}

theorem drainRing_empty (n : Nat) (hstore : (faultRing m g).store = []) : drainRing g n m = m := by
  cases n with
  | zero => rfl
  | succ n => simp only [drainRing, hstore]

/-- A ring that cannot be written leaves its records waiting. -/
theorem drainRing_shut (n : Nat) (hshut : ringWritable m g = false) : drainRing g n m = m := by
  cases n with
  | zero => rfl
  | succ n =>
    unfold drainRing
    simp only [hshut, Bool.false_eq_true, if_false]
    split <;> rfl

/-- R528: a record enters a ring that can be written, with the ring's SEQUENCE. -/
theorem enterRing_writes (r : FaultRec) (hstore : (faultRing m g).store = []) (hopen : ringWritable m g = true) :
    enterRing m g r =
      let x := faultRing m g
      let q := { r with seq := (x.tail.toNat + x.store.length) % 2 ^ 32 }
      (writeRing (setFaultRing m g (holdRecord x q)) g q, q) := by
  unfold enterRing
  simp only [drainRing_empty 256 hstore]
  exact if_pos (by simp [hstore, hopen])

/-- R528: else it waits behind those that wait already. -/
theorem enterRing_waits (r : FaultRec) (hshut : ringWritable m g = false) (hroom : (faultRing m g).store.length < 256) :
    enterRing m g r =
      let x := faultRing m g
      let q := { r with seq := (x.tail.toNat + x.store.length) % 2 ^ 32 }
      (setFaultRing m g { holdRecord x q with store := x.store ++ [q] }, q) := by
  unfold enterRing
  simp only [drainRing_shut 256 hshut]
  rw [if_neg (by simp [hshut])]
  exact if_pos hroom

end

/-! ### Delivery (R528, R534) -/

section
variable {g : Nat} {r : FaultRec} {m : Mach}

/-- R534: a record that the flash log does not take is left as it is. -/
theorem logRecord_unlogged (h : needsLog r = false) : logRecord false m g r = (m, r, false) := if_pos (by simp [h])

/-- R322: a record of no core concerns no context. -/
theorem tellContext_noCore (q : FaultRec) (h : 64 ≤ r.core) : tellContext m r q = m := if_neg (fun hctx => by omega)

/-- A record that neither the flash log nor a context keeps enters its ring and goes out over CAN FD. -/
theorem deliverRec_plain (hlog : needsLog r = false) (hcore : 64 ≤ r.core) :
    deliverRec false m g r = sendFault (enterRing m g r).1 g (enterRing m g r).2 := by
  simp [deliverRec, logRecord_unlogged hlog, tellContext_noCore _ hcore]

/-- The oldest record is delivered. -/
theorem deliverM_oldest {rs : List FaultRec} (e : Env) (hg : g < 2) (halive : (gaugeOf m g).alive = true)
    (hraised : (faultRing m g).raised = r :: rs) :
    deliverM g e m = deliverRec false (setFaultRing m g { faultRing m g with raised := rs }) g r := by
  unfold deliverM
  simp only [hraised]
  exact if_neg (by simp [hg, halive])

theorem deliverM_none (e : Env) (hraised : (faultRing m g).raised = []) : deliverM g e m = m := by
  unfold deliverM
  simp only [hraised, ite_self]

end

/-- Whether a ring can be written does not depend on the records to be delivered. -/
theorem ringWritable_raised (m : Mach) (g : Nat) (rs : List FaultRec) :
    ringWritable (setFaultRing m g { faultRing m g with raised := rs }) g = ringWritable m g :=
  ringWritable_set m g { faultRing m g with raised := rs } rfl rfl rfl

section
variable {g : Nat} {r : FaultRec} {rs : List FaultRec} {m : Mach} (e : Env) (hg : g < 2) (halive : (gaugeOf m g).alive = true)
  (hraised : (faultRing m g).raised = r :: rs) (hlog : needsLog r = false) (hcore : 64 ≤ r.core)
include hg halive hraised hlog hcore

/-- R528: the oldest record is written into a ring that can be written. -/
theorem deliverM_writes (hstore : (faultRing m g).store = []) (hopen : ringWritable m g = true) :
    deliverM g e m =
      let x := faultRing m g
      let q := { r with seq := (x.tail.toNat + x.store.length) % 2 ^ 32 }
      sendFault (writeRing (setFaultRing m g (holdRecord { x with raised := rs } q)) g q) g q := by
  have hopen1 := (ringWritable_raised m g rs).trans hopen
  rw [deliverM_oldest e hg halive hraised, deliverRec_plain hlog hcore, enterRing_writes r (by simpa using hstore) hopen1]
  simp only [faultRing_set, setFaultRing_set]

/-- R528: else it waits. -/
theorem deliverM_waits (hshut : ringWritable m g = false) (hroom : (faultRing m g).store.length < 256) :
    deliverM g e m =
      let x := faultRing m g
      let q := { r with seq := (x.tail.toNat + x.store.length) % 2 ^ 32 }
      sendFault (setFaultRing m g { holdRecord { x with raised := rs } q with store := x.store ++ [q] }) g q := by
  have hshut1 := (ringWritable_raised m g rs).trans hshut
  rw [deliverM_oldest e hg halive hraised, deliverRec_plain hlog hcore, enterRing_waits r hshut1 (by simpa using hroom)]
  simp only [faultRing_set, setFaultRing_set]

end

/-! ### Heads and clears (R528, R533) -/

/-- R533: how many of the records that the ring counts as held have a SEQUENCE after `s`. -/
def countLeft (x : FaultRing) (s : Nat) : Nat :=
  let newest := x.tail.toNat + x.store.length
  if x.heldCount = 0 ∨ clearedBy s (newest + 2 ^ 32 - 1) then 0 else min x.heldCount (diff32 (s + 1) newest)

theorem countLeft_le (x : FaultRing) (s : Nat) : countLeft x s ≤ x.heldCount := by
  unfold countLeft
  simp only []
  split
  · exact Nat.zero_le _
  · exact Nat.min_le_left _ _

section
variable {g ring : Nat} {m : Mach} (n : Nat) (e : Env) (hring : ring < 2) (hshared : apartRegs m = false)
include hring hshared

/-- R528: a head is taken, and waiting records are written as far as it leaves room. -/
theorem ringHeadRun_shared :
    ringHeadRun g ring n e m =
      (0, drainRing ring 256 (setFaultRing m ring { faultRing m ring with head := BitVec.ofNat 32 n })) := by
  unfold ringHeadRun
  rw [if_neg (by omega), rwWrite_shared _ _ _ _ hshared]
  simp [ringReached, hshared, rOk]

/-- R533: a clear drops the held records up to its SEQUENCE and counts what is left. -/
theorem clearRun_shared :
    let x := faultRing m ring
    let kept := x.held.filter (fun r => !clearedBy n r.seq)
    clearRun g ring n e m = (0, setFaultRing m ring { x with
      clear := BitVec.ofNat 32 n, held := kept, heldCount := max kept.length (countLeft x n) }) := by
  unfold clearRun
  rw [rwWrite_shared _ _ _ _ hshared]
  simp only [faultRing_set, setFaultRing_set]
  rw [if_neg (by omega), if_neg (by simp [ringReached, hshared])]
  rfl

end

/-! ### Frames of a gauge (R463, R553) -/

/-- R463: a STATUS frame leaves, and every tenth begins a new second. -/
theorem statusM_sends {g : Nat} (e : Env) {m : Mach} (hg : g < 2) (halive : (gaugeOf m g).alive = true) :
    statusM g e m =
      let x := faultRing m g
      sendCan (setFaultRing m g
        (if 9 ≤ x.tenths then { x with tenths := 0, framesThisSecond := 0 } else { x with tenths := x.tenths + 1 }))
        g 2 (statusBytes e m g) :=
  if_neg (by simp [hg, halive])

/-- Settles O50: each clause is one event of a gauge's ring or bus. -/
theorem faultRecords : Obligations.FaultRecords := by
  intro s g hg m x
  refine ⟨fun halive => does_liftM rfl (statusM_sends s.env hg halive), fun off => does_liftM rfl (if_pos hg),
    fun halive => ⟨fun hraised => does_liftM rfl (deliverM_none _ hraised), fun r rs hraised hlog hcore =>
      ⟨fun hstore hopen => does_liftM rfl (deliverM_writes _ hg halive hraised hlog hcore hstore hopen),
        fun hshut hroom => does_liftM rfl (deliverM_waits _ hg halive hraised hlog hcore hshut hroom)⟩⟩,
    fun via n hshared => ⟨fun hr => does_liftM rfl (dictM_ok hr (ringHeadRun_shared n _ hg hshared)), fun hr hcount => ?_⟩⟩
  have hkept : (x.held.filter (fun r => !clearedBy n r.seq)).length ≤ x.heldCount := (List.length_filter_le _ _).trans hcount.ge
  exact ⟨_, Nat.max_le.mpr ⟨hkept, countLeft_le x n⟩, Nat.le_max_left _ _,
    does_liftM rfl (dictM_ok hr (clearRun_shared n _ hg hshared))⟩

end Sys2Proof.Machine
end

section
/-! The wedge: renew, lapse, take, handover, and the watchdog of a gauge. -/

namespace Sys2Proof.Machine

/-- An update of one gauge leaves the other. -/
theorem gaugeOf_modGauge_other {g : Nat} (m : Mach) (f : Gauge → Gauge) (hg : g < 2) :
    gaugeOf (modGauge m g f) (1 - g) = gaugeOf m (1 - g) := by
  have hcases : g = 0 ∨ g = 1 := by omega
  obtain rfl | rfl := hcases <;> rfl

/-- A gauge that reaches the wedge is one of the two. -/
theorem lt_two_of_reachesWedge {m : Mach} {g : Nat} (h : reachesWedge m g = true) : g < 2 := by
  simp only [reachesWedge, Bool.and_eq_true, decide_eq_true_eq] at h
  exact h.1.1.1.1

/-! ### The lease (R472, R473) -/

section
variable {g : Nat} {m : Mach} (e : Env)

/-- R472: a renew by the holder keeps the lease, and the gauge leads. -/
theorem renewM_holder (hreaches : reachesWedge m g = true) (hholds : m.mgmt.holder = some g)
    (hruns : (gaugeOf m g).restarted = false) :
    renewM g true e m = modGauge { m with mgmt := { m.mgmt with leaseRunning := true } } g (fun x =>
      { x with lead := true, epochSeen := m.mgmt.epoch }) :=
  if_pos (by simp [hreaches, hholds, hruns])

/-- R472: one that is not confirmed does nothing. -/
theorem renewM_unconfirmed : renewM g false e m = m := if_neg (by simp)

/-- R472: a lease that runs out leaves no holder. -/
theorem leaseExpiryM_runsOut (hlease : m.mgmt.leaseRunning = true) (hholds : m.mgmt.holder = some g) :
    leaseExpiryM e m =
      let m1 := modGauge m g (fun x => { x with lead := false })
      { m1 with mgmt := { m1.mgmt with holder := none, leaseRunning := false } } := by
  unfold leaseExpiryM
  rw [if_neg (by simp [hlease]), hholds]

/-- R473: the holder may lapse, and does not act as lead then. -/
theorem lapseM_holder (hholds : m.mgmt.holder = some g) :
    lapseM g e m = modGauge m g (fun x => { x with lead := false, restarted := true }) :=
  if_pos (by simp [hholds])

end

/-! ### The take (R474) -/

/-- The machine when gauge `g` has written itself into the wedge. -/
def wedgeTaken (k : Strokes) (m : Mach) (g : Nat) : Mach :=
  modGauge { m with mgmt := { m.mgmt with
      holder := some g, epoch := m.mgmt.epoch + 1, takes := m.mgmt.takes + 1, takeStroke := strokeAt k g, leaseRunning := true } }
    g (fun x => { x with lead := true, restarted := false, epochSeen := m.mgmt.epoch + 1 })

/-- The same with the record of a take that is not the first of a boot. -/
def wedgeRecorded (e : Env) (m : Mach) (g : Nat) : Mach :=
  if m.mgmt.epoch = 0 then wedgeTaken e.k m g
  else raiseFault (wedgeTaken e.k m g) g (mkFault e (wedgeTaken e.k m g) g famManagement 0x14 0)

/-- R482 to R484: what the new lead `g` does about the other die. -/
def leadBegins (e : Env) (m : Mach) (g : Nat) : Mach :=
  if !(gaugeOf m (1 - g)).alive && !m.mgmt.pathUp then serveAlone (fenceDie e m (1 - g) 1)
  else if e.k.split && m.mgmt.pathUp && (m.mgmt.contact || !(gaugeOf m (1 - g)).alive) && !dieFenced m (1 - g) then startRejoin e m
  else m

theorem takeWedge_eq (e : Env) (m : Mach) (g : Nat) : takeWedge e m g = leadBegins e (wedgeRecorded e m g) g := by
  simp only [takeWedge, wedgeRecorded, beq_iff_eq]
  rfl

/-- In a whole device with the other gauge at work there is nothing to do about it. -/
theorem leadBegins_whole {g : Nat} {e : Env} {m : Mach} (hother : (gaugeOf m (1 - g)).alive = true) (hwhole : e.k.split = false) :
    leadBegins e m g = m := by
  unfold leadBegins
  rw [if_neg (by simp [hother]), if_neg (by simp [hwhole])]

/-- The other gauge is as it was. -/
theorem gaugeOf_wedgeRecorded_other {g : Nat} (e : Env) (m : Mach) (hg : g < 2) :
    gaugeOf (wedgeRecorded e m g) (1 - g) = gaugeOf m (1 - g) := by
  have htaken : gaugeOf (wedgeTaken e.k m g) (1 - g) = gaugeOf m (1 - g) := gaugeOf_modGauge_other _ _ hg
  unfold wedgeRecorded
  split
  · exact htaken
  · rw [gaugeOf, raiseFault_mgmt]
    exact htaken

section
variable {g : Nat} {e : Env} {m : Mach}

/-- R474: with the other gauge at work in a whole device a take does no more than to write the wedge, and after the first take of a
boot its record. -/
theorem takeWedge_whole (hg : g < 2) (hother : (gaugeOf m (1 - g)).alive = true) (hwhole : e.k.split = false) :
    takeWedge e m g = wedgeRecorded e m g :=
  (takeWedge_eq e m g).trans (leadBegins_whole ((congrArg Gauge.alive (gaugeOf_wedgeRecorded_other e m hg)).trans hother) hwhole)

/-- R474: a poll that finds a holder notes the epoch alone. -/
theorem pollM_held (hreaches : reachesWedge m g = true) (hfollows : (gaugeOf m g).lead = false) (hheld : m.mgmt.holder.isSome = true) :
    pollM g e m = modGauge m g (fun x => { x with epochSeen := m.mgmt.epoch }) := by
  unfold pollM
  rw [if_neg (by simp [hreaches, hfollows])]
  exact if_neg (by simp [Option.isSome_iff_ne_none.mp hheld])

/-- R474: one that finds none takes the wedge; at boot gauge 0 alone does. -/
theorem pollM_takes (hreaches : reachesWedge m g = true) (hfollows : (gaugeOf m g).lead = false) (hfree : m.mgmt.holder = none)
    (hmay : g = 0 ∨ 0 < m.mgmt.epoch) :
    pollM g e m = finish e (takeWedge e (modGauge m g (fun x => { x with epochSeen := m.mgmt.epoch })) g) := by
  unfold pollM
  rw [if_neg (by simp [hreaches, hfollows])]
  exact if_pos ⟨by simp [hfree], hmay⟩

/-- R474: gauge 1 takes the wedge after its delay, when it finds no holder. -/
theorem askDelayM_takes (hreaches : reachesWedge m 1 = true) (hfree : m.mgmt.holder = none) :
    askDelayM e m = finish e (takeWedge e m 1) :=
  if_pos (by simp [hreaches, hfree])

end

/-! ### Handover and watchdog (R479, R480) -/

section
variable {g : Nat} {m : Mach} (e : Env)

/-- R479: the lead itself is preferred at once. -/
theorem handoverRun_lead (hg : g ≤ 1) (hleads : (gaugeOf m g).lead = true) :
    handoverRun g e m = (0, { m with mgmt := { m.mgmt with preferred := g, handover := false } }) := by
  unfold handoverRun
  rw [if_neg (by omega), if_pos hleads]
  rfl

/-- R479: a handover to a second gauge that works is noted. -/
theorem handoverRun_second (hg : g ≤ 1) (hfollows : (gaugeOf m g).lead = false) (hcontact : m.mgmt.contact = true)
    (halive : (gaugeOf m g).alive = true) :
    handoverRun g e m = (0, { m with mgmt := { m.mgmt with preferred := g, handover := true } }) := by
  unfold handoverRun
  rw [if_neg (by omega), if_neg (by simp [hfollows]), if_neg (by simp [hcontact, halive])]
  rfl

/-- R480: a powered gauge restarts from boot ROM. -/
theorem watchdogM_restarts (hon : m.power.alwaysOn = true) (hg : g < 2)
    (hpowered : (if g = 0 then m.mgmt.die0Power else m.mgmt.die1Power) = true) :
    watchdogM g e m =
      let m1 := modGauge m g (fun x => { Gauge.reset with
        alive := true, restarted := m.mgmt.holder == some g, busOff := x.busOff, recovery := x.recovery, rwCopy := x.rwCopy })
      modGauge m1 g (fun x =>
        let y := { x with epochSeen := if reachesWedge m1 g then m.mgmt.epoch else 0 }
        if m.mgmt.contact && (gaugeOf m (1 - g)).alive then ownRegs (gaugeOf m (1 - g)) y else y) :=
  if_neg (by simp [hon, hg, hpowered])

end

/-- Settles O51: each clause is one event of the wedge or of a gauge. -/
theorem wedgeEvents : Obligations.WedgeEvents := by
  intro s g m x seen taken takes
  have htakes {a : Mach} (hg : g < 2) (hother : (gaugeOf a (1 - g)).alive = true) (hwhole : s.strokes.split = false) :
      takeWedge s.env a g = takes a := takeWedge_whole hg hother hwhole
  refine ⟨fun hreaches hholds hruns => does_liftM rfl (renewM_holder _ hreaches hholds hruns),
    does_liftM rfl (renewM_unconfirmed _),
    fun hlease hholds => does_liftM rfl (leaseExpiryM_runsOut _ hlease hholds),
    fun hholds => does_liftM rfl (lapseM_holder _ hholds),
    fun hreaches hfollows => ⟨fun hheld => does_liftM rfl (pollM_held hreaches hfollows hheld),
      fun hfree hmay hother hwhole => does_liftM rfl ((pollM_takes hreaches hfollows hfree hmay).trans ?_)⟩,
    fun hreaches hfree hother hwhole hg => does_liftM rfl ((askDelayM_takes hreaches hfree).trans ?_),
    fun via hr hg => ⟨fun hleads => does_liftM rfl (dictM_ok hr (handoverRun_lead _ hg hleads)),
      fun hfollows hcontact halive => does_liftM rfl (dictM_ok hr (handoverRun_second _ hg hfollows hcontact halive))⟩,
    fun hon hg hpowered => does_liftM rfl (watchdogM_restarts _ hon hg hpowered)⟩
  · have hg := lt_two_of_reachesWedge hreaches
    exact congrArg (finish s.env) (htakes hg ((congrArg Gauge.alive (gaugeOf_modGauge_other _ _ hg)).trans hother) hwhole)
  · subst hg
    exact congrArg (finish s.env) (htakes Nat.one_lt_two hother hwhole)

end Sys2Proof.Machine
end

section
/-! Loss and return of contact between the halves. -/

namespace Sys2Proof.Machine

/-! ### The split (R476, R482) -/

section
variable {v : Variant} {k : Strokes} {m : Mach}

/-- R476: die 1's half goes on from the number that the device has. -/
theorem splitClock_whole (locked : Bool) (hwhole : k.split = false) :
    splitClock k locked = { k with
      split := true, locked := locked, secondClock := !locked, counter1 := k.counter, timestamp1 := k.timestamp
      inWindow1 := k.inWindow } := if_neg (by simp [hwhole])

/-- The machine of a device that has just become two halves, before the record of it. -/
def splitMach (m : Mach) : Mach :=
  halfEndpoints { m with
    mgmt := { m.mgmt with rejoining := false }, power := { m.power with joint := none }
    fabric := { m.fabric with routes1 := m.fabric.routes } }

/-- R482: a whole device splits, and HALVES_SPLIT is written. -/
theorem splitDevice_whole (locked : Bool) (hwhole : k.split = false) :
    splitDevice v k locked m = (splitClock k locked,
      raiseLead (splitMach m)
        (mkFault { v := v, k := splitClock k locked } (splitMach m) (spokesGauge (splitMach m)) famManagement 0x13 0)) := by
  simp only [splitDevice, hwhole, Bool.false_eq_true, if_false, splitMach]

/-- R451: gauges that had contact take copies of the registers first. -/
theorem loseContact_inContact (hcontact : m.mgmt.contact = true) :
    loseContact v k m = splitDevice v k false (takeCopies { m with mgmt := { m.mgmt with contact := false } }) := by
  unfold loseContact
  rw [if_pos hcontact]

end

/-! ### The causes (R476, R482, R484) -/

section
variable {g : Nat} {v : Variant} {k : Strokes} {m : Mach} (hon : m.power.alwaysOn = true)
include hon

/-- R476, R482: the loss of every path between working gauges is the loss of contact, and splits the device. -/
theorem contactLossM_paths (hg : g < 2) (hcontact : m.mgmt.contact = true) (h0 : m.mgmt.g0.alive = true) (h1 : m.mgmt.g1.alive = true) :
    contactLossM g .paths v k m =
      splitDevice v k false (takeCopies { m with mgmt := { m.mgmt with linkUp := false, pathUp := false, contact := false } }) := by
  unfold contactLossM
  rw [if_neg (by simp [hon, hg])]
  refine (if_pos (by simp [hcontact, h0, h1])).trans ?_
  exact loseContact_inContact (m := { m with mgmt := { m.mgmt with linkUp := false, pathUp := false } }) hcontact

/-- R484: a working lead that reaches the die of a failed gauge keeps the device whole. -/
theorem contactLossM_stopped (hg : g < 2) (halive : (gaugeOf m g).alive = true) (hother : (gaugeOf m (1 - g)).alive = true)
    (hleads : (gaugeOf m (1 - g)).lead = true) (hpath : m.mgmt.pathUp = true) :
    contactLossM g .stopped v k m = (k, stopGauge m g) := by
  have hkept : gaugeOf (stopGauge m g) (1 - g) = gaugeOf m (1 - g) := gaugeOf_modGauge_other m _ hg
  have hpathKept : (stopGauge m g).mgmt.pathUp = true := by
    unfold stopGauge modGauge setGauge
    split <;> exact hpath
  unfold contactLossM
  rw [if_neg (by simp [hon, hg])]
  refine (if_pos halive).trans ?_
  unfold afterStop
  simp only [hkept]
  rw [if_neg (by simp [hother]), if_pos hleads, if_pos (by simp [hpathKept])]

/-- R482: with the data path up the loss of the gauge link writes its record alone. -/
theorem linkDownM_pathUp (hlink : m.mgmt.linkUp = true) (hpath : m.mgmt.pathUp = true) :
    linkDownM v k m =
      let m1 : Mach := { m with mgmt := { m.mgmt with linkUp := false } }
      (k, raiseLead m1 (mkFault { v := v, k := k } m1 (spokesGauge m1) famManagement 0x12 0)) := by
  unfold linkDownM
  rw [if_neg (by simp [hlink, hon]), if_pos hpath]

/-- R482: with the gauge link up the loss of the data path splits the device, with die 1's half locked. -/
theorem pathDownM_linkUp (hpath : m.mgmt.pathUp = true) (hlink : m.mgmt.linkUp = true) (hcontact : m.mgmt.contact = true)
    (h0 : m.mgmt.g0.alive = true) (h1 : m.mgmt.g1.alive = true) :
    pathDownM v k m = splitDevice v k true { m with mgmt := { m.mgmt with pathUp := false } } := by
  unfold pathDownM
  rw [if_neg (by simp [hpath, hon]), if_pos (by simp [h0, h1, hlink, hcontact])]

/-- R483: contact that a whole device regains is noted. -/
theorem regainedM_whole (link : Bool) (hwhole : k.split = false) (hled : m.mgmt.leaderless = false)
    (hdie0 : m.mgmt.die0Power = true) (hdie1 : m.mgmt.die1Power = true)
    (hlost : m.mgmt.contact = false ∨ m.mgmt.pathUp = false ∨ m.mgmt.g0.alive = false ∨ m.mgmt.g1.alive = false) :
    regainedM link { v := v, k := k } m = { m with mgmt := { m.mgmt with
      contact := true, pathUp := true, linkUp := m.mgmt.linkUp || link
      g0 := { m.mgmt.g0 with alive := true }, g1 := { m.mgmt.g1 with alive := true } } } := by
  have hapart : (m.mgmt.contact && m.mgmt.pathUp && m.mgmt.g0.alive && m.mgmt.g1.alive) = false := by
    simpa only [Bool.and_eq_false_iff, or_assoc] using hlost
  unfold regainedM
  rw [if_neg (by simp [hled, hdie0, hdie1, hon, hapart])]
  exact if_neg (by simp [hwhole])

end

/-- Settles O52: what is lost decides whether the device splits, and a device that was not split does not rejoin. -/
theorem contactEvents : Obligations.ContactEvents := by
  intro s m half k1 halves hon
  have hsplit {a : Mach} (locked : Bool) (hwhole : s.strokes.split = false) :
      splitDevice s.variant s.strokes locked a = (k1 locked, halves locked a) := by
    rw [splitDevice_whole locked hwhole, splitClock_whole locked hwhole]
    rfl
  exact ⟨fun g hg hwhole hcontact h0 h1 => does_liftK rfl ((contactLossM_paths hon hg hcontact h0 h1).trans (hsplit false hwhole)),
    fun g hg halive hother hleads hpath => does_liftK rfl (contactLossM_stopped hon hg halive hother hleads hpath),
    fun hlink hpath => does_liftK rfl (linkDownM_pathUp hon hlink hpath),
    fun hwhole hpath hlink hcontact h0 h1 => does_liftK rfl ((pathDownM_linkUp hon hpath hlink hcontact h0 h1).trans (hsplit true hwhole)),
    fun link hwhole hled hdie0 hdie1 hlost => does_liftM rfl (regainedM_whole hon link hwhole hled hdie0 hdie1 hlost)⟩

end Sys2Proof.Machine
end

section
/-! The queue: what one step runs. -/

namespace Sys2Proof.Machine

/-- A queue that is not empty has its front run on the state without it. -/
theorem step_cons {s : State} {c : Instr} {rest : List Instr} (h : s.pending = c :: rest) :
    step s = exec c { s with pending := rest } := by
  unfold step
  rw [h]

/-- An empty queue leaves the state as it is. -/
theorem step_nil {s : State} (h : s.pending = []) : step s = .next s := by
  unfold step
  rw [h]

/-- Settles O1: the step is a match on the queue. -/
theorem stepRunsFront : Obligations.StepRunsFront := ⟨fun _ _ _ h => step_cons h, fun _ h => step_nil h⟩

end Sys2Proof.Machine
end

section
/-! The links when the input is lost. -/

namespace Sys2Proof.Machine

/-- An update of every listed value that leaves the default alone is an update of what is read under each number. -/
theorem spGet_map_value {α : Type} (f : α → α) {d : α} (hd : f d = d) (c : Nat) :
    ∀ l : Sparse α, spGet d (l.map (fun p => (p.1, f p.2))) c = f (spGet d l c)
  | [] => hd.symm
  | p :: t => by
    rw [List.map_cons, spGet, spGet, spGet_map_value f hd c t, apply_ite f]

/-- R412: a stop takes down every link that is not fenced, and a fenced one stays fenced. -/
theorem link_state_stopLinks (m : Mach) (n : Nat) : ((stopLinks m).link n).state = if (m.link n).state = 3 then 3 else 0 :=
  congrArg Link.state (spGet_map_value (fun x => { downLink x (if x.state = 3 then 3 else 0) with attempts := 0 }) rfl n m.fabric.links)

/-- R489: so does the loss of the input. -/
theorem link_state_darken (m : Mach) (n : Nat) : ((darken m).link n).state = if (m.link n).state = 3 then 3 else 0 :=
  link_state_stopLinks _ n

/-- Refutes O53: it has every link DOWN once the input is lost, but a fenced link stays fenced over a stop, until 0x0400.07 retrains it
(R412, R538; notes/assumptions/47). The counterexample is a module with link 0 fenced. -/
theorem not_powerSequence : ¬ Obligations.PowerSequence := by
  intro h
  let fenced : Mach := Mach.reset.modLink 0 (fun x => { x with state := 3 })
  have hkept : ((darken fenced).link 0).state = 3 := by rw [link_state_darken, link_modLink, if_pos rfl]
  obtain ⟨-, -, -, -, -, ⟨-, -, -, -, -, -, -, hdown⟩, -⟩ := h { State.reset with mach := fenced }
  exact absurd (hkept.symm.trans (hdown 0)) (by decide)

end Sys2Proof.Machine
end

section
/-! Image push, the fuses, attestation. -/

namespace Sys2Proof.Machine

section
variable {e : Env} {m : Mach}

/-! ### A store that is asked for (R452, R502) -/

section
variable {q : Store}

theorem askStore_full (hfull : 16 ≤ m.mgmt.stores.length) : askStore m q = (7, m) := if_pos hfull

theorem askStore_taken (hroom : m.mgmt.stores.length < 16) (hbank : bankHolds m q = true) : askStore m q = (0, pushStore m q) :=
  (if_neg hroom.not_ge).trans (if_pos hbank)

theorem askStore_low (hroom : m.mgmt.stores.length < 16) (hbank : bankHolds m q = false) : askStore m q = (5, m) :=
  (if_neg hroom.not_ge).trans (if_neg (by simp [hbank]))

/-- R452: while the input holds, a store goes behind those that are pending. -/
theorem pushStore_input (hinput : m.power.onHoldup = false) :
    pushStore m q = { m with mgmt := { m.mgmt with stores := m.mgmt.stores ++ [q] } } := by
  simp [pushStore, hinput]

end

/-! ### BEGIN and VERIFY (R519) -/

section
variable (hidle : m.mgmt.session ≠ 1) (hdone : m.mgmt.session ≠ 2)
include hidle hdone

/-- With no session under way BEGIN goes by the erase of block 0. -/
theorem beginRun_taken {m1 : Mach} (hask : askStore m .eraseBlock0 = (0, m1)) :
    beginRun e m = (0, { m1 with mgmt := { m1.mgmt with session := 1 } }) := by
  unfold beginRun
  rw [if_neg (by simp [hidle, hdone]), hask]
  rfl

theorem beginRun_refused {code : Nat} (hask : askStore m .eraseBlock0 = (code, m)) (hcode : code ≠ 0) :
    beginRun e m = (code, m) := by
  unfold beginRun
  rw [if_neg (by simp [hidle, hdone]), hask]
  exact if_neg hcode

end

theorem beginRun_open (hopen : m.mgmt.session = 1) : beginRun e m = (1, m) := if_pos (.inl hopen)

theorem verifyRun_open (hopen : m.mgmt.session = 1) :
    verifyRun e m = (0, { m with mgmt := { m.mgmt with session := 2, verifying := true } }) := if_pos hopen

theorem verifyRun_closed (hclosed : m.mgmt.session ≠ 1) : verifyRun e m = (1, m) := if_neg hclosed

/-- The stored image is checked when no store is left. -/
theorem verifyEndM_ends (hverify : m.mgmt.verifying = true) (hstores : m.mgmt.stores = []) :
    verifyEndM e m =
      let r := verifyImage m.mgmt.flash m.mgmt.ownerRead m.mgmt.svnRead 7
      { m with mgmt := { m.mgmt with verifying := false, verifyResult := r, session := if r = 0 then 3 else 4 } } :=
  if_neg (by simp [hverify, hstores])

/-! ### The fuses (R521) -/

theorem ownerKeyRun_refused {key : List Byte}
    (hbad : key.length ≠ 64 ∨ allZero m.mgmt.ownerHash = false ∨ verifyImage (storedImage m) (Config.sm3 key) m.mgmt.fusedSvn 5 ≠ 0) :
    ownerKeyRun key e m = (1, m) := if_pos (by simpa only [Bool.not_eq_true'] using hbad)

theorem svnRun_refused {n : Nat} (hbad : n ≠ m.mgmt.svn ∨ n ≤ m.mgmt.fusedSvn) : svnRun n e m = (1, m) := if_pos hbad

-- Both banks of fuses are written, so both gauges have to work and to have contact.
section
variable (hcontact : m.mgmt.contact = true) (h0 : m.mgmt.g0.alive = true) (h1 : m.mgmt.g1.alive = true)
include hcontact h0 h1

theorem ownerKeyRun_fuses {key : List Byte} (hlength : key.length = 64) (hblank : allZero m.mgmt.ownerHash = true)
    (hgood : verifyImage (storedImage m) (Config.sm3 key) m.mgmt.fusedSvn 5 = 0) :
    ownerKeyRun key e m = (0, { m with mgmt := { m.mgmt with ownerHash := Config.sm3 key } }) := by
  unfold ownerKeyRun
  rw [if_neg (by simp [hlength, hblank, hgood]), if_neg (by simp [hcontact, h0, h1])]
  rfl

theorem svnRun_fuses {n : Nat} (hruns : n = m.mgmt.svn) (hrises : m.mgmt.fusedSvn < n) :
    svnRun n e m = (0, { m with mgmt := { m.mgmt with fusedSvn := n } }) := by
  unfold svnRun
  rw [if_neg (by simp [← hruns, hrises]), if_neg (by simp [hcontact, h0, h1])]
  rfl

end

/-! ### Attestation (R523, R524) -/

section
variable {g : Nat}

/-- A request for a report is refused only while one is made. -/
theorem attestRun_one (m : Mach) (g : Nat) :
    attestRun g 1 e m = if (gaugeOf m g).attState = 1 then (7, m) else
      (0, modGauge m g (fun y => { y with attState := 1, attResult := 0, attNonce := (gaugeOf m g).nonce })) := by
  unfold attestRun
  rw [if_neg (not_not.mpr rfl)]
  rfl

theorem attestRun_asks (hfree : (gaugeOf m g).attState ≠ 1) :
    attestRun g 1 e m =
      (0, modGauge m g (fun y => { y with attState := 1, attResult := 0, attNonce := (gaugeOf m g).nonce })) :=
  (attestRun_one m g).trans (if_neg hfree)

theorem attestRun_busy (hasked : (gaugeOf m g).attState = 1) : attestRun g 1 e m = (7, m) :=
  (attestRun_one m g).trans (if_pos hasked)

theorem attestRun_refused {n : Nat} (hn : n ≠ 1) : attestRun g n e m = (1, m) := if_pos hn

/-- The report is signed when it ends. -/
theorem attestEndM_signs {ns : Nat} (hg : g < 2) (halive : (gaugeOf m g).alive = true) (hasked : (gaugeOf m g).attState = 1) :
    attestEndM g ns e m =
      let b := reportBody e m g ns
      modGauge m g (fun y => { y with attState := 2, report := b ++ padTo 64 (Config.identitySign b) }) :=
  if_neg (by simp [hg, halive, hasked])

end

end

/-! ### REBOOT (R519) -/

section
variable {s : State} {via : Via} (hr : writeReaches s via 0x0F00 0x12 true = true)
include hr

/-- The write is answered before the module restarts. -/
theorem rebootM_restarts (hmay : mayReboot s.mach = true) :
    rebootM via s.variant s.strokes s.mach = (Strokes.reset, restart (dictResult via 0x0F00 0x12 0 s.mach)) := by
  have hheard : writeHeard s.mach via 0x0F00 0x12 true = true := hr
  refine (if_pos (by simp [hheard, hmay])).trans (congrArg (fun a => (Strokes.reset, restart a)) ?_)
  exact dictM_ok hr (Prod.ext (if_pos hmay) rfl)

theorem rebootM_refused (hmay : mayReboot s.mach = false) :
    rebootM via s.variant s.strokes s.mach = (s.strokes, dictResult via 0x0F00 0x12 1 s.mach) :=
  (if_neg (by simp [hmay])).trans (congrArg (Prod.mk s.strokes) (dictM_refused hr (if_neg (by simp [hmay])) one_ne_zero))

end

/-- Settles O56: each clause is one outcome of a write that its gauge looks at, or the end of what such a write began. -/
theorem imageAndTrust : Obligations.ImageAndTrust := by
  intro s via m x g
  have taken {idx sub : Nat} {wedge : Bool} {f : Env → Mach → Nat × Mach} {c : Instr} {a : Mach}
      (hc : exec c = liftM (dictM via idx sub wedge f)) (hr : writeReaches s via idx sub wedge = true) (hf : f s.env m = (0, a)) :
      Does c s (dictResult via idx sub 0 a) := does_liftM (congrFun hc s) (dictM_ok hr hf)
  have refused {idx sub code : Nat} {wedge : Bool} {f : Env → Mach → Nat × Mach} {c : Instr}
      (hc : exec c = liftM (dictM via idx sub wedge f)) (hr : writeReaches s via idx sub wedge = true) (hf : f s.env m = (code, m))
      (hcode : code ≠ 0) : Does c s (dictResult via idx sub code (if code = rHoldupLow then countHoldupLow m else m)) :=
    does_liftM (congrFun hc s) (dictM_refused hr (congrArg Prod.fst hf) hcode)
  refine ⟨fun hr => ⟨fun hidle hdone => ⟨fun hroom hbank => ?_, fun hroom hbank => ?_, fun hfull => ?_⟩, pushStore_input,
      fun hopen => ⟨taken rfl hr (verifyRun_open hopen), refused rfl hr (beginRun_open hopen) one_ne_zero⟩,
      fun hclosed => refused rfl hr (verifyRun_closed hclosed) one_ne_zero,
      fun hmay => does_liftK rfl (rebootM_restarts hr hmay), fun hmay => does_liftK rfl (rebootM_refused hr hmay)⟩,
    fun hverify hstores => does_liftM rfl (verifyEndM_ends hverify hstores),
    fun key hr => ⟨fun hlength hblank hcontact h0 h1 => ?_,
      fun hbad => refused rfl hr (ownerKeyRun_refused (hbad.imp_right .inl)) one_ne_zero⟩,
    fun n hr => ⟨fun hruns hrises hcontact h0 h1 => taken rfl hr (svnRun_fuses hcontact h0 h1 hruns hrises),
      fun hbad => refused rfl hr (svnRun_refused hbad) one_ne_zero⟩,
    fun hr => ⟨fun hfree => taken rfl hr (attestRun_asks hfree),
      fun hasked => refused rfl hr (attestRun_busy hasked) (by decide),
      fun n hn => refused rfl hr (attestRun_refused hn) one_ne_zero⟩,
    fun i ns hi halive hasked => does_liftM rfl (attestEndM_signs hi halive hasked)⟩
  · exact taken rfl hr (beginRun_taken hidle hdone (askStore_taken hroom hbank))
  · exact refused rfl hr (beginRun_refused hidle hdone (askStore_low hroom hbank) (by decide)) (by decide)
  · exact refused rfl hr (beginRun_refused hidle hdone (askStore_full hfull) (by decide)) (by decide)
  · split
    · next hgood => exact taken rfl hr (ownerKeyRun_fuses hcontact h0 h1 hlength hblank hgood)
    · next hbad => exact refused rfl hr (ownerKeyRun_refused (.inr (.inr hbad))) one_ne_zero

end Sys2Proof.Machine
end
